-- ==== Sys2Proof/Word.lean ====
section
/-! DEFINITION. Words and bytes: the bit-vector types of register contents, ring entries, descriptors and cells. -/

namespace Sys2Proof

/-- A byte (R13). -/
abbrev Byte := BitVec 8

/-- A 64-bit register or memory word (R443). -/
abbrev Word := BitVec 64

/-- A string of bytes in address order. -/
abbrev Bytes := List Byte

end Sys2Proof
end

