-- ==== Sys2Proof/Config.lean ====
section
/-! DEFINITION. What an instance fixes at synthesis (R4-R6), and the free values: constants without a body, for the values the
spec leaves open (notes/assumptions/10). -/

namespace Sys2Proof

/-- The three licensed configurations (R5). -/
inductive Part where
  | zv4_128_48
  | zv4_64_24
  | zv4_32_12
deriving DecidableEq, Repr

/-- The four silo depths that a licensee may choose (R6). -/
inductive Silo where
  | kib8
  | kib16
  | kib24
  | kib32
deriving DecidableEq, Repr

/-- The configuration of one instance: the licensed part and the silo depth (R5, R6). -/
structure Cfg where
  part : Part
  silo : Silo
deriving DecidableEq, Repr

namespace Config

/-- A free 64-bit value: the n-th value the spec leaves open. Nothing constrains it. -/
opaque freeWord : Nat → Word

/-- The version a Kolate image reports at run time (00, table "Version identities"): a free value of the image's bytes. -/
opaque kolateVersion : Bytes → BitVec 32

/-- The 8-bit codes in which DBG_STATUS reports CLOSED, ERASE_PENDING and OPEN (0, 1, 2): the spec names the states and not their codes
(R75). -/
opaque dbgStatusCode : Nat → BitVec 8

/-- The value that authenticates a COUNTER cell: a function of the session key, and of the sender, its port, KEY_GEN and the counter in the places
of R145. The spec says that the cell is authenticated and not how (R146; notes/assumptions/83). -/
opaque counterTag : BitVec 256 → Nat → BitVec 128

/-- Words of a block memory whose size the spec does not state: the coupler's records and beat buffer (0x05), the key store (0x06). -/
opaque memWords : Nat → Nat

end Config
end Sys2Proof
end

