-- ==== Sys2Proof/Syntax.lean ====
section
/-! DEFINITION. The commands: one constructor for each row of spec/opcode_table.json, with the operands that the surroundings
supply. A row of Kolate's (R119) names the mailbox it is taken from; its arguments are in the ring. An event whose cycle the
spec fixes carries no time; an arrival carries the RACK_TIME (or slack-buffer wait) at which it comes. -/

namespace Sys2Proof

/-- Strap levels sampled at the release of cold reset (R47, R69, R76, R78). -/
structure Straps where
  cls : List (BitVec 3)
  fedMaster : Bool
  dieId : BitVec 3
  fedDies : BitVec 3
  tapMfr : BitVec 11
deriving DecidableEq, Repr

/-- Which input made cold reset assert (R95, R96). -/
inductive ResetPin where
  | rstN
  | mainPg
  | both
deriving DecidableEq, Repr

/-- A place in a block SRAM: memory identifier of R421, instance (physical core or bank) and word address. -/
structure SramLoc where
  mem : BitVec 8
  inst : BitVec 16
  word : BitVec 40
deriving DecidableEq, Repr

/-- Why a port is lost (R70, R87, R372): PHY_RDY fell or PHY_LOS rose, or a CK_T cycle held a number of receive clock edges. -/
inductive LossCause where
  | los
  | rate (edges : Nat)
deriving DecidableEq, Repr

/-- Firmware halt reasons of R128. -/
inductive FwHalt where
  | doubleFault
  | spillExhausted
  | illegalInstruction
  | memoryUncorrectable
  | watchdog
  | assertion
deriving DecidableEq, Repr

/-- A scratchpad read channel (R58). -/
inductive RdChan where
  | a
  | b
deriving DecidableEq, Repr

/-- A scratchpad channel (R58, R61): SP_RD_A, SP_RD_B or SP_WR. -/
inductive SpChan where
  | rd (c : RdChan)
  | wr
deriving DecidableEq, Repr

/-- What the patrol port finds in a word (R421, R422). -/
inductive PatrolFind where
  | clean
  | corrected
  | uncorrectable
deriving DecidableEq, Repr

/-- A word with an error that a command's accesses meet: where it is, what its code finds, and the RACK_TIME of the access (R421,
R423, R427, R430). -/
structure SramHit where
  loc : SramLoc
  find : PatrolFind
  time : Nat
deriving DecidableEq, Repr

/-- A difference between a serving core's output and its shadow's: the RACK_TIME in which the output leaves, the position, the output kind
as HALT_REC STREAM, the first differing byte and the line (R428, R429, R436). -/
structure ShadowDiff where
  time : Nat
  pos : Nat
  kind : BitVec 3
  byte : BitVec 12
  line : BitVec 32
deriving DecidableEq, Repr

/-- What the surroundings bring into a COMPUTE command: bytes that other clients put into the scratchpad arrays before its reads, the
SRAM errors that its accesses meet, and differences that its shadow comparison meets (R1, R421, R429). -/
structure ComputeIn where
  given : List Host.Cell
  hits : List SramHit
  diffs : List ShadowDiff
deriving DecidableEq, Repr

/-- Which word of the COLLECTIVE window's pending job is written (R420). -/
inductive CircReg where
  | circ (word : Nat)
  | route
deriving DecidableEq, Repr

/-- A cell as a port receives it: the port, the sender's logical slot (R359), the wait W it spends in the slack buffer before its
stamp in ROOT_CK cycles, negative if it comes after the stamp (R361, R371), and its 256 bytes as they leave the deskew buffer. -/
structure RxCell where
  port : Nat
  slot : Nat
  wait : Int
  bytes : Bytes
deriving DecidableEq, Repr

/-- The commands: rows of spec/opcode_table.json. -/
inductive Instr where
  -- power, reset and start-up
  | powerOn
  | powerOff
  | coldResetRelease (straps : Straps)
  | mainResetAssert (pin : ResetPin)
  | clockLoss
  | refLoss
  | testReset
  | registerPortReady
  | referenceCheckDone
  | bistDone (failed : List SramLoc)
  | bistTimeout (loc : SramLoc)
  | fuseReadAck (data : Word) (err : Bool)
  | secTimeout
  | bootGo (src : BitVec 4) (data : Word)
  | imageAuthenticated (given : List Host.Cell)
  | fwStartTimeout
  | federationCheckDone
  | federationTimeout
  | trainingLimitExpiry (port : Nat)
  | warmReset (src : BitVec 4) (data : Word)
  -- register port
  | registerWrite (src : BitVec 4) (addr : BitVec 24) (data : Word)
  | recordWord0Read (src : BitVec 4) (addr : BitVec 24)
  | reqTail (src : BitVec 4) (mbox : Nat) (data : Word)
  | cplHead (src : BitVec 4) (mbox : Nat) (data : Word)
  | mbxReset (src : BitVec 4) (mbox : Nat) (data : Word)
  | alarmFatalClear (src : BitVec 4) (data : Word)
  | snapRelease (src : BitVec 4) (data : Word)
  | cmdDataRead (src : BitVec 4)
  | cmdDataWrite (src : BitVec 4) (data : Word)
  | tblDataRead (src : BitVec 4)
  | tblDataWrite (src : BitVec 4) (data : Word)
  | srResultRead (src : BitVec 4)
  | posMapWrite (src : BitVec 4) (pos : Nat) (data : Word)
  | couplerOwnerWrite (src : BitVec 4) (data : Word)
  | chainRecWrite (src : BitVec 4) (seq : Nat) (chain : Nat) (word : Nat) (data : Word)
  | portCtlWrite (src : BitVec 4) (port : Nat) (data : Word)
  | pairBypassWrite (src : BitVec 4) (data : Word)
  | ledgerWordWrite (src : BitVec 4) (word : Nat) (data : Word)
  | circRouteWordWrite (src : BitVec 4) (reg : CircReg) (data : Word)
  -- test access port and debug module
  | extest (scan : List Bool)
  | samplePreload (scan : List Bool)
  | idcode
  | bypass (code : BitVec 8) (tdi : Bool)
  | dbgStatus
  | dbgOpen (request : Bool)
  | dbgAccess (busWord : BitVec 104)
  | secErased
  -- Ronno requests
  | echo (mbox : Nat)
  | status (mbox : Nat)
  | mbxConfig (mbox : Nat)
  | expertUnlock (mbox : Nat)
  | expertLock (mbox : Nat)
  | progBegin (mbox : Nat)
  | progChunk (mbox : Nat)
  | progCommit (mbox : Nat)
  | epochRun (mbox : Nat)
  | runPrefix (mbox : Nat)
  | epochAbort (mbox : Nat)
  | tableLoad (mbox : Nat)
  | ledgerSet (mbox : Nat)
  | jobLoadWiring (mbox : Nat)
  | jobLoadRoutes (mbox : Nat)
  | jobLoadCircuits (mbox : Nat)
  | jobLoadSeeds (mbox : Nat)
  | jobInstall (mbox : Nat)
  | partSetActive (mbox : Nat)
  | partSetDelete (mbox : Nat)
  | partitionAdopt (seq : Nat)
  | partitionCleanDone
  | portBypassEnter (mbox : Nat)
  | portBypassRelease (mbox : Nat)
  | maintEnter (mbox : Nat)
  | maintLeave (mbox : Nat)
  | breakClear (mbox : Nat)
  | breakCount (mbox : Nat)
  | breakTag (mbox : Nat)
  | fenceCoreFence (mbox : Nat)
  | fenceCoreShadow (mbox : Nat)
  | fenceCoreShadowEnd (mbox : Nat)
  | fenceCoreRestore (mbox : Nat)
  -- control core
  | windowOverflowTrap
  | windowUnderflowTrap
  | firmwareHalt (reason : FwHalt)
  | watchdog
  | epochBoundaryHalt
  -- sequencing and data path
  | epochRelease (seq : Nat)
  | compute (seq : Nat) (inp : ComputeIn)
  | sync (seq : Nat)
  | swap (seq : Nat)
  | endEpoch (seq : Nat)
  | commandCompletion (seq : Nat)
  | spReadData (seq : Nat) (pos : Nat) (chan : RdChan) (line : Nat) (time : Nat) (poison : Bool)
  | lineStampExpiry (seq : Nat) (pos : Nat) (chan : SpChan) (line : Nat) (refused : Bool)
  | tallyWaitWindowEnd (seq : Nat)
  -- matrix coupler
  | epilogueBeat (time : Nat) (gen : BitVec 4) (last : Bool) (data : Bytes)
  | mcDrain (time : Nat) (gen : BitVec 4)
  | landingComplete
  | drainDeadline
  | couplerStuck
  -- link training
  | phyReady (port : Nat)
  | portLoss (port : Nat) (cause : LossCause)
  | portRetrain (port : Nat)
  | alignCell (port : Nat) (counts : List Nat) (skew : Nat)
  | idleCell (c : RxCell)
  | trainId (c : RxCell)
  | trainTime (c : RxCell) (tRx : Nat)
  | trainDone (c : RxCell)
  -- scheduled cells
  | data (c : RxCell)
  | poison (port : Nat) (slot : Nat)
  | tag (c : RxCell)
  | counter (c : RxCell)
  | bundle (c : RxCell)
  | cellStampExpiry (port : Nat) (slot : Nat)
  | abort (c : RxCell)
  | channelBarrier (c : RxCell)
  | barrierVote (c : RxCell)
  | barrierDecision (c : RxCell)
  -- epoch commit and rollback
  | commitCopyDone (dom : Nat)
  | localRollbackDone (dom : Nat)
  | rolled (c : RxCell)
  | rollbackDone (c : RxCell)
  | decisionWatchdog (dom : Nat)
  | rollbackWatchdog (dom : Nat)
  -- rack time
  | syncMessage (c : RxCell)
  | rackSyncEdge
  -- maintenance traffic
  | maintAck (c : RxCell)
  | maintAckDue (port : Nat)
  | maintReplayTimeout (port : Nat)
  -- patrol and thermal sensors
  | patrolRead (mem : BitVec 8) (find : PatrolFind)
  | thermWarn (sensor : BitVec 4) (reading : BitVec 8)
  | thermal (sensor : BitVec 4) (reading : BitVec 8)
  -- rows added later to the table
  | epilogueBeatNotPresented
  | bypassSwitchWait (pair : Nat)
  | reservedTypeCell (c : RxCell)
  | badOpcode (mbox : Nat)
deriving DecidableEq, Repr

end Sys2Proof
end

