-- ==== Sys2Proof/Machine/Mem.lean ====
section
/-! DEFINITION. Byte-addressed memory in one canonical form: addresses strictly rising, no entry equal to what an unlisted
address reads as. An unlisted byte reads 0: block SRAM is scrubbed to zero (R96); for the surroundings' scratchpad arrays this
is a DESIGN CHOICE (notes/assumptions/4). Little-endian (R13). -/

namespace Sys2Proof

/-- A memory: (address, byte) pairs. -/
abbrev Mem := List Host.Cell

/-- What an unlisted address reads as. -/
def Mem.unlisted : Byte := 0

/-- The byte at an address. -/
def Mem.read : Mem → Nat → Byte
  | [], _ => Mem.unlisted
  | (k, v) :: m, a => if k = a then v else Mem.read m a

/-- Write one byte, keeping the canonical form. -/
def Mem.write : Mem → Nat → Byte → Mem
  | [], a, b => if b = Mem.unlisted then [] else [(a, b)]
  | (k, v) :: m, a, b =>
    if a < k then
      if b = Mem.unlisted then (k, v) :: m else (a, b) :: (k, v) :: m
    else if a = k then
      if b = Mem.unlisted then m else (a, b) :: m
    else (k, v) :: Mem.write m a b

/-- The canonical form, as a check. -/
def Mem.wf : Mem → Bool
  | [] => true
  | (k, v) :: m => decide (v ≠ Mem.unlisted) && m.all (fun c => decide (k < c.1)) && Mem.wf m

/-- Write bytes at rising addresses. -/
def Mem.writeBytes (m : Mem) (a : Nat) : Bytes → Mem
  | [] => m
  | b :: bs => Mem.writeBytes (Mem.write m a b) (a + 1) bs

/-- Read n bytes at rising addresses. -/
def Mem.readBytes (m : Mem) (a : Nat) (n : Nat) : Bytes := (List.range n).map fun i => m.read (a + i)

/-- Write zero to n bytes from an address (a scrub). -/
def Mem.clear (m : Mem) (a n : Nat) : Mem := m.filter fun c => !decide (a ≤ c.1 ∧ c.1 < a + n)

/-- A little-endian number of a string of bytes. -/
def leNat : Bytes → Nat
  | [] => 0
  | b :: bs => b.toNat + 256 * leNat bs

/-- The n bytes of a number, little-endian. -/
def leBytes : Nat → Nat → Bytes
  | 0, _ => []
  | n + 1, v => BitVec.ofNat 8 v :: leBytes n (v / 256)

/-- The 64-bit word at a byte address. -/
def Mem.read64 (m : Mem) (a : Nat) : Word := BitVec.ofNat 64 (leNat (m.readBytes a 8))

/-- Write a 64-bit word at a byte address. -/
def Mem.write64 (m : Mem) (a : Nat) (w : Word) : Mem := m.writeBytes a (leBytes 8 w.toNat)

/-- Apply other (address, byte) pairs, later ones last. -/
def Mem.overlay (m : Mem) (cs : List Host.Cell) : Mem := cs.foldl (fun m c => m.write c.1 c.2) m

end Sys2Proof
end

