-- ==== Sys2Proof/Machine/Crypto.lean ====
section
/-! DEFINITION. AES-256-GCM as R141 names it (NIST SP 800-38D with the AES-256 of FIPS 197; PRESUMED from those standards,
notes/assumptions/18), on bytes as natural numbers below 256. -/

namespace Sys2Proof

/-! ## AES-256 -/

/-- Multiplication by x in GF(2^8) with the AES polynomial. -/
def aesXtime (a : Nat) : Nat := if a < 128 then 2 * a else (2 * a) ^^^ 0x11B

/-- Multiplication in GF(2^8): the first argument bounds the bits of b taken. -/
def aesMulN : Nat → Nat → Nat → Nat
  | 0, _, _ => 0
  | n + 1, a, b => (if b % 2 = 1 then a else 0) ^^^ aesMulN n (aesXtime a) (b / 2)

def aesMul (a b : Nat) : Nat := aesMulN 8 a b

/-- The inverse in GF(2^8), a^254; 0 for 0. -/
def aesInv (a : Nat) : Nat :=
  let a2 := aesMul a a
  let a3 := aesMul a2 a
  let a6 := aesMul a3 a3
  let a12 := aesMul a6 a6
  let a15 := aesMul a12 a3
  let a30 := aesMul a15 a15
  let a60 := aesMul a30 a30
  let a63 := aesMul a60 a3
  let a126 := aesMul a63 a63
  let a127 := aesMul a126 a
  aesMul a127 a127

/-- Rotate a byte left. -/
def rotByte (a n : Nat) : Nat := (a * 2 ^ n) % 256 ^^^ (a / 2 ^ (8 - n))

/-- The S-box: inverse, then the affine map. -/
def aesSbox (a : Nat) : Nat :=
  let i := aesInv a
  i ^^^ rotByte i 1 ^^^ rotByte i 2 ^^^ rotByte i 3 ^^^ rotByte i 4 ^^^ 0x63

/-- Byte-wise exclusive or. -/
def xorBytes (a b : List Nat) : List Nat := (a.zip b).map fun (x, y) => x ^^^ y

/-- Round constants x^(i-1). -/
def aesRcon : Nat → Nat
  | 0 => 1
  | n + 1 => aesXtime (aesRcon n)

/-- n further words of the key schedule, from word index i; the list holds the words so far, newest first. -/
def aesExpand : Nat → Nat → List (List Nat) → List (List Nat)
  | 0, _, ws => ws
  | n + 1, i, ws =>
    let prev := ws.headD []
    let t :=
      if i % 8 = 0 then xorBytes ((prev.drop 1 ++ prev.take 1).map aesSbox) [aesRcon (i / 8 - 1), 0, 0, 0]
      else if i % 8 = 4 then prev.map aesSbox
      else prev
    aesExpand n (i + 1) (xorBytes (ws.getD 7 []) t :: ws)

/-- Round keys of a 32-byte key: 15 blocks of 16 bytes. -/
def aesKeys (key : List Nat) : List (List Nat) :=
  let ws := (aesExpand 52 8 ((List.range 8).map fun i => (key.drop (4 * i)).take 4).reverse).reverse
  (List.range 15).map fun r => ((ws.drop (4 * r)).take 4).flatten

/-- Byte r of column c is byte 4c + r; ShiftRows takes it from column c + r. -/
def aesShift (s : List Nat) : List Nat := (List.range 16).map fun k => s.getD ((k + 4 * (k % 4)) % 16) 0

/-- MixColumns. -/
def aesMix (s : List Nat) : List Nat :=
  (List.range 16).map fun k =>
    let b (j : Nat) := s.getD (4 * (k / 4) + (k + j) % 4) 0
    aesXtime (b 0) ^^^ aesXtime (b 1) ^^^ b 1 ^^^ b 2 ^^^ b 3

/-- Rounds with the given round keys; the last has no MixColumns. -/
def aesRounds : List (List Nat) → List Nat → List Nat
  | [], s => s
  | [k], s => xorBytes (aesShift (s.map aesSbox)) k
  | k :: ks, s => aesRounds ks (xorBytes (aesMix (aesShift (s.map aesSbox))) k)

/-- One block under expanded keys. -/
def aesBlock (ks : List (List Nat)) (b : List Nat) : List Nat :=
  match ks with
  | [] => b
  | k :: rest => aesRounds rest (xorBytes b k)

/-! ## GCM -/

/-- A string of bytes as a number, first byte most significant. -/
def beNat (bs : List Nat) : Nat := bs.foldl (fun n b => 256 * n + b) 0

/-- The n bytes of a number, most significant first. -/
def beBytes (n v : Nat) : List Nat := (List.range n).map fun i => v / 256 ^ (n - 1 - i) % 256

/-- Product in GF(2^128) of GCM: bit 127 of a block's number is the coefficient of 1. -/
def ghashMul : Nat → Nat → Nat → Nat
  | 0, _, _ => 0
  | i + 1, x, v =>
    (if x.testBit i then v else 0) ^^^ ghashMul i x (if v % 2 = 1 then (v / 2) ^^^ (0xE1 * 2 ^ 120) else v / 2)

/-- Blocks of 16 bytes, the last padded with zeros. The first argument bounds their number. -/
def gcmBlocks : Nat → List Nat → List (List Nat)
  | 0, _ => []
  | n + 1, bs => if bs.isEmpty then [] else (bs.take 16 ++ List.replicate (16 - (bs.take 16).length) 0) :: gcmBlocks n (bs.drop 16)

/-- GHASH of additional data and ciphertext under h. -/
def ghash (h : Nat) (aad ct : List Nat) : Nat :=
  let bl (x : List Nat) := (gcmBlocks (x.length / 16 + 1) x).map beNat
  (bl aad ++ bl ct ++ [aad.length * 8 * 2 ^ 64 + ct.length * 8]).foldl (fun y b => ghashMul 128 (y ^^^ b) h) 0

/-- Counter-mode key stream applied to data, from a block counter. -/
def gcmCtr (ks : List (List Nat)) (iv : List Nat) (data : List Nat) : List Nat :=
  let bl := gcmBlocks (data.length / 16 + 1) data
  ((((List.range bl.length).zip bl).flatMap fun (i, b) => xorBytes b (aesBlock ks (iv ++ beBytes 4 (i + 2)))).take data.length)

/-- The tag of a ciphertext. -/
def gcmTag (ks : List (List Nat)) (iv aad ct : List Nat) : List Nat :=
  let h := beNat (aesBlock ks (List.replicate 16 0))
  beBytes 16 (ghash h aad ct ^^^ beNat (aesBlock ks (iv ++ [0, 0, 0, 1])))

/-- Bytes as numbers, and back. -/
def natsOf (b : Bytes) : List Nat := b.map BitVec.toNat
def bytesOf (l : List Nat) : Bytes := l.map (BitVec.ofNat 8)

/-- AES-256-GCM encryption: ciphertext and tag (R141, R144). -/
def gcmEncrypt (key iv aad pt : Bytes) : Bytes × Bytes :=
  let ks := aesKeys (natsOf key)
  let ct := gcmCtr ks (natsOf iv) (natsOf pt)
  (bytesOf ct, bytesOf (gcmTag ks (natsOf iv) (natsOf aad) ct))

/-- AES-256-GCM decryption: the plaintext, if the tag agrees (R142, R146, R149). -/
def gcmDecrypt (key iv aad ct tag : Bytes) : Option Bytes :=
  let ks := aesKeys (natsOf key)
  if gcmTag ks (natsOf iv) (natsOf aad) (natsOf ct) = natsOf tag then some (bytesOf (gcmCtr ks (natsOf iv) (natsOf ct))) else none

/-- A 256-bit key as its 32-byte string, byte 0 lowest (R141). -/
def keyBytes (k : BitVec 256) : Bytes := leBytes 32 k.toNat

/-- A 96-bit initialisation vector as its byte string, byte 0 lowest (R141). -/
def ivBytes (iv : Nat) : Bytes := leBytes 12 iv

/-- A device key derived from DRK with a label: the ciphertext of 32 zero bytes (R141). -/
def deriveKey (drk : BitVec 256) (label : Nat) : BitVec 256 :=
  BitVec.ofNat 256 (leNat (gcmEncrypt (keyBytes drk) (ivBytes label) [] (List.replicate 32 0)).1)

end Sys2Proof
end

