-- ==== Sys2Proof/Machine/CellCode.lean ====
section
/-! DEFINITION. The cell code (R357, R358): a singly extended Reed-Solomon code over GF(2^8), with byte k at alpha^k for k below 255
and byte 255 at 0. The sender's 20 bytes, and the correction of up to 10 erroneous bytes. -/

namespace Sys2Proof

/-- Multiplication by alpha = 2 with the polynomial x^8 + x^4 + x^3 + x^2 + 1. -/
def gfDouble (a : Nat) : Nat := if a < 128 then 2 * a else (2 * a) ^^^ 0x11D

/-- Multiplication in the field, by the bits of b from the highest. -/
def gfMul (a b : Nat) : Nat :=
  let step (r k : Nat) : Nat := (2 * r) ^^^ (r / 128 * 0x11D) ^^^ (b / k % 2 * a)
  step (step (step (step (step (step (step (b / 128 % 2 * a) 64) 32) 16) 8) 4) 2) 1

/-- alpha^0 to alpha^(n-1), from a power a. -/
def gfPows : Nat → Nat → List Nat
  | 0, _ => []
  | n + 1, a => a :: gfPows n (gfDouble a)

/-- The 255 powers of alpha. -/
def gfTable : List Nat := gfPows 255 1

/-- alpha^k. -/
def gfAlpha (k : Nat) : Nat := gfTable.getD (k % 255) 1

/-- The inverse, a^254. -/
def gfInv (a : Nat) : Nat :=
  let a2 := gfMul a a
  let a3 := gfMul a2 a
  let a6 := gfMul a3 a3
  let a12 := gfMul a6 a6
  let a15 := gfMul a12 a3
  let a30 := gfMul a15 a15
  let a60 := gfMul a30 a30
  let a63 := gfMul a60 a3
  let a126 := gfMul a63 a63
  gfMul (gfMul a126 a) (gfMul a126 a)

/-- Value of a polynomial, lowest coefficient first, at x. -/
def gfEval (p : List Nat) (x : Nat) : Nat := p.foldr (fun c acc => c ^^^ gfMul acc x) 0

/-- Sum of field elements. -/
def gfSum (l : List Nat) : Nat := l.foldl (· ^^^ ·) 0

/-- Syndrome j of a cell: the sum of c_k beta_k^j, with 0^0 = 1. -/
def cellSyndrome (c : List Nat) (j : Nat) : Nat := gfEval (c.take 255) (gfAlpha j) ^^^ (if j = 0 then c.getD 255 0 else 0)

/-- Is a cell a codeword? -/
def cellValid (c : List Nat) : Bool := (List.range 20).all fun j => cellSyndrome c j == 0

/-! ## Sending -/

/-- Coefficients of the product of (x - alpha^-j) for j = 1 to n, lowest first. -/
def gfGen : Nat → List Nat
  | 0 => [1]
  | n + 1 =>
    let p := gfGen n
    let r := gfAlpha (254 * (n + 1))
    ((0 :: p).zip (p ++ [0])).map fun (a, b) => a ^^^ gfMul b r

/-- Divide by shifting in coefficients, highest first: the remainder, highest first. -/
def gfRemainder (g : List Nat) : List Nat → List Nat → List Nat
  | [], r => r
  | d :: ds, r =>
    let f := d ^^^ r.headD 0
    gfRemainder g ds (((r.drop 1 ++ [0]).zip g).map fun (a, b) => a ^^^ gfMul f b)

/-- A cell of 236 header and payload bytes with its 20 code bytes. Bytes 236 to 254 make syndromes 1 to 19 zero, byte 255 syndrome 0. -/
def cellEncode (d : List Nat) : List Nat :=
  let g := ((gfGen 19).take 19).reverse
  let c := d ++ gfRemainder g d (List.replicate 19 0)
  c ++ [gfSum c]

/-! ## Receiving -/

/-- State of the Berlekamp-Massey recursion. -/
structure BmState where
  c : List Nat
  b : List Nat
  len : Nat
  m : Nat
  bd : Nat
deriving DecidableEq, Repr

/-- Sum of two polynomials, one of them scaled by f and shifted by m. -/
def gfAddShift (c b : List Nat) (f m : Nat) : List Nat :=
  let sb := List.replicate m 0 ++ b.map (gfMul f)
  (List.range (max c.length sb.length)).map fun i => c.getD i 0 ^^^ sb.getD i 0

/-- One step of the recursion at syndrome n. -/
def bmStep (s : List Nat) (st : BmState) (n : Nat) : BmState :=
  let d := gfSum ((List.range (st.len + 1)).map fun i => gfMul (st.c.getD i 0) (s.getD (n - i) 0))
  if d = 0 then { st with m := st.m + 1 }
  else
    let c' := gfAddShift st.c st.b (gfMul d (gfInv st.bd)) st.m
    if 2 * st.len ≤ n then { c := c', b := st.c, len := n + 1 - st.len, m := 1, bd := d }
    else { st with c := c', m := st.m + 1 }

/-- Errors at positions below 255 that explain syndromes s of powers f, f + 1, ...: at most t pairs of position and value. -/
def gfErrors (s : List Nat) (f t : Nat) : Option (List (Nat × Nat)) :=
  let st := (List.range s.length).foldl (bmStep s) { c := [1], b := [1], len := 0, m := 1, bd := 1 }
  if t < st.len then none
  else
    let roots := (List.range 255).filter fun k => gfEval st.c (gfAlpha (254 * k)) == 0
    if roots.length ≠ st.len then none
    else
      let om := (List.range s.length).map fun i => gfSum ((List.range (i + 1)).map fun j => gfMul (st.c.getD j 0) (s.getD (i - j) 0))
      let der := (List.range (st.c.length - 1)).map fun i => if i % 2 = 0 then st.c.getD (i + 1) 0 else 0
      some (roots.map fun k =>
        let xi := gfAlpha (254 * k)
        let e := gfMul (gfEval om xi) (gfInv (gfEval der xi))
        (k, if f = 0 then gfMul e (gfAlpha k) else e))

/-- Apply errors to a cell. -/
def applyErrors (c : List Nat) (es : List (Nat × Nat)) : List Nat := es.foldl (fun c (k, e) => c.modify k (· ^^^ e)) c

/-- The corrected cell and its number of erroneous bytes; none when no codeword lies within 10 bytes (R358). -/
def cellDecode (c : List Nat) : Option (List Nat × Nat) :=
  let s := (List.range 20).map (cellSyndrome c)
  if s.all (· == 0) then some (c, 0)
  else
    let done (es : List (Nat × Nat)) : Option (List Nat × Nat) :=
      let c' := applyErrors c es
      let c' := c'.set 255 (gfSum (c'.take 255))
      let n := ((c.zip c').filter fun (a, b) => a != b).length
      if cellValid c' ∧ n ≤ 10 then some (c', n) else none
    ((gfErrors s 0 10).bind done).or ((gfErrors (s.drop 1) 1 9).bind done)

/-- A cell's bytes after its code, for sending (R26, R357). -/
def sealCell (d : Bytes) : Bytes := bytesOf (cellEncode (natsOf d))

/-- A received cell corrected: its 256 bytes and the corrected symbols (R353, R358). -/
def openCell (c : Bytes) : Option (Bytes × Nat) :=
  if c.length = 256 then (cellDecode (natsOf c)).map fun (b, n) => (bytesOf b, n) else none

end Sys2Proof
end

