-- ==== Sys2Proof/Machine/Formats.lean ====
section
/-! DEFINITION. Element formats, exact values, and rounding (08, R215-R227): decoding to an exact value, the three rounding modes,
overflow and flushing, NaN conversion and the strict-mode exceptions of a rounding (R257). -/

namespace Sys2Proof

/-- Element format codes (table "Element format codes"). -/
inductive Fmt where
  | fp32
  | wx32
  | fp16
  | bf16
  | e4m3
  | e5m2
  | e3m2
  | e2m1
  | int32
  | int8
  | int4
  | int2
  | int1
  | e8m0
  | ue4m3
deriving DecidableEq, Repr

namespace Fmt

/-- The format of a code; codes 0x0F to 0x1F are reserved. -/
def ofCode : Nat → Option Fmt
  | 0 => some fp32
  | 1 => some wx32
  | 2 => some fp16
  | 3 => some bf16
  | 4 => some e4m3
  | 5 => some e5m2
  | 6 => some e3m2
  | 7 => some e2m1
  | 8 => some int32
  | 9 => some int8
  | 10 => some int4
  | 11 => some int2
  | 12 => some int1
  | 13 => some e8m0
  | 14 => some ue4m3
  | _ => none

/-- The code of a format. -/
def code : Fmt → Nat
  | fp32 => 0 | wx32 => 1 | fp16 => 2 | bf16 => 3 | e4m3 => 4 | e5m2 => 5 | e3m2 => 6 | e2m1 => 7 | int32 => 8
  | int8 => 9 | int4 => 10 | int2 => 11 | int1 => 12 | e8m0 => 13 | ue4m3 => 14

/-- Bits per element. -/
def bits : Fmt → Nat
  | fp32 => 32 | wx32 => 32 | fp16 => 16 | bf16 => 16 | e4m3 => 8 | e5m2 => 8 | e3m2 => 6 | e2m1 => 4 | int32 => 32
  | int8 => 8 | int4 => 4 | int2 => 2 | int1 => 1 | e8m0 => 8 | ue4m3 => 8

/-- Integer element formats (R217). -/
def isInt : Fmt → Bool
  | int32 | int8 | int4 | int2 | int1 => true
  | _ => false

/-- Fine-scale formats (R219). -/
def isScale : Fmt → Bool
  | e8m0 | ue4m3 => true
  | _ => false

/-- Floating-point element formats (R215). -/
def isFloat (f : Fmt) : Bool := !f.isInt && !f.isScale

/-- Fraction width, bias and the exponent of the highest binade (R215). -/
def params : Fmt → Nat × Int × Int
  | fp32 => (23, 127, 127)
  | wx32 => (20, 1023, 1023)
  | fp16 => (10, 15, 15)
  | bf16 => (7, 127, 127)
  | e4m3 => (3, 7, 8)
  | e5m2 => (2, 15, 15)
  | e3m2 => (2, 3, 4)
  | e2m1 => (1, 1, 2)
  | ue4m3 => (3, 7, 8)
  | _ => (0, 0, 0)

/-- Largest finite magnitude in units of the highest binade's spacing (R215): all ones, except that E4M3 stops at 1.75. -/
def maxUnits (f : Fmt) : Nat :=
  match f with
  | e4m3 | ue4m3 => 14
  | _ => 2 ^ (f.params.1 + 1) - 1

/-- Range of an integer format (R217). -/
def intRange : Fmt → Int × Int
  | int32 => (-2147483648, 2147483647)
  | int8 => (-128, 127)
  | int4 => (-8, 7)
  | int2 => (-2, 1)
  | _ => (-1, 1)

/-- Formats in which overflow of a finite value and an infinity give the largest finite value (R223). -/
def saturates : Fmt → Bool
  | e4m3 | e3m2 | e2m1 => true
  | _ => false

/-- Formats that have NaNs with a quiet bit (R216). -/
def hasQuiet : Fmt → Bool
  | fp32 | wx32 | fp16 | bf16 => true
  | _ => false

end Fmt

/-- An exact value: a NaN with its sign, signalling state and whole fraction field of its width; an infinity; or a sign and a
magnitude p/q. A zero keeps its sign. -/
inductive Val where
  | nan (neg sig : Bool) (frac wid : Nat)
  | inf (neg : Bool)
  | fin (neg : Bool) (p q : Nat)
deriving DecidableEq, Repr

namespace Val

/-- The canonical quiet NaN (R216): sign 0 and the quiet bit alone. -/
def cnan : Val := nan false false 1 1

/-- Plus zero. -/
def zero : Val := fin false 0 1

/-- Plus one. -/
def one : Val := fin false 1 1

/-- An integer. -/
def ofInt (i : Int) : Val := fin (decide (i < 0)) i.natAbs 1

def isNan : Val → Bool
  | nan .. => true
  | _ => false

def isSnan : Val → Bool
  | nan _ s _ _ => s
  | _ => false

def isInf : Val → Bool
  | inf _ => true
  | _ => false

def isZero : Val → Bool
  | fin _ p _ => p == 0
  | _ => false

/-- NaN or infinity (R236). -/
def special : Val → Bool
  | fin .. => false
  | _ => true

def neg? : Val → Bool
  | nan n _ _ _ => n
  | inf n => n
  | fin n _ _ => n

/-- Set the quiet bit, keeping sign and payload (R258). -/
def quiet : Val → Val
  | nan n s f w => if s then nan n false (f + 2 ^ (w - 1)) w else nan n s f w
  | v => v

/-- Replace the sign. -/
def withNeg (b : Bool) : Val → Val
  | nan _ s f w => nan b s f w
  | inf _ => inf b
  | fin _ p q => fin b p q

/-- Signed numerator over the denominator of a finite value (0 for the others). -/
def num : Val → Int
  | fin n p _ => if n then -(p : Int) else p
  | _ => 0

def den : Val → Nat
  | fin _ _ q => q
  | _ => 1

/-- Numeric order of finite values and infinities, zeros equal (R293): -1, 0 or 1. -/
def cmp (a b : Val) : Int :=
  match a, b with
  | inf x, inf y => if x == y then 0 else if x then -1 else 1
  | inf x, _ => if x then -1 else 1
  | _, inf y => if y then 1 else -1
  | a, b => (a.num * b.den - b.num * a.den).sign

/-- The order in which -0 is less than +0 (R245). -/
def cmpZ (a b : Val) : Int :=
  let c := cmp a b
  if c = 0 ∧ a.isZero ∧ b.isZero then (if a.neg? == b.neg? then 0 else if a.neg? then -1 else 1) else c

end Val

/-- What roundings and operations on an element's path leave behind: saturated, flushed (R235), and the exceptions of R257. -/
structure Fl where
  sat : Bool := false
  flush : Bool := false
  inv : Bool := false
  dz : Bool := false
  ovf : Bool := false
  unf : Bool := false
  nx : Bool := false
deriving DecidableEq, Repr

/-- Union of two records of counts and exceptions. -/
def Fl.or (a b : Fl) : Fl :=
  { sat := a.sat || b.sat, flush := a.flush || b.flush, inv := a.inv || b.inv, dz := a.dz || b.dz, ovf := a.ovf || b.ovf
    unf := a.unf || b.unf, nx := a.nx || b.nx }

/-- EXC of the status record: [40] invalid, [41] division by zero, [42] overflow, [43] underflow, [44] inexact (R237). -/
def Fl.exc (a : Fl) : Nat :=
  (if a.inv then 1 else 0) + (if a.dz then 2 else 0) + (if a.ovf then 4 else 0) + (if a.unf then 8 else 0)
    + (if a.nx then 16 else 0)

/-- Rounding modes (R226); stochastic with the element's 24-bit draw. -/
inductive Rnd where
  | rne
  | rtz
  | sr (r : Nat)
deriving DecidableEq, Repr

/-- floor(log2(p/q)) for positive p, q. -/
def flog2 (p q : Nat) : Int :=
  let e : Int := (Nat.log2 p : Int) - (Nat.log2 q : Int)
  let lt := if e < 0 then decide (p * 2 ^ (-e).toNat < q) else decide (p < q * 2 ^ e.toNat)
  if lt then e - 1 else e

/-- p/q divided by 2^e, as a fraction. -/
def shiftFrac (p q : Nat) (e : Int) : Nat × Nat :=
  if e < 0 then (p * 2 ^ (-e).toNat, q) else (p, q * 2 ^ e.toNat)

/-- Choose lo = n or hi = n + 1 for the magnitude (n q + rem) / q under a rounding mode (R226). -/
def choose (rnd : Rnd) (n rem q : Nat) : Nat :=
  if rem = 0 then n
  else
    match rnd with
    | .rne => if 2 * rem < q then n else if 2 * rem > q then n + 1 else if n % 2 = 0 then n else n + 1
    | .rtz => n
    | .sr r => if 2 ^ 24 ≤ 2 ^ 24 * rem / q + r then n + 1 else n

/-- Round a positive magnitude p/q to units of 2^u: the chosen number of units, and whether it is inexact. -/
def roundUnits (rnd : Rnd) (p q : Nat) (u : Int) : Nat × Bool :=
  let (p', q') := shiftFrac p q u
  (choose rnd (p' / q') (p' % q') q', decide (p' % q' ≠ 0))

/-- n units of 2^u as a value. -/
def unitsVal (neg : Bool) (n : Nat) (u : Int) : Val :=
  if u < 0 then .fin neg n (2 ^ (-u).toNat) else .fin neg (n * 2 ^ u.toNat) 1

/-- The largest finite value of a floating-point format. -/
def Fmt.maxVal (f : Fmt) (neg : Bool) : Val :=
  let (m, _, emax) := f.params
  unitsVal neg f.maxUnits (emax - m)

/-- Round a non-zero finite value to a floating-point format (R222, R223, R226). -/
def roundFloat (f : Fmt) (rnd : Rnd) (neg : Bool) (p q : Nat) : Val × Fl :=
  let (m, bias, emax) := f.params
  let emin : Int := 1 - bias
  let e := flog2 p q
  let u := min (max e emin) emax - m
  let (n, nx) := roundUnits rnd p q u
  let big := decide (emax - m ≤ u) && decide (f.maxUnits < n)
  if big then
    let v := match rnd with
      | .rtz => f.maxVal neg
      | _ => if f.saturates || f == .e5m2 then f.maxVal neg else .inf neg
    (v, { sat := true, ovf := true, nx := true })
  else
    let tiny := decide (e < emin) && decide (flog2 (2 * (roundUnits rnd p q (e - m)).1) 2 + (e - m) < emin)
    (unitsVal neg n u, { flush := n == 0, unf := tiny && nx, nx := nx })

/-- Round a finite value to an integer format (R222, R223, R225, R226). -/
def roundInt (f : Fmt) (rnd : Rnd) (neg : Bool) (p q : Nat) : Val × Fl :=
  if f = .int1 then (.fin neg 1 1, {})
  else
    let (n, _) := roundUnits rnd p q 0
    let i : Int := if neg then -(n : Int) else n
    let (lo, hi) := f.intRange
    if i < lo then (Val.ofInt lo, { sat := true, inv := true })
    else if hi < i then (Val.ofInt hi, { sat := true, inv := true })
    else (Val.ofInt i, { flush := n == 0 && p != 0 })

/-- A NaN converted to a format (R223, R224): `same` when the value is already held in that format. The top fraction bit of every source
counts as its quiet bit, E4M3 and E5M2 included, for which the spec names none (DESIGN CHOICE, notes/assumptions/102). -/
def convNan (f : Fmt) (strict same : Bool) (v : Val) : Val × Fl :=
  match v with
  | .nan neg sig frac wid =>
    if f.isInt then ((if f = .int1 then Val.one else Val.zero), { inv := strict })
    else if f = .e3m2 ∨ f = .e2m1 then (.zero, { inv := strict })
    else if !strict then (.cnan, {})
    else if same then (v, {})
    else if f.hasQuiet then
      let m := f.params.1
      let below := frac % 2 ^ (wid - 1)
      let fit := if wid ≤ m then below * 2 ^ (m - wid) else below / 2 ^ (wid - m)
      (.nan neg false (2 ^ (m - 1) + fit) m, { inv := sig })
    else (.cnan, { inv := sig })
  | v => (v, {})

/-- Conversion of a value to a format under a rounding mode (R222-R225), with the exceptions of R257 when `strict`. -/
def convert (f : Fmt) (rnd : Rnd) (strict same : Bool) (v : Val) : Val × Fl :=
  let (w, fl) : Val × Fl := match v with
    | .nan .. => convNan f strict same v
    | .inf neg =>
      if f = .int1 then (.fin neg 1 1, { inv := true })
      else if f.isInt then (Val.ofInt (if neg then f.intRange.1 else f.intRange.2), { sat := true, inv := true })
      else if f.saturates then (f.maxVal neg, { sat := true, ovf := true, nx := true })
      else (v, {})
    | .fin neg p q =>
      if f.isInt then
        if p = 0 then (if f = .int1 then .fin neg 1 1 else Val.zero, {}) else roundInt f rnd neg p q
      else if p = 0 then (.fin neg 0 1, {})
      else roundFloat f rnd neg p q
  if strict then (w, fl) else (w, { sat := fl.sat, flush := fl.flush })

/-- Decode an encoded element to its exact value (R215-R217, R219). -/
def decodeElem (f : Fmt) (x : Nat) : Val :=
  let w := f.bits
  let x := x % 2 ^ w
  match f with
  | .int1 => .fin (x == 0) 1 1
  | .e8m0 => if x = 255 then .cnan else unitsVal false 1 ((x : Int) - 127)
  | .ue4m3 =>
    let x := x % 128
    if x = 127 then .cnan
    else if x < 8 then unitsVal false x (-9)
    else unitsVal false (8 + x % 8) ((x / 8 : Nat) - 10)
  | .int32 | .int8 | .int4 | .int2 => Val.ofInt (if x < 2 ^ (w - 1) then x else (x : Int) - 2 ^ w)
  | f =>
    let (m, bias, emax) := f.params
    let neg := decide (2 ^ (w - 1) ≤ x)
    let e := x / 2 ^ m % 2 ^ (w - 1 - m)
    let fr := x % 2 ^ m
    let top := decide (e = 2 ^ (w - 1 - m) - 1)
    if f.hasQuiet && top || f == .e5m2 && top then
      if fr = 0 then .inf neg else .nan neg (f.hasQuiet && decide (fr < 2 ^ (m - 1))) fr m
    else if f == .e4m3 && top && fr == 7 then .nan neg false 7 3
    else if e = 0 then unitsVal neg fr (1 - bias - m)
    else
      let _ := emax
      unitsVal neg (2 ^ m + fr) (e - bias - m)

/-- Encode a value that a format holds (R215-R217). A NaN narrower or wider than the fraction is aligned at its top bit. -/
def encodeElem (f : Fmt) (v : Val) : Nat :=
  let w := f.bits
  if f.isInt then
    match v with
    | .fin neg p q => if f = .int1 then (if neg then 0 else 1)
                      else (((if neg then -(p : Int) else p) / (q : Int)) % 2 ^ w).toNat
    | _ => 0
  else if f = .e8m0 then
    match v with
    | .fin _ p q => if p = 0 then 0 else (flog2 p q + 127).toNat
    | _ => 255
  else
    let (m, bias, _) := f.params
    let s := if v.neg? && f != .ue4m3 then 2 ^ (w - 1) else 0
    match v with
    | .nan _ _ fr wid =>
      if f = .e4m3 ∨ f = .ue4m3 then s + 127
      else
        let fr' := if wid ≤ m then fr * 2 ^ (m - wid) else fr / 2 ^ (wid - m)
        s + (2 ^ (w - 1 - m) - 1) * 2 ^ m + fr'
    | .inf _ => s + (2 ^ (w - 1 - m) - 1) * 2 ^ m
    | .fin _ p q =>
      if p = 0 then s
      else
        let e := max (flog2 p q) (1 - bias)
        let (p', q') := shiftFrac p q (e - m)
        let n := p' / q'
        if n < 2 ^ m then s + n else s + (e + bias).toNat * 2 ^ m + (n - 2 ^ m)

/-- mix of R227. -/
def mix64 (x : Word) : Word :=
  let x := x ^^^ (x >>> 32)
  let x := x * 0xA24BAED4963EE407
  let x := x ^^^ (x >>> 29)
  let x := x * 0x9FB21C651E98DF25
  x ^^^ (x >>> 32)

/-- The stochastic generator of R227: a seed, a linear index below 2^80 and a stage number give 24 bits. -/
def srBits (seed : BitVec 32) (l : Nat) (stage : Nat) : Nat :=
  let lo : Word := BitVec.ofNat 64 l
  let hi := l / 2 ^ 64
  let b : Word := BitVec.ofNat 64 (seed.toNat * 2 ^ 32 + stage * 2 ^ 16 + hi)
  (mix64 (mix64 lo ^^^ b) >>> 40).toNat

/-- The rounding mode of an RND field with an element's draw (R226, table "ALU slot word"). -/
def rndOf (field : Nat) (draw : Nat) : Rnd :=
  match field with
  | 1 => .rtz
  | 2 => .sr draw
  | _ => .rne

end Sys2Proof
end

