-- ==== Sys2Proof/Machine/Arith.lean ====
section
/-! DEFINITION. Element arithmetic (09, R240-R260): ALU operations in a compute format, entry rounding, and the reduction order. -/

namespace Sys2Proof

/-- An element on its path: its value and what its roundings left behind (R235, R257). -/
structure El where
  v : Val
  fl : Fl := {}
deriving DecidableEq, Repr

/-- The ALU's numeric context: rounding mode, strict mode (R226, R255). -/
structure Ctx where
  rnd : Rnd
  strict : Bool
deriving DecidableEq, Repr

/-- Round to nearest, fast or strict. -/
def Ctx.near (strict : Bool) : Ctx := ⟨.rne, strict⟩

/-- The first NaN among operands, as a result: canonical in fast mode (R254), kept and quieted in strict mode (R258). -/
def nanOf (strict : Bool) : List Val → Option Val
  | [] => none
  | v :: vs => if v.isNan then some (if strict then v.quiet else .cnan) else nanOf strict vs

/-- Exceptions of a signalling NaN operand (R257). -/
def snanFl (strict : Bool) (vs : List Val) : Fl := { inv := strict && vs.any Val.isSnan }

/-- Invalid without a NaN operand (R258). -/
def invalidRes (strict : Bool) : Val × Fl := (.cnan, { inv := strict })

/-- Round an arithmetic result to a format; integer saturation raises no exception (R257). -/
def roundRes (f : Fmt) (c : Ctx) (v : Val) : Val × Fl :=
  let (w, fl) := convert f c.rnd c.strict true v
  if f.isInt then (w, { sat := fl.sat, flush := fl.flush }) else (w, fl)

/-- The exact sum of two values that are not NaN; none for infinities of opposite sign (R244). -/
def exactAdd (a b : Val) : Option Val :=
  match a, b with
  | .inf x, .inf y => if x == y then some (.inf x) else none
  | .inf x, _ => some (.inf x)
  | _, .inf y => some (.inf y)
  | a, b =>
    let (q, n) := if a.den = b.den then (a.den, a.num + b.num) else (a.den * b.den, a.num * b.den + b.num * a.den)
    if n = 0 then some (.fin (a.neg? && b.neg?) 0 1) else some (.fin (decide (n < 0)) n.natAbs q)

/-- The exact product of two values that are not NaN; none for zero times infinity (R244). -/
def exactMul (a b : Val) : Option Val :=
  let neg := a.neg? != b.neg?
  if a.isInf || b.isInf then (if a.isZero || b.isZero then none else some (.inf neg))
  else
    match a, b with
    | .fin _ p q, .fin _ p' q' => some (.fin neg (p * p') (q * q'))
    | _, _ => none

/-- a + b, rounded once (R244, R241). -/
def addVal (f : Fmt) (c : Ctx) (a b : Val) : Val × Fl :=
  match nanOf c.strict [a, b] with
  | some v => (v, snanFl c.strict [a, b])
  | none =>
    match exactAdd a b with
    | some v => roundRes f c v
    | none => invalidRes c.strict

/-- Negation of the sign alone. -/
def negVal (v : Val) : Val := v.withNeg (!v.neg?)

/-- a - b, rounded once; a NaN operand keeps its own sign (R244, R258). -/
def subVal (f : Fmt) (c : Ctx) (a b : Val) : Val × Fl :=
  match nanOf c.strict [a, b] with
  | some v => (v, snanFl c.strict [a, b])
  | none =>
    let nb := if f.isInt then Val.ofInt (-b.num) else negVal b
    match exactAdd a nb with
    | some v => roundRes f c v
    | none => invalidRes c.strict

/-- a x b, rounded once. -/
def mulVal (f : Fmt) (c : Ctx) (a b : Val) : Val × Fl :=
  match nanOf c.strict [a, b] with
  | some v => (v, snanFl c.strict [a, b])
  | none =>
    match exactMul a b with
    | some v => roundRes f c v
    | none => invalidRes c.strict

/-- a x b + i, rounded once (R244); 0 x infinity is invalid whatever i is (R257). -/
def mulAddVal (f : Fmt) (c : Ctx) (a b i : Val) : Val × Fl :=
  let badProd := (a.isZero && b.isInf) || (a.isInf && b.isZero)
  match nanOf c.strict [a, b, i] with
  | some v => (v, (snanFl c.strict [a, b, i]).or { inv := c.strict && badProd })
  | none =>
    match exactMul a b with
    | none => invalidRes c.strict
    | some m =>
      match exactAdd m i with
      | some v => roundRes f c v
      | none => invalidRes c.strict

/-- MIN and MAX (R245, R243): -0 below +0, NaN operands as R254 and R258. -/
def minMaxVal (isMax : Bool) (strict : Bool) (a b : Val) : Val × Fl :=
  match nanOf strict [a, b] with
  | some v => (v, snanFl strict [a, b])
  | none =>
    let c := Val.cmpZ a b
    (if isMax then (if c < 0 then b else a) else (if 0 < c then b else a), {})

/-- PASS, ABS and NEG of a NaN (R246, R258). -/
def copyNan (strict : Bool) (v w : Val) : Val := if v.isNan && !strict then .cnan else w

/-- A bitwise operation on the encodings of an integer format (R241, R243). -/
def bitsOp (f : Fmt) (g : Nat → Nat → Nat) (a b : Val) : Val :=
  decodeElem f (g (encodeElem f a) (encodeElem f b) % 2 ^ f.bits)

/-- SHR: copies of bit 31 shift in (R243). -/
def shrInt (a : Int) (n : Nat) : Int := a / 2 ^ n

/-- One ALU operation of the table "ALU operations" in format f, after SWAPAB. `i` is IMM of MULADD. -/
def aluOp (op : Nat) (f : Fmt) (c : Ctx) (a b i : Val) : Val × Fl :=
  match op with
  | 1 => addVal f c a b
  | 2 => subVal f c a b
  | 3 => mulVal f c a b
  | 4 => mulAddVal f c a b i
  | 5 => minMaxVal false c.strict a b
  | 6 => minMaxVal true c.strict a b
  | 7 => if f.isInt then roundRes f c (Val.ofInt a.num.natAbs) else (copyNan c.strict a (a.withNeg false), {})
  | 8 => if f.isInt then roundRes f c (Val.ofInt (-a.num)) else (copyNan c.strict a (negVal a), {})
  | 9 => mulVal f c a a
  | 10 => (bitsOp f (· &&& ·) a b, {})
  | 11 => (bitsOp f (· ||| ·) a b, {})
  | 12 => (bitsOp f (· ^^^ ·) a b, {})
  | 13 => (bitsOp f (fun x _ => 2 ^ f.bits - 1 - x) a b, {})
  | 14 => (bitsOp f (fun x y => x * 2 ^ (y % 32)) a b, {})
  | 15 => (Val.ofInt (shrInt a.num (encodeElem f b % 32)), {})
  | _ => (copyNan c.strict a a, {})

/-- The ALU slot on elements: flags of both operands' paths and of the result (R235). -/
def aluEl (op : Nat) (swap : Bool) (f : Fmt) (c : Ctx) (a b : El) (i : Val) : El :=
  let (x, y) := if swap then (b, a) else (a, b)
  let (v, fl) := aluOp op f c x.v y.v i
  { v := v, fl := (x.fl.or y.fl).or fl }

/-- Round an element to a format by round to nearest, as at entry and at OUT without CONV (R221, R161). -/
def roundEl (f : Fmt) (rnd : Rnd) (strict same : Bool) (e : El) : El :=
  let (v, fl) := convert f rnd strict same e.v
  { v := v, fl := e.fl.or fl }

/-- An input element in its compute format: exact value, times its fine scale if it has one, rounded once (R221). -/
def entryEl (f cf : Fmt) (strict : Bool) (x : Nat) (scale : Option Val) : El :=
  let e := decodeElem f x
  match scale with
  | none => roundEl cf .rne strict (f == cf) { v := e }
  | some s =>
    if s.isNan then { v := .cnan }
    else if s.isZero then
      match e with
      | .fin n _ _ => { v := .fin n 0 1 }
      | e => roundEl cf .rne strict false { v := e }
    else
      match exactMul e s with
      | some m => roundEl cf .rne strict false { v := m }
      | none => roundEl cf .rne strict false { v := e }

/-! ## Reduction order (R250) -/

/-- One level of the tree: node k combines children 2k and 2k + 1; a single child passes on. -/
def pairUp {α : Type} (add : α → α → α) : List α → List α
  | x :: y :: l => add x y :: pairUp add l
  | l => l

/-- A block of at most 32 terms: five levels. -/
def treeBlock {α : Type} (add : α → α → α) (l : List α) : Option α :=
  (pairUp add (pairUp add (pairUp add (pairUp add (pairUp add l))))).head?

/-- The blocks in ascending order, added one after another; the first argument bounds the number of blocks. -/
def sumBlocks {α : Type} (add : α → α → α) : Nat → Option α → List α → Option α
  | 0, acc, _ => acc
  | n + 1, acc, l =>
    if l.isEmpty then acc
    else
      let b := treeBlock add (l.take 32)
      let acc' := match acc, b with
        | some a, some x => some (add a x)
        | none, b => b
        | a, none => a
      sumBlocks add n acc' (l.drop 32)

/-- The procedure of R250 over terms in ascending reduced index. -/
def reduceTerms {α : Type} (add : α → α → α) (l : List α) : Option α := sumBlocks add (l.length / 32 + 1) none l

/-- Addition of two terms, rounded to the accumulator format (R250, R252). -/
def addEl (f : Fmt) (strict : Bool) (a b : El) : El :=
  let (v, fl) := addVal f (.near strict) a.v b.v
  { v := v, fl := (a.fl.or b.fl).or fl }

/-- A term rounded to the accumulator format (R249). -/
def termEl (from_ af : Fmt) (strict : Bool) (e : El) : El := roundEl af .rne strict (from_ == af) e

end Sys2Proof
end

