-- ==== Sys2Proof/Machine/Thresher.lean ====
section
/-! DEFINITION. The thresher (08, R230-R235): scaled conversion, choice of fine scales, and scale notes. -/

namespace Sys2Proof

/-- The CONV slot's fields (table "CONV slot word"). -/
structure ConvSlot where
  rnd : Nat
  scale : Nat
  note : Nat
  seed : Nat
  imm : Nat
deriving DecidableEq, Repr

/-- q of R231 and R234: the largest finite magnitude of the OUT format. -/
def scaleTop : Fmt → Val
  | .int32 => .ofInt 2147483647
  | .int8 => .ofInt 127
  | .int4 => .ofInt 7
  | .int2 | .int1 => .one
  | f => f.maxVal false

/-- ceil(log2(p/q)) for positive p, q. -/
def clog2 (p q : Nat) : Int :=
  let e := flog2 p q
  let (a, b) := shiftFrac p q e
  if a = b then e else e + 1

/-- How a scale met its limits (R231). -/
inductive Held where
  | no
  | high
  | low
deriving DecidableEq, Repr

/-- The largest magnitude of a list, NaNs ignored; none when all are NaN. -/
def maxMag (l : List Val) : Option Val :=
  l.foldl (fun m v =>
    if v.isNan then m
    else match m with
      | none => some (v.withNeg false)
      | some x => if Val.cmp x (v.withNeg false) < 0 then some (v.withNeg false) else some x) none

/-- choose_scale (R231): the scale's encoding in the companion format, and whether a limit held it. -/
def chooseScale (out comp : Fmt) (us : List Val) : Nat × Held :=
  let unit := if comp = .e8m0 then 0x7F else 0x38
  match maxMag us with
  | none => (unit, .no)
  | some m =>
    if m.isZero then (unit, .no)
    else
      let q := scaleTop out
      match m with
      | .fin _ a b =>
        let (p, d) := (a * q.den, b * q.num.toNat)
        if comp = .e8m0 then
          let k := clog2 p d
          if 127 < k then (0xFE, .high) else if k < -127 then (0, .low) else ((k + 127).toNat, .no)
        else if 448 * d < p then (0x7E, .high)
        else if p * 512 < d then (1, .low)
        else (((List.range 127).find? fun c =>
          match decodeElem .ue4m3 c with
          | .fin _ x y => decide (p * y ≤ x * d)
          | _ => false).getD 0x7E, .no)
      | _ => (if comp = .e8m0 then 0xFE else 0x7E, .high)

/-- crcp of R230, rounded once a command; its rounding lies on every element's path. -/
def coarseRecip (imm : Nat) (strict : Bool) : Val × Fl :=
  match decodeElem .fp32 imm with
  | .fin _ p q => convert .fp32 .rne strict false (.fin false q p)
  | v => (v, {})

/-- u = round(v x crcp, FP32) (R230). -/
def coarseEl (imm : Nat) (strict : Bool) (e : El) : El :=
  let (r, f0) := coarseRecip imm strict
  match exactMul e.v r with
  | some m =>
    if e.v.isNan then
      let (v, f) := convert .fp32 .rne strict false e.v
      { v := v, fl := (e.fl.or f0).or f }
    else
      let (v, f) := convert .fp32 .rne strict false m
      { v := v, fl := (e.fl.or f0).or f }
  | none =>
    let (v, f) := convert .fp32 .rne strict false e.v
    { v := v, fl := (e.fl.or f0).or f }

/-- The exact quotient u / s; non-finite u passes. -/
def overScale (u s : Val) : Val :=
  match u, s with
  | .fin n p q, .fin _ a b => if a = 0 then u else .fin n (p * b) (q * a)
  | _, _ => u

/-- Elements of one bushel (u, already coarse-scaled) to the OUT format under a fine scale (R230). `rnds` gives each element's
rounding mode. -/
def fineEls (out : Fmt) (strict : Bool) (s : Val) (us : List (El × Rnd)) : List El :=
  us.map fun (u, r) =>
    let (v, f) := convert out r strict false (overScale u.v s)
    { v := v, fl := u.fl.or f }

/-- The FP32 encoding of a magnitude rounded toward plus infinity (table "Note record", AMAX). -/
def amaxBits (v : Val) : Nat :=
  match v with
  | .fin _ p q =>
    if p = 0 then 0
    else
      let (w, _) := convert .fp32 .rtz false false (.fin false p q)
      let b := encodeElem .fp32 w
      if Val.cmp w (.fin false p q) < 0 then b + 1 else b
  | _ => 0x7F800000

/-- NEXT_COARSE (R234) from AMAX's encoding, the OUT format (none: destination none) and the companion format (none: SCALE 0b00
or 0b01). -/
def nextCoarse (amax : Nat) (out : Option Fmt) (comp : Option Fmt) : Nat :=
  let pow (k : Int) : Nat := encodeElem .fp32 (unitsVal false 1 (max (-126) (min 127 k)))
  match decodeElem .fp32 amax with
  | .fin _ p q =>
    if p = 0 then 0x3F800000
    else
      let t := match out with
        | some f => scaleTop f
        | none => Fmt.maxVal .fp32 false
      let (a, b) := (p * t.den, q * t.num.toNat)
      match comp with
      | some .ue4m3 => pow (clog2 a (b * 448))
      | some _ => pow (max 0 (clog2 a (b * 2 ^ 127)))
      | none => pow (clog2 a b)
  | _ => pow 127

/-- Saturate a count at 2^32 - 1. -/
def sat32 (n : Nat) : Nat := min n (2 ^ 32 - 1)

/-- The eight words of a note record (table "Note record") of the values that the chain delivers. -/
def noteWords (vs : List Val) (out comp : Option Fmt) (high low : Nat) : List Nat :=
  let amax := amaxBits ((maxMag vs).getD .zero)
  [amax, nextCoarse amax out comp, sat32 vs.length, sat32 (vs.filter Val.isNan).length, sat32 (vs.filter Val.isInf).length,
    sat32 high, sat32 low, 0]

end Sys2Proof
end

