-- ==== Sys2Proof/Machine/Granary.lean ====
section
/-! DEFINITION. The granary and the stream ledger (14, R331-R347): entry fields, tier layouts, row encoding and decoding. -/

namespace Sys2Proof

/-- Bits [hi:lo] of a number. -/
def bitsOf (x hi lo : Nat) : Nat := x / 2 ^ lo % 2 ^ (hi + 1 - lo)

/-- A ledger entry as its four words (R331). -/
structure Entry where
  w0 : Nat
  w1 : Nat
  w2 : Nat
  w3 : Nat
deriving DecidableEq, Repr

namespace Entry

def kind (e : Entry) : Nat := bitsOf e.w0 1 0
def tenant (e : Entry) : Nat := bitsOf e.w0 4 2
def tier (e : Entry) : Nat := bitsOf e.w0 6 5
def rowl (e : Entry) : Nat := bitsOf e.w0 9 7
def capl (e : Entry) : Nat := bitsOf e.w0 14 10
def dataLine (e : Entry) : Nat := bitsOf e.w0 46 16
def lower (e : Entry) : Nat := bitsOf e.w0 63 47
def scaleLine (e : Entry) : Nat := bitsOf e.w1 30 0
def coarse (e : Entry) : Nat := bitsOf e.w1 63 32
def head (e : Entry) : Nat := bitsOf e.w2 22 0
def rnd (e : Entry) : Nat := bitsOf e.w2 24 23
def cursor (e : Entry) : Nat := bitsOf e.w2 54 32
def seed (e : Entry) : Nat := bitsOf e.w3 31 0
def tally (e : Entry) : Nat := bitsOf e.w3 55 32
-- channel entries (R334)
def efmt (e : Entry) : Nat := bitsOf e.w0 8 5
def home (e : Entry) : Nat := bitsOf e.w0 20 10
def landLine (e : Entry) : Nat := bitsOf e.w0 54 24
def shadowLine (e : Entry) : Nat := bitsOf e.w1 30 0
def count (e : Entry) : Nat := bitsOf e.w1 63 32
def collCtl (e : Entry) : Nat := e.w2

/-- Elements of a row (R332). -/
def row (e : Entry) : Nat := 32 * 2 ^ e.rowl
/-- Capacity in positions. -/
def cap (e : Entry) : Nat := 2 ^ e.capl
/-- Element bits of the tier (R333). -/
def tierBits (e : Entry) : Nat := match e.tier with | 0 => 8 | 1 => 4 | _ => 2
/-- Elements per scale byte: 32, 16, 8 (R333). -/
def scaleDiv (e : Entry) : Nat := match e.tier with | 0 => 32 | 1 => 16 | _ => 8
/-- Bytes of a row in the data region. -/
def dataRow (e : Entry) : Nat := e.row * e.tierBits / 8
/-- Bytes of a row in the scale region. -/
def scaleRow (e : Entry) : Nat := e.row / e.scaleDiv
/-- Byte address of position p in the data region (R333). -/
def dataAddr (e : Entry) (p : Nat) : Nat := e.dataLine * 512 + p % e.cap * e.dataRow
/-- Byte address of position p in the scale region (R333). -/
def scaleAddr (e : Entry) (p : Nat) : Nat := e.scaleLine * 512 + p % e.cap * e.scaleRow
/-- Bytes of the data region. -/
def dataBytes (e : Entry) : Nat := e.cap * e.dataRow
/-- Bytes of the scale region. -/
def scaleBytes (e : Entry) : Nat := e.cap * e.scaleRow

/-- Replace HEAD and CURSOR. -/
def setSpan (e : Entry) (h c : Nat) : Entry :=
  { e with w2 := bitsOf e.w2 63 55 * 2 ^ 55 + c % 2 ^ 23 * 2 ^ 32 + bitsOf e.w2 31 23 * 2 ^ 23 + h % 2 ^ 23 }
/-- Replace TALLY. -/
def setTally (e : Entry) (t : Nat) : Entry :=
  { e with w3 := bitsOf e.w3 63 56 * 2 ^ 56 + t % 2 ^ 24 * 2 ^ 32 + e.w3 % 2 ^ 32 }
/-- The static fields: every bit but the dynamic ones, HEAD, CURSOR and TALLY of a context entry, TALLY of a channel entry (R332, R335). -/
def statics (e : Entry) : Entry := if e.kind = 2 then e.setTally 0 else (e.setSpan 0 0).setTally 0
/-- Is every bit zero? -/
def free (e : Entry) : Bool := e.w0 == 0 && e.w1 == 0 && e.w2 == 0 && e.w3 == 0
/-- The four words in order. -/
def words (e : Entry) : List Nat := [e.w0, e.w1, e.w2, e.w3]
/-- Reserved bits or reserved encodings that are set (R332, R334, R336). -/
def reservedSet (e : Entry) : Bool :=
  match e.kind with
  | 0 => !e.free
  | 1 => e.tier == 3 || bitsOf e.w0 15 15 != 0 || bitsOf e.w1 31 31 != 0 || e.rnd == 3 || bitsOf e.w2 31 25 != 0
           || bitsOf e.w2 63 55 != 0 || bitsOf e.w3 63 56 != 0
  | 2 => decide (12 < e.efmt) || bitsOf e.w0 9 9 != 0 || bitsOf e.w0 23 21 != 0 || bitsOf e.w0 63 55 != 0
           || bitsOf e.w1 31 31 != 0 || bitsOf e.w2 63 2 != 0 || bitsOf e.w3 63 56 != 0
  | _ => true

end Entry

/-- A positive, finite, normal FP32 encoding (R220, R336). -/
def posNormalFp32 (x : Nat) : Bool := decide (0x00800000 ≤ x ∧ x < 0x7F800000)

/-- The entry held at an index of the ledger. -/
def Entry.ofMem (m : Mem) (i : Nat) : Entry :=
  ⟨(m.read64 (32 * i)).toNat, (m.read64 (32 * i + 8)).toNat, (m.read64 (32 * i + 16)).toNat, (m.read64 (32 * i + 24)).toNat⟩

/-- Write an entry at an index of the ledger. -/
def Entry.toMem (e : Entry) (m : Mem) (i : Nat) : Mem := m.writeBytes (32 * i) (e.words.flatMap (leBytes 8))

/-! ## Encoding and decoding of rows (R339-R343) -/

/-- Elements of a bushel by tier (R339). -/
def tierBushel : Nat → Nat
  | 0 => 32
  | _ => 16

/-- Consecutive groups of n. The first argument bounds their number. -/
def groupsOf {α : Type} (n : Nat) : Nat → List α → List (List α)
  | 0, _ => []
  | k + 1, l => if l.isEmpty then [] else l.take n :: groupsOf n k (l.drop n)

/-- Split a list into groups of n. -/
def chunksOf {α : Type} (n : Nat) (l : List α) : List (List α) := groupsOf n (l.length + 1) l

/-- The largest E4M3 value at most x, as an encoding; a zero is +0 (R341). -/
def e4m3Floor (x : Val) : Nat :=
  ((List.range 127).reverse.find? fun c => decide (Val.cmp (decodeElem .e4m3 c) x ≤ 0)).getD
    (((List.range 127).find? fun c => c != 0 && decide (Val.cmp (decodeElem .e4m3 (c + 128)) x ≤ 0)).map (· + 128) |>.getD 0xFE)

/-- The smallest UE4M3 value at least x, limited to 2^-9 to 448, as an encoding (R341). -/
def ue4m3Ceil (x : Val) : Nat :=
  ((List.range 127).find? fun c => c != 0 && decide (Val.cmp x (decodeElem .ue4m3 c) ≤ 0)).getD 0x7E

/-- The least or greatest of a list, NaNs ignored. -/
def extremeVal (isMax : Bool) (l : List Val) : Option Val :=
  l.foldl (fun m v =>
    if v.isNan then m
    else match m with
      | none => some v
      | some x => if (if isMax then Val.cmp x v < 0 else Val.cmp v x < 0) then some v else some x) none

/-- An encoded bushel: codes, scale bytes, and the elements with the flags of the encoding. -/
structure EncBushel where
  codes : List Nat
  scales : List Nat
  els : List El
deriving DecidableEq, Repr

/-- One T2 bushel of u values (R341). -/
def encodeT2 (us : List (El × Rnd)) : EncBushel :=
  let vals := us.map (·.1.v)
  let (o, s) := match extremeVal false vals, extremeVal true vals with
    | some lo, some hi =>
      let top := Val.ofInt 448
      let bot := Val.ofInt (-448)
      let o := if 0 < Val.cmp lo top then 0x7E else e4m3Floor (if Val.cmp lo bot < 0 then bot else lo)
      let s := match exactAdd hi (negVal (decodeElem .e4m3 o)) with
        | some (.fin n p q) => ue4m3Ceil (.fin n p (q * 3))
        | _ => 0x7E
      (o, s)
    | _, _ => (0, 1)
  let ov := decodeElem .e4m3 o
  let sv := decodeElem .ue4m3 s
  let one (x : El × Rnd) : Nat × El :=
    match x.1.v with
    | .nan .. => (0, x.1)
    | .inf n => (if n then 0 else 3, { x.1 with fl := x.1.fl.or { sat := true } })
    | .fin .. =>
      let (neg, p, q) := match exactAdd x.1.v (negVal ov), sv with
        | some (.fin n p q), .fin _ a b => (n, p * b, q * a)
        | _, _ => (false, 0, 1)
      let r : Int := if p = 0 then 0 else
        let k : Int := (roundUnits x.2 p q 0).1
        if neg then -k else k
      let c := min 3 (max 0 r)
      let st := (exactMul (Val.ofInt c) sv).bind fun m => exactAdd ov m
      let zero := match st with
        | some v => v.isZero
        | none => false
      (c.toNat, { x.1 with fl := x.1.fl.or { sat := decide (c ≠ r), flush := zero && !x.1.v.isZero } })
  let rs := us.map one
  ⟨rs.map (·.1), [s, o], rs.map (·.2)⟩

/-- One bushel in a tier (R340, R341), from values u. -/
def encodeBushel (tier : Nat) (strict : Bool) (us : List (El × Rnd)) : EncBushel :=
  if tier = 2 then encodeT2 us
  else
    let (f, c) : Fmt × Fmt := if tier = 0 then (.e4m3, .e8m0) else (.e2m1, .ue4m3)
    let (s, _) := chooseScale f c (us.map (·.1.v))
    let els := fineEls f strict (decodeElem c s) us
    ⟨els.map fun e => encodeElem f e.v, [s], els⟩

/-- Elements from index i0 of a row at position p, encoded for an entry (R340-R343). -/
def encodeRow (e : Entry) (strict : Bool) (p i0 : Nat) (vs : List El) : EncBushel :=
  let us := vs.map (coarseEl e.coarse strict)
  let withRnd := (List.range us.length).zip us |>.map fun (i, u) =>
    (u, rndOf e.rnd (srBits (BitVec.ofNat 32 e.seed) (p * e.row + i0 + i) 2))
  let bs := (chunksOf (tierBushel e.tier) withRnd).map (encodeBushel e.tier strict)
  ⟨bs.flatMap (·.codes), bs.flatMap (·.scales), bs.flatMap (·.els)⟩

/-- The stored value of an element (R342) before COARSE: code, and its bushel's scale bytes. -/
def storedVal (tier code s o : Nat) : Val :=
  let fine (e : Val) (sv : Val) : Val :=
    if sv.isNan then .cnan
    else if sv.isZero then (match e with | .fin n _ _ => .fin n 0 1 | e => e)
    else (exactMul e sv).getD e
  match tier with
  | 0 => fine (decodeElem .e4m3 code) (decodeElem .e8m0 s)
  | 1 => fine (decodeElem .e2m1 code) (decodeElem .ue4m3 s)
  | _ =>
    let sv := decodeElem .ue4m3 s
    if sv.isNan then .cnan
    else if sv.isZero then .zero
    else
      let ov := decodeElem .e4m3 o
      if ov.isNan then ov else ((exactMul (Val.ofInt code) sv).bind fun m => exactAdd ov m).getD ov

/-- A stored element decoded to a descriptor's format (R342). -/
def decodeStored (e : Entry) (f : Fmt) (strict : Bool) (code s o : Nat) : El :=
  let v := storedVal e.tier code s o
  let m := if v.isNan then v else (exactMul v (decodeElem .fp32 e.coarse)).getD v
  roundEl f .rne strict false { v := m }

end Sys2Proof
end

