-- ==== Sys2Proof/Machine/FuncEval.lean ====
section
/-! DEFINITION. The function evaluator (10, R261-R269, R276-R279): built-in functions rounded once from enclosing intervals, tables
as exact quadratics, and the ZV3 compatibility steps. -/

namespace Sys2Proof

/-- Floor of the square root of n below 4^k, bit by bit. -/
def isqrt (n : Nat) : Nat → Nat → Nat
  | 0, r => r
  | k + 1, r => if (r + 2 ^ k) * (r + 2 ^ k) ≤ n then isqrt n k (r + 2 ^ k) else isqrt n k r

/-- ln 2 in units of 2^-P, from the series 2 artanh(1/3). -/
def ln2Fix (prec : Nat) : Nat :=
  (List.range (prec / 3 + 16)).foldl (fun s i => s + 2 ^ (prec + 33) / ((2 * i + 1) * 3 ^ (2 * i + 1))) 0 / 2 ^ 32

/-- Taylor terms of e^r, r and the result in units of 2^-P. -/
def expTerms (prec r : Nat) : Nat → Nat → Nat → Nat → Nat
  | 0, _, _, s => s
  | k + 1, n, t, s =>
    let t' := t * r / 2 ^ prec / n
    if t' = 0 then s else expTerms prec r k (n + 1) t' (s + t')

/-- e^r for 0 <= r < 1 in units of 2^-P. -/
def expFix (prec r : Nat) : Nat := expTerms prec r prec 1 (2 ^ prec) (2 ^ prec)

/-- Terms of the artanh series. -/
def atanhTerms (prec z2 : Nat) : Nat → Nat → Nat → Nat → Nat
  | 0, _, _, s => s
  | k + 1, i, t, s => if t = 0 then s else atanhTerms prec z2 k (i + 1) (t * z2 / 2 ^ prec) (s + t / (2 * i + 1))

/-- artanh z for 0 <= z < 1/2 in units of 2^-P. -/
def atanhFix (prec z : Nat) : Nat := atanhTerms prec (z * z / 2 ^ prec) prec 0 z 0

/-- An enclosure: bounds lo and hi of a value in units of 2^u. -/
structure Enc where
  lo : Int
  hi : Int
  u : Int
deriving DecidableEq, Repr

/-- A bound of an enclosure as a value. -/
def encVal (n : Int) (u : Int) : Val := unitsVal (decide (n < 0)) n.natAbs u

/-- Enclosure of e^x for a finite x with |x| at most 2^12. -/
def expEnc (prec : Nat) (x : Val) : Enc :=
  let xf : Int := x.num * 2 ^ prec / x.den
  let l2 : Int := ln2Fix prec
  let k := xf / l2
  let y : Int := expFix prec (xf - k * l2).toNat
  ⟨y - 2 ^ 15, y + 2 ^ 15, k - prec⟩

/-- ln of a positive p/q in units of 2^-P, within 2^13 units for exponents below 2^12. -/
def lnFix (prec p q : Nat) : Int :=
  let e := flog2 p q
  let (a, b) := shiftFrac p q e
  let (a, b, e) := if 4 * b < 3 * a then (a, 2 * b, e + 1) else (a, b, e)
  let z := (if a < b then b - a else a - b) * 2 ^ prec / (a + b)
  let l : Int := 2 * atanhFix prec z
  e * (ln2Fix prec : Int) + (if a < b then -l else l)

/-- Enclosure of ln x for a positive finite x. -/
def logEnc (prec : Nat) (x : Val) : Enc :=
  let l := lnFix prec x.num.toNat x.den
  ⟨l - 2 ^ 14, l + 2 ^ 14, -prec⟩

/-- Round an enclosed value once: the first precision whose two bounds round alike (R263). -/
def roundEnc (w : Fmt) (strict : Bool) (enc : Nat → Enc) : List Nat → Val × Fl
  | [] => convert w .rne strict false (let e := enc 1024; encVal e.lo e.u)
  | p :: ps =>
    let e := enc p
    let a := convert w .rne strict false (encVal e.lo e.u)
    if a = convert w .rne strict false (encVal e.hi e.u) then a else roundEnc w strict enc ps

/-- Working precisions in bits. -/
def encPrecs : List Nat := [128, 256, 512]

/-- X_CLAMP, as a WX32 encoding (R264). -/
def xClamp : Val := decodeElem .wx32 0x40862E3D

/-- Flags of a clamped element (R264, R276). -/
def clampFl (strict : Bool) : Fl := { sat := true, ovf := strict, nx := strict }

/-- e^x for finite x rounded once to W, without clamp. Below 2^-40 in magnitude the value lies strictly between 1 and its
neighbour; beyond 4096 it lies outside every format. -/
def expFin (w : Fmt) (strict : Bool) (x : Val) : Val × Fl :=
  if x.isZero then (.one, {})
  else if Val.cmp (x.withNeg false) (unitsVal false 1 (-40)) < 0 then
    convert w .rne strict false (.fin false (if x.neg? then 2 ^ 60 - 1 else 2 ^ 60 + 1) (2 ^ 60))
  else if Val.cmp (unitsVal false 1 12) (x.withNeg false) < 0 then
    convert w .rne strict false (unitsVal false 1 (if x.neg? then -4096 else 4096))
  else roundEnc w strict (fun p => expEnc p x) encPrecs

/-- A NaN argument's result (R254, R258, R276). -/
def nanArg (strict : Bool) (v : Val) : Val × Fl := (if strict then v.quiet else .cnan, snanFl strict [v])

/-- EXP in W (R263-R265). -/
def expVal (w : Fmt) (strict : Bool) (u : Val) : Val × Fl :=
  match u with
  | .nan .. => nanArg strict u
  | .inf true => (.zero, {})
  | .inf false => if w = .wx32 then ((expFin w strict xClamp).1, clampFl strict) else (.inf false, {})
  | .fin .. =>
    if w = .wx32 ∧ 0 < Val.cmp u xClamp then ((expFin w strict xClamp).1, clampFl strict) else expFin w strict u

/-- LOG in W. -/
def logVal (w : Fmt) (strict : Bool) (u : Val) : Val × Fl :=
  match u with
  | .nan .. => nanArg strict u
  | .inf true => invalidRes strict
  | .inf false => (u, {})
  | .fin n p q =>
    if p = 0 then (.inf true, { dz := strict })
    else if n then invalidRes strict
    else if p = q then (.zero, {})
    else roundEnc w strict (fun k => logEnc k u) encPrecs

/-- RECIP in W. -/
def recipVal (w : Fmt) (strict : Bool) (u : Val) : Val × Fl :=
  match u with
  | .nan .. => nanArg strict u
  | .inf n => (.fin n 0 1, {})
  | .fin n p q => if p = 0 then (.inf n, { dz := strict }) else convert w .rne strict false (.fin n q p)

/-- sqrt(p/q) as a value that rounds alike: 80 or more leading bits and a sticky bit. -/
def sqrtSticky (p q : Nat) : Val :=
  let e := flog2 p q
  let h := e / 2 - 90
  let (a, b) := shiftFrac p q (2 * h)
  let n := a / b
  let r := isqrt n 100 0
  unitsVal false (if r * r * b = a then 2 * r else 2 * r + 1) (h - 1)

/-- RSQRT in W. -/
def rsqrtVal (w : Fmt) (strict : Bool) (u : Val) : Val × Fl :=
  match u with
  | .nan .. => nanArg strict u
  | .inf true => invalidRes strict
  | .inf false => (.zero, {})
  | .fin n p q =>
    if p = 0 then (.inf n, { dz := strict })
    else if n then invalidRes strict
    else convert w .rne strict false (sqrtSticky q p)

/-! ## Tables (R267-R269) -/

/-- Sign-extend an n-bit field. -/
def sext (n x : Nat) : Int := if x % 2 ^ n < 2 ^ (n - 1) then (x % 2 ^ n : Nat) else (x % 2 ^ n : Nat) - 2 ^ n

/-- Coefficients and exponent adjust of an 80-bit record. -/
structure TabRec where
  c0 : Int
  c1 : Int
  c2 : Int
  e : Int
deriving DecidableEq, Repr

/-- Record from its 80 bits (R267). -/
def TabRec.ofNat (x : Nat) : TabRec :=
  ⟨sext 24 x, sext 24 (x / 2 ^ 24), sext 24 (x / 2 ^ 48), sext 8 (x / 2 ^ 72)⟩

/-- A signed fraction n/d times 2^e as a value; zero gives +0 (R269). -/
def signedFrac (n : Int) (d : Nat) (e : Int) : Val :=
  let neg := decide (n < 0)
  if n = 0 then .zero else if e < 0 then .fin neg n.natAbs (d * 2 ^ (-e).toNat) else .fin neg (n.natAbs * 2 ^ e.toNat) d

/-- The quadratic c0 2^(E-22) + c1 2^(E-24) t + c2 2^(E-26) t^2 at t = a/b, exact. -/
def TabRec.eval (r : TabRec) (a b : Nat) : Val :=
  signedFrac (16 * r.c0 * (b * b : Nat) + 4 * r.c1 * (a * b : Nat) + r.c2 * (a * a : Nat)) (b * b) (r.e - 26)

/-- First record of each binade -4 to 5 in a half, and its segment bits. -/
def tabBinade (e : Int) : Nat × Nat :=
  match (e + 4).toNat with
  | 0 => (1, 4)
  | 1 => (17, 4)
  | 2 => (33, 4)
  | 3 => (49, 4)
  | 4 => (65, 4)
  | 5 => (81, 4)
  | 6 => (97, 4)
  | 7 => (113, 3)
  | 8 => (121, 2)
  | _ => (125, 1)

/-- The exact value of a table at a non-NaN argument (R269); `tab` gives record i. -/
def tableExact (tab : Nat → TabRec) (u : Val) : Val :=
  let base := if u.neg? then 128 else 0
  match u with
  | .nan .. => .cnan
  | .inf _ =>
    let r := tab (base + 127)
    if r.c1 = 0 then signedFrac r.c0 1 (r.e - 22) else .inf (decide (r.c1 < 0))
  | .fin _ p q =>
    if 64 * q ≤ p then
      let r := tab (base + 127)
      signedFrac (4 * r.c0 * (q : Int) + r.c1 * (p : Int)) q (r.e - 24)
    else if 16 * p < q then (tab base).eval (16 * p) q
    else
      let e := flog2 p q
      let (first, k) := tabBinade e
      let (a, b) := shiftFrac p q e
      let g := (a - b) * 2 ^ k
      (tab (base + first + g / b)).eval (g % b) b

/-- TABLE in W. -/
def tableVal (w : Fmt) (strict : Bool) (tab : Nat → TabRec) (u : Val) : Val × Fl :=
  match u with
  | .nan .. => nanArg strict u
  | u =>
    match tableExact tab u with
    | .inf n => (.inf n, {})
    | v => convert w .rne strict false v

/-! ## ZV3 compatibility mode (R277-R279) -/

/-- Working precision of the ZV3 table constructions. -/
def zv3Prec : Nat := 192

/-- Nearest integer, ties to even, of n/d. -/
def rneInt (n : Int) (d : Nat) : Int :=
  let q := n / d
  let r := n % d
  if 2 * r < d then q else if (d : Int) < 2 * r then q + 1 else if q % 2 = 0 then q else q + 1

/-- 2^(a/b), 0 <= a/b <= 1, in units of 2^-192. -/
def exp2Fix (a b : Nat) : Int :=
  if a = b then 2 ^ (zv3Prec + 1) else expFix zv3Prec (ln2Fix zv3Prec * a / b)

/-- log2(a/b) in units of 2^-192. -/
def log2Fix (a b : Nat) : Int :=
  if a = b then 0 else if a = 2 * b then 2 ^ zv3Prec else lnFix zv3Prec a b * 2 ^ zv3Prec / ln2Fix zv3Prec

/-- b/a in units of 2^-192. -/
def recipFix (a b : Nat) : Int := (2 ^ zv3Prec * b / a : Nat)

/-- sqrt(b/a) in units of 2^-192. -/
def rsqrtFix (a b : Nat) : Int := isqrt (2 ^ (2 * zv3Prec) * b / a) (zv3Prec + 1) 0

/-- The record through g at the ends and middle of [a/b, (a+1)/b) (R278). -/
def zv3Rec (g : Nat → Nat → Int) (a b : Nat) : TabRec :=
  let y0 := g (2 * a) (2 * b)
  let ym := g (2 * a + 1) (2 * b)
  let y1 := g (2 * a + 2) (2 * b)
  ⟨rneInt (2 ^ 22 * y0) (2 ^ zv3Prec), rneInt (2 ^ 24 * (4 * ym - 3 * y0 - y1)) (2 ^ zv3Prec),
    rneInt (2 ^ 26 * (2 * y0 - 4 * ym + 2 * y1)) (2 ^ zv3Prec), 0⟩

/-- Round to FP32 by round to nearest, keeping flags. -/
def fp32Near (fl : Fl) (v : Val) : Val × Fl :=
  let (w, f) := convert .fp32 .rne false false v
  (w, fl.or f)

/-- seg of R279: the record that holds v = p/q in [a0, a0 + 1/..) with n segments per unit. -/
def zv3Seg (g : Nat → Nat → Int) (p q a0 n : Nat) : Val × Fl :=
  let x := (p - a0 * q) * n
  let i := x / q
  fp32Near {} ((zv3Rec g (a0 * n + i) n).eval (x % q) q)

/-- m with x = m 2^e, 1 <= m < 2, as a fraction, and e. -/
def normFrac (p q : Nat) : Nat × Nat × Int :=
  let e := flog2 p q
  let (a, b) := shiftFrac p q e
  (a, b, e)

/-- Scale a value by 2^k exactly. -/
def scaleVal (v : Val) (k : Int) : Val :=
  match v with
  | .fin n p q => if k < 0 then .fin n p (q * 2 ^ (-k).toNat) else .fin n (p * 2 ^ k.toNat) q
  | v => v

/-- zv3_exp of a finite argument. -/
def zv3Exp (x : Val) : Val × Fl :=
  let (y, f1) := mulVal .fp32 (.near false) x (decodeElem .fp32 0x3FB8AA3B)
  match y with
  | .inf n => if n then (.zero, f1.or { flush := true }) else (y, f1)
  | _ =>
    let n := y.num / y.den
    let r := (y.num - n * y.den).toNat
    let (p, f2) := zv3Seg exp2Fix r y.den 0 256
    fp32Near (f1.or f2) (scaleVal p n)

/-- zv3_log of a positive finite argument p/q. -/
def zv3Log (p q : Nat) : Val × Fl :=
  let (a, b, e) := normFrac p q
  let (l, f1) := zv3Seg log2Fix a b 1 256
  let (s, f2) := addVal .fp32 (.near false) (Val.ofInt e) l
  let (r, f3) := mulVal .fp32 (.near false) s (decodeElem .fp32 0x3F317218)
  (r, (f1.or f2).or f3)

/-- zv3_recip of a non-zero finite argument. -/
def zv3Recip (neg : Bool) (p q : Nat) : Val × Fl :=
  let (a, b, e) := normFrac p q
  let (y, f1) := zv3Seg recipFix a b 1 256
  let (r, f2) := fp32Near f1 (scaleVal y (-e))
  (if neg then negVal r else r, f2)

/-- zv3_rsqrt of a positive finite argument. -/
def zv3Rsqrt (p q : Nat) : Val × Fl :=
  let (a, b, e) := normFrac p q
  let (a, e) := if e % 2 = 1 then (2 * a, e - 1) else (a, e)
  let (y, f1) := if a < 2 * b then zv3Seg rsqrtFix a b 1 128 else zv3Seg rsqrtFix a b 2 64
  fp32Near f1 (scaleVal y (-(e / 2)))

/-- A built-in function in ZV3 compatibility mode on an FP32 value (R277, R279): special arguments as R265. -/
def zv3Fun (fn : Nat) (u : Val) : Val × Fl :=
  match fn, u with
  | 0, .fin _ p _ => if p = 0 then (.one, {}) else zv3Exp u
  | 1, .fin false p q => if p = 0 then logVal .fp32 false u else zv3Log p q
  | 2, .fin n p q => if p = 0 then recipVal .fp32 false u else zv3Recip n p q
  | 3, .fin false p q => if p = 0 then rsqrtVal .fp32 false u else zv3Rsqrt p q
  | 0, u => expVal .fp32 false u
  | 1, u => logVal .fp32 false u
  | 2, u => recipVal .fp32 false u
  | _, u => rsqrtVal .fp32 false u

/-! ## The slot -/

/-- The FUNC slot's fields (table "FUNC slot word"). -/
structure FuncSlot where
  fn : Nat
  tslot : Nat
  tidx : Nat
  pre : Nat
  imm : Nat
deriving DecidableEq, Repr

/-- The function itself at u in W, in a command's mode (0 fast, 1 strict, 2 ZV3). -/
def funcVal (w : Fmt) (mode fn : Nat) (tab : Nat → TabRec) (u : Val) : Val × Fl :=
  let strict := mode == 1
  if fn = 4 then tableVal w strict tab u
  else if mode = 2 then
    let (u', f1) := if w = .wx32 then convert .fp32 .rne false false u else (u, {})
    let (v, f2) := zv3Fun fn u'
    let (r, f3) := if w = .wx32 then convert .wx32 .rne false false v else (v, {})
    (r, (f1.or f2).or f3)
  else
    match fn with
    | 0 => expVal w strict u
    | 1 => logVal w strict u
    | 2 => recipVal w strict u
    | _ => rsqrtVal w strict u

/-- PRE: add or multiply by IMM, rounded to W (R262). Invalid of a signalling IMM is judged on IMM as the slot holds it. -/
def preVal (w : Fmt) (strict : Bool) (pre imm : Nat) (x : Val) : Val × Fl :=
  let raw := decodeElem .fp32 imm
  let i := (convert w .rne strict (w == .fp32) raw).1
  match pre with
  | 1 => let (v, f) := addVal w (.near strict) x i; (v, f.or (snanFl strict [raw]))
  | 2 => let (v, f) := mulVal w (.near strict) x i; (v, f.or (snanFl strict [raw]))
  | _ => (x, {})

/-- The FUNC slot on an element held in `from_` (R261, R262). Gives the working format with the element. -/
def funcEl (s : FuncSlot) (mode : Nat) (w : Fmt) (tab : Nat → TabRec) (from_ : Fmt) (e : El) : El :=
  let strict := mode == 1
  let (x, f0) := convert w .rne strict (from_ == w) e.v
  let (u, f1) := preVal w strict s.pre s.imm x
  let (v, f2) := funcVal w mode s.fn tab u
  { v := v, fl := ((e.fl.or f0).or f1).or f2 }

end Sys2Proof
end

