-- ==== Sys2Proof/Machine/Win.lean ====
section
/-! DEFINITION. The winnower (11, R280-R296): reductions over a row's terms in ascending reduced index, and element-wise compare,
select and normalised exponentials. -/

namespace Sys2Proof

/-- The WIN slot's fields (table "WIN slot word"). -/
structure WinSlot where
  op : Nat
  rmask : Nat
  af : Nat
  k : Nat
  cond : Nat
  pidx : Nat
  pset : Bool
  pcomb : Bool
  imm : Nat
deriving DecidableEq, Repr

/-- A format by its CF or AF code (tables "ALU slot word", "WIN slot word"). -/
def cfFmt : Nat → Fmt
  | 0 => .fp32
  | 1 => .wx32
  | _ => .int32

/-- An output element of a reduction; `raw` holds the bits that OUT writes without change (R284, R285). -/
structure WOut where
  e : El
  raw : Option Nat := none
deriving DecidableEq, Repr

/-- All flags of a list of elements (R252). -/
def orFl (l : List El) : Fl := l.foldl (fun f e => f.or e.fl) {}

/-- Signalling NaN terms (R296). -/
def sigFl (strict : Bool) (l : List El) : Fl := snanFl strict (l.map (·.v))

/-- The exact quotient by N rounded once (R282): an arithmetic operation on a NaN (R254, R257, R258); an infinity passes. -/
def divEl (af : Fmt) (strict : Bool) (n : Nat) (e : El) : El :=
  match e.v with
  | .fin neg p q =>
    let (v, f) := roundRes af (.near strict) (.fin neg p (q * n))
    { v := v, fl := e.fl.or f }
  | v => { v := (nanOf strict [v]).getD v, fl := e.fl.or (snanFl strict [v]) }

/-- round(v x v, AF) of a delivered value (R291). -/
def squareEl (from_ af : Fmt) (strict : Bool) (e : El) : El :=
  match e.v with
  | .fin _ p q =>
    let (v, f) := roundRes af (.near strict) (.fin false (p * p) (q * q))
    { v := v, fl := e.fl.or f }
  | _ =>
    let t := termEl from_ af strict e
    let (v, f) := mulVal af (.near strict) t.v t.v
    { v := v, fl := t.fl.or f }

/-- Sum of terms under R250. -/
def sumEls (af : Fmt) (strict : Bool) (l : List El) : El := (reduceTerms (addEl af strict) l).getD { v := .zero }

/-- var = round(q - m x m, AF); a negative var becomes +0 (R291). -/
def varEl (af : Fmt) (strict : Bool) (q m : El) : El :=
  let fl := q.fl.or m.fl
  match nanOf strict [q.v, m.v] with
  | some v => { v := v, fl := fl.or (snanFl strict [q.v, m.v]) }
  | none =>
    match (exactMul m.v m.v).bind fun mm => exactAdd q.v (negVal mm) with
    | none => { v := .cnan, fl := fl.or { inv := strict } }
    | some d =>
      let (v, f) := roundRes af (.near strict) d
      { v := if v.neg? then .zero else v, fl := fl.or f }

/-- An element converted to WX32, the clamp and the exponential of the soft maximum (R287, R264, R296). -/
def softTerm (from_ : Fmt) (strict : Bool) (e : El) : El :=
  let x := roundEl .wx32 .rne strict (from_ == .wx32) e
  let (v, f) := expVal .wx32 strict x.v
  { v := v, fl := x.fl.or f }

/-- Does x rank before y in TOPK's order (R285)? -/
def topkBefore (x y : Nat × El) : Bool :=
  match x.2.v.isNan, y.2.v.isNan with
  | true, true => decide (x.1 < y.1)
  | true, false => true
  | false, true => false
  | false, false =>
    let c := Val.cmpZ x.2.v y.2.v
    decide (0 < c) || (decide (c = 0) && decide (x.1 < y.1))

/-- Insert a term into a list in TOPK's order. -/
def topkInsert (x : Nat × El) : List (Nat × El) → List (Nat × El)
  | [] => [x]
  | y :: l => if topkBefore x y then x :: y :: l else y :: topkInsert x l

/-- The first K terms of TOPK's order. -/
def topkOrder (k : Nat) (l : List (Nat × El)) : List (Nat × El) := l.foldl (fun acc x => (topkInsert x acc).take k) []

/-- The value entries beyond N carry (R285). -/
def topkPad : Fmt → Nat
  | .wx32 => 0xFFF00000
  | .int32 => 0x80000000
  | _ => 0xFF800000

/-- A NaN as MAX writes it (R283). -/
def maxNan (strict : Bool) (v : Val) : Val := if v.isNan then (if strict then v.quiet else .cnan) else v

/-- TOPK of a row: 2K elements; the row's counts ride on the first (R285, R286). -/
def topkRow (af : Fmt) (strict : Bool) (k : Nat) (ts : List El) : List WOut :=
  let order := topkOrder k ((List.range ts.length).zip ts)
  let pad := (List.range (k - order.length)).flatMap fun _ =>
    [({ e := { v := decodeElem af (topkPad af) }, raw := some (topkPad af) } : WOut),
     { e := { v := .ofInt (-1) }, raw := some 0xFFFFFFFF }]
  let outs := (order.flatMap fun (r, t) =>
    let v := maxNan strict t.v
    [({ e := { v := v }, raw := some (encodeElem af v) } : WOut), { e := { v := .ofInt r }, raw := some r }]) ++ pad
  match outs with
  | o :: os => { o with e := { o.e with fl := (orFl ts).or (sigFl strict ts) } } :: os
  | [] => []

/-- ARGMAX and ARGMIN: the smallest R of a NaN, else of the extreme (R284). -/
def argRow (isMax : Bool) (ts : List El) : Nat :=
  let step (best : Nat × Val) (x : Nat × El) : Nat × Val :=
    if best.2.isNan then best
    else if x.2.v.isNan then (x.1, x.2.v)
    else
      let c := Val.cmpZ x.2.v best.2
      if (if isMax then 0 < c else c < 0) then (x.1, x.2.v) else best
  match (List.range ts.length).zip ts with
  | [] => 0
  | x :: l => (l.foldl step (x.1, x.2.v)).1

/-- The outputs of one row, terms in ascending reduced index (R280-R292). -/
def winReduce (w : WinSlot) (strict : Bool) (from_ : Fmt) (els : List El) : List WOut :=
  let af := cfFmt w.af
  let n := els.length
  let ts := els.map (termEl from_ af strict)
  let fl := (orFl ts).or (sigFl strict ts)
  let extreme (isMax : Bool) : El :=
    let e := (reduceTerms (fun a b => { v := (minMaxVal isMax strict a.v b.v).1 }) ts).getD { v := .zero }
    { v := maxNan strict e.v, fl := fl }
  let arg (isMax : Bool) : List WOut :=
    let r := argRow isMax ts
    [{ e := { v := .ofInt r, fl := fl }, raw := some r }]
  match w.op with
  | 0 => [{ e := sumEls af strict ts }]
  | 1 => [{ e := divEl af strict n (sumEls af strict ts) }]
  | 2 => [{ e := extreme true }]
  | 3 => [{ e := extreme false }]
  | 4 => arg true
  | 5 => arg false
  | 6 => topkRow af strict (w.k + 1) ts
  | 7 => [{ e := sumEls .wx32 strict (els.map (softTerm from_ strict)) }]
  | 8 =>
    let m := divEl af strict n (sumEls af strict ts)
    let q := divEl af strict n (sumEls af strict (els.map (squareEl from_ af strict)))
    [{ e := m }, { e := varEl af strict q m }]
  | _ => [{ e := divEl af strict n (sumEls af strict (els.map (squareEl from_ af strict))) }]

/-- COND on two values (R293). -/
def condHolds (cond : Nat) (a b : Val) : Bool :=
  if a.isNan || b.isNan then cond == 1
  else
    let c := Val.cmp a b
    match cond with
    | 0 => decide (c = 0)
    | 1 => decide (c ≠ 0)
    | 2 => decide (c < 0)
    | 3 => decide (c ≤ 0)
    | 4 => decide (0 < c)
    | _ => decide (0 ≤ c)

/-- Exceptions of two operands under a COND (R296). -/
def condFl (strict : Bool) (cond : Nat) (a b : Val) : Fl :=
  { inv := strict && (a.isSnan || b.isSnan || ((a.isNan || b.isNan) && decide (2 ≤ cond))) }

/-- CMP, SELECT and the normalising form of SOFTMAX on one element; b is IN_B's element, or none when IMM stands for it
(R288, R293, R294). -/
def winElem (w : WinSlot) (strict : Bool) (fa fb : Fmt) (a : El) (b : Option El) : El :=
  let af := cfFmt w.af
  let x := roundEl af .rne strict (fa == af) a
  let imm := decodeElem af w.imm
  let y := match b with
    | some b => roundEl af .rne strict (fb == af) b
    | none => { v := imm }
  match w.op with
  | 10 =>
    let r := condHolds w.cond x.v y.v
    { v := if r then .one else .zero, fl := (x.fl.or y.fl).or (condFl strict w.cond x.v y.v) }
  | 11 =>
    let pick := if condHolds w.cond y.v .zero then x else { v := imm }
    { v := copyNan strict pick.v pick.v
      fl := ((x.fl.or y.fl).or (condFl strict w.cond y.v .zero)).or (condFl strict w.cond x.v imm) }
  | _ =>
    let over_ := !x.v.isNan && decide (0 < Val.cmp x.v xClamp)
    let c : El := if over_ then { v := xClamp, fl := x.fl.or (clampFl strict) } else x
    let (d, f) := subVal .wx32 (.near strict) c.v y.v
    let (p, g) := expVal .wx32 strict d
    { v := p, fl := ((c.fl.or y.fl).or f).or g }

/-- A WIN output's predicate value (R295): CMP gives its own result, another operation COND applied to it and IMM. -/
def predOf (w : WinSlot) (strict : Bool) (v : Val) : Bool × Fl :=
  if w.op = 10 then (!v.isZero, {})
  else
    let imm := decodeElem (cfFmt w.af) w.imm
    (condHolds w.cond v imm, condFl strict w.cond v imm)

end Sys2Proof
end

