-- ==== Sys2Proof/Machine/Program.lean ====
section
/-! DEFINITION. Stream programs (06, R152-R174): bundles, slot words, descriptors, iteration spaces and shares. -/

namespace Sys2Proof

/-- The bundle header (R155). -/
structure Hdr where
  slots : Nat
  psel : Nat
  psense : Bool
  pen : Bool
  ndesc : Nat
  kind : Nat
  split : Nat
  mode : Nat
  ctag : Nat
deriving DecidableEq, Repr

/-- Header fields of a 32-bit word. -/
def Hdr.ofNat (x : Nat) : Hdr :=
  { slots := bitsOf x 7 0, psel := bitsOf x 11 8, psense := bitsOf x 12 12 == 1, pen := bitsOf x 13 13 == 1
    ndesc := bitsOf x 16 14, kind := bitsOf x 19 17, split := bitsOf x 22 20, mode := bitsOf x 24 23, ctag := bitsOf x 31 25 }

/-- Present slots (R155). -/
def Hdr.has (h : Hdr) (slot : Nat) : Bool := h.slots.testBit slot

/-- Number of present slots. -/
def Hdr.nSlots (h : Hdr) : Nat := ((List.range 8).filter h.has).length

/-- Length of the bundle in bytes (R153). -/
def Hdr.len (h : Hdr) : Nat := 4 + 8 * h.nSlots + 32 * h.ndesc

/-- IN_A and IN_B slot word. -/
structure InSlot where
  src : Nat
  dsel : Nat
  sheaf : Nat
  sfmt : Nat
  wkind : Nat
  windex : Nat
  wvalue : Nat
  rsvd : Bool
deriving DecidableEq, Repr

def InSlot.ofNat (x : Nat) : InSlot :=
  { src := bitsOf x 2 0, dsel := bitsOf x 5 3, sheaf := bitsOf x 9 6, sfmt := bitsOf x 14 10, wkind := bitsOf x 17 16
    windex := bitsOf x 34 18, wvalue := bitsOf x 58 35, rsvd := bitsOf x 15 15 != 0 || bitsOf x 63 59 != 0 }

/-- ALU slot word. -/
structure AluSlot where
  op : Nat
  cf : Nat
  rnd : Nat
  bsrc : Bool
  swap : Bool
  seed : Nat
  imm : Nat
  rsvd : Bool
deriving DecidableEq, Repr

def AluSlot.ofNat (x : Nat) : AluSlot :=
  { op := bitsOf x 5 0, cf := bitsOf x 7 6, rnd := bitsOf x 9 8, bsrc := bitsOf x 10 10 == 1, swap := bitsOf x 11 11 == 1
    seed := bitsOf x 28 12, imm := bitsOf x 63 32, rsvd := bitsOf x 31 29 != 0 }

def FuncSlot.ofNat (x : Nat) : FuncSlot :=
  { fn := bitsOf x 3 0, tslot := bitsOf x 5 4, tidx := bitsOf x 10 6, pre := bitsOf x 12 11, imm := bitsOf x 63 32 }

def WinSlot.ofNat (x : Nat) : WinSlot :=
  { op := bitsOf x 4 0, rmask := bitsOf x 8 5, af := bitsOf x 10 9, k := bitsOf x 20 11, cond := bitsOf x 23 21
    pidx := bitsOf x 27 24, pset := bitsOf x 28 28 == 1, pcomb := bitsOf x 29 29 == 1, imm := bitsOf x 63 32 }

def ConvSlot.ofNat (x : Nat) : ConvSlot :=
  { rnd := bitsOf x 1 0, scale := bitsOf x 3 2, note := bitsOf x 6 4, seed := bitsOf x 23 7, imm := bitsOf x 63 32 }

/-- PERM slot word. -/
structure PermSlot where
  op : Nat
  idesc : Nat
  dimP : Nat
  dimQ : Nat
  pattern : Nat
  rsvd : Bool
deriving DecidableEq, Repr

def PermSlot.ofNat (x : Nat) : PermSlot :=
  { op := bitsOf x 3 0, idesc := bitsOf x 6 4, dimP := bitsOf x 8 7, dimQ := bitsOf x 10 9, pattern := bitsOf x 15 11
    rsvd := bitsOf x 63 16 != 0 }

/-- OUT slot word. -/
structure OutSlot where
  dst : Nat
  dsel : Nat
  sheaf : Nat
  sfmt : Nat
  pkind : Nat
  chain : Nat
  skind : Nat
  sindex : Nat
  svalue : Nat
  rsvd : Bool
deriving DecidableEq, Repr

def OutSlot.ofNat (x : Nat) : OutSlot :=
  { dst := bitsOf x 2 0, dsel := bitsOf x 5 3, sheaf := bitsOf x 9 6, sfmt := bitsOf x 14 10, pkind := bitsOf x 16 15
    chain := bitsOf x 19 17, skind := bitsOf x 21 20, sindex := bitsOf x 27 22, svalue := bitsOf x 51 28
    rsvd := bitsOf x 63 52 != 0 }

/-- A stream descriptor (R163); `size` applies FULL, `rsvd` holds a reserved bit or FULL beside a size. -/
structure Desc where
  addr : Nat
  fmt : Nat
  target : Nat
  scl : Nat
  bsz : Bool
  size : List Nat
  stride : List Int
  rsvd : Bool
  raw : Nat
deriving DecidableEq, Repr

def Desc.ofNat (x : Nat) : Desc :=
  let sz (k : Nat) := bitsOf x (83 + 48 * k) (64 + 48 * k)
  let full (k : Nat) := bitsOf x (108 + 48 * k) (108 + 48 * k) == 1
  { addr := bitsOf x 39 0, fmt := bitsOf x 44 40, target := bitsOf x 46 45, scl := bitsOf x 49 47, bsz := bitsOf x 50 50 == 1
    size := (List.range 4).map fun k => if full k then 2 ^ 20 else sz k
    stride := (List.range 4).map fun k => sext 24 (bitsOf x (107 + 48 * k) (84 + 48 * k))
    rsvd := bitsOf x 63 51 != 0 || (List.range 4).any (fun k => bitsOf x (111 + 48 * k) (109 + 48 * k) != 0 || (full k && sz k != 0))
    raw := x }

/-- A command of a program: index, byte offset, header, raw slot words, slots and descriptors (R154). -/
structure Cmd where
  idx : Nat
  off : Nat
  hdr : Hdr
  raw : List (Option Nat)
  inA : Option InSlot
  inB : Option InSlot
  alu : Option AluSlot
  func : Option FuncSlot
  conv : Option ConvSlot
  win : Option WinSlot
  perm : Option PermSlot
  out : Option OutSlot
  descs : List Desc
deriving DecidableEq, Repr

/-- Slot words in ascending bit order from the bytes after the header (R153). -/
def slotWords (h : Hdr) : Nat → Bytes → List (Option Nat)
  | 0, _ => []
  | n + 1, bs =>
    if h.has (7 - n) then some (leNat (bs.take 8)) :: slotWords h n (bs.drop 8) else none :: slotWords h n bs

/-- The command at the head of a string of bytes that holds the whole bundle. -/
def Cmd.ofBytes (idx off : Nat) (bs : Bytes) : Cmd :=
  let h := Hdr.ofNat (leNat (bs.take 4))
  let w := slotWords h 8 (bs.drop 4)
  let d := bs.drop (4 + 8 * h.nSlots)
  let get (i : Nat) : Option Nat := (w[i]?).join
  { idx := idx, off := off, hdr := h, raw := w, inA := (get 0).map InSlot.ofNat, inB := (get 1).map InSlot.ofNat
    alu := (get 2).map AluSlot.ofNat, func := (get 3).map FuncSlot.ofNat, conv := (get 4).map ConvSlot.ofNat
    win := (get 5).map WinSlot.ofNat, perm := (get 6).map PermSlot.ofNat, out := (get 7).map OutSlot.ofNat
    descs := (List.range h.ndesc).map fun i => Desc.ofNat (leNat ((d.drop (32 * i)).take 32)) }

/-- How reading an image ends (R152, R204). -/
inductive ImageEnd where
  | ok
  | badHeader (idx off : Nat)
  | trunc (idx off : Nat)
  | noEnd (n : Nat)
  | trailing (idx off : Nat)
deriving DecidableEq, Repr

/-- Reserved values of a header (R155, R156, R204 check 1). -/
def Hdr.reserved (h : Hdr) : Bool :=
  decide (h.ndesc = 7) || decide (4 ≤ h.kind) || decide (6 ≤ h.split) || decide (h.mode = 3)
    || (!h.pen && (h.psel != 0 || h.psense))

/-- The bundles of an image up to the first END; the first argument bounds their number. -/
def parseBundles (bs : Bytes) : Nat → Nat → Nat → List Cmd × ImageEnd
  | 0, idx, _ => ([], .noEnd idx)
  | n + 1, idx, off =>
    let rest := bs.drop off
    if rest.length < 4 then (if rest.isEmpty then ([], .noEnd idx) else ([], .trunc idx off))
    else
      let h := Hdr.ofNat (leNat (rest.take 4))
      if h.reserved then ([], .badHeader idx off)
      else if rest.length < h.len then ([], .trunc idx off)
      else
        let c := Cmd.ofBytes idx off rest
        if h.kind = 3 then ([c], if off + h.len < bs.length then .trailing (idx + 1) (off + h.len) else .ok)
        else
          let (cs, e) := parseBundles bs n (idx + 1) (off + h.len)
          (c :: cs, e)

/-- The commands of an image and how it ends. -/
def parseImage (bs : Bytes) : List Cmd × ImageEnd := parseBundles bs (bs.length / 4 + 1) 0 0

/-! ## Streams of a command -/

namespace Desc

/-- The element format. -/
def format (d : Desc) : Fmt := (Fmt.ofCode d.fmt).getD .fp32
/-- Bits per element. -/
def width (d : Desc) : Nat := d.format.bits
def sizeAt (d : Desc) (k : Nat) : Nat := d.size.getD k 1
def strideAt (d : Desc) (k : Nat) : Int := d.stride.getD k 0
/-- Bushel size (R163). -/
def bushel (d : Desc) : Nat := if d.bsz then 16 else 32
/-- Bit address of an element (R165). -/
def bitAddr (d : Desc) (i : List Nat) : Int :=
  (d.addr : Int) * 8 + ((i.zip d.stride).foldl (fun s x => s + (x.1 : Int) * x.2) 0) * d.width
/-- Ledger entry and START of a context descriptor (R344). -/
def entry (d : Desc) : Nat := bitsOf d.addr 16 0
def start (d : Desc) : Nat := bitsOf d.addr 39 17
/-- Number of elements. -/
def count (d : Desc) : Nat := d.size.foldl (· * ·) 1

end Desc

namespace Cmd

/-- Bundle length (R153). -/
def len (c : Cmd) : Nat := c.hdr.len
/-- A descriptor of the bundle. -/
def desc (c : Cmd) (i : Nat) : Option Desc := c.descs[i]?
def descOf (c : Cmd) (s : Option InSlot) : Option Desc := s.bind fun s => if s.src = 1 then c.desc s.dsel else none
/-- IN_A's, IN_B's and OUT's descriptors. -/
def descA (c : Cmd) : Option Desc := c.descOf c.inA
def descB (c : Cmd) : Option Desc := c.descOf c.inB
def descOut (c : Cmd) : Option Desc := c.out.bind fun o => if o.dst = 1 then c.desc o.dsel else none
/-- Is there a stream on IN_A, on IN_B (R160)? -/
def hasA (c : Cmd) : Bool := (c.inA.map fun s => s.src != 0).getD false
def hasB (c : Cmd) : Bool := (c.inB.map fun s => s.src != 0).getD false
/-- OUT's destination: 0 none, 1 descriptor, 2 sheaf, 3 prologue. -/
def dst (c : Cmd) : Nat := (c.out.map (·.dst)).getD 0
/-- The companion descriptor of a descriptor (R168). -/
def companion (c : Cmd) (d : Desc) : Option Desc := if d.scl = 0 then none else c.desc (d.scl - 1)
/-- The note descriptor (R233) and the index descriptor (R301). -/
def noteDesc (c : Cmd) : Option Desc := c.conv.bind fun v => if v.note = 0 then none else c.desc (v.note - 1)
def indexDesc (c : Cmd) : Option Desc := c.perm.bind fun v => if v.idesc = 0 then none else c.desc (v.idesc - 1)
/-- Is the command's kind COMPUTE? -/
def isCompute (c : Cmd) : Bool := c.hdr.kind == 0
/-- OUT targets a network channel, an append. -/
def isSend (c : Cmd) : Bool := (c.descOut.map fun d => d.target == 2).getD false
def isAppend (c : Cmd) : Bool := (c.descOut.map fun d => d.target == 1).getD false
def strict (c : Cmd) : Bool := c.hdr.mode == 1
/-- Elements of a sheaf operand (R170). -/
def sheafCount (sfmt : Nat) : Nat :=
  let w := ((Fmt.ofCode sfmt).getD .fp32).bits
  32768 / (if w = 6 then 8 else w)

end Cmd
end Sys2Proof
end

