-- ==== Sys2Proof/Machine/Params.lean ====
section
/-! DEFINITION. What each licensed configuration has (R5, R24, R58, R76 and the tables of 02), as functions of Cfg. -/

namespace Sys2Proof.Cfg

/-- Active vector cores per die (R5). -/
def nActive (c : Cfg) : Nat :=
  match c.part with
  | .zv4_128_48 => 128
  | .zv4_64_24 => 64
  | .zv4_32_12 => 32

/-- Spare cores per die (R5). -/
def nSpare (c : Cfg) : Nat :=
  match c.part with
  | .zv4_128_48 => 8
  | .zv4_64_24 => 3
  | .zv4_32_12 => 1

/-- Pens of 16 cores (R5). -/
def nPen (c : Cfg) : Nat := c.nActive / 16

/-- Sequencers, and isolation domains (R5, R130). -/
def nSeq (c : Cfg) : Nat :=
  match c.part with
  | .zv4_128_48 => 8
  | .zv4_64_24 => 4
  | .zv4_32_12 => 2

/-- Scratchpad slices (R5). -/
def nSlice (c : Cfg) : Nat :=
  match c.part with
  | .zv4_128_48 => 32
  | .zv4_64_24 => 16
  | .zv4_32_12 => 8

/-- Ports of classes P, B, K and O (R5). -/
def classPorts (c : Cfg) : Nat × Nat × Nat × Nat :=
  match c.part with
  | .zv4_128_48 => (8, 24, 12, 4)
  | .zv4_64_24 => (4, 12, 6, 2)
  | .zv4_32_12 => (2, 4, 4, 2)

/-- Link ports (R5). -/
def nPort (c : Cfg) : Nat :=
  match c.part with
  | .zv4_128_48 => 48
  | .zv4_64_24 => 24
  | .zv4_32_12 => 12

/-- Bypass outputs, one for each ring pair (R5). -/
def nPair (c : Cfg) : Nat :=
  match c.part with
  | .zv4_128_48 => 8
  | .zv4_64_24 => 4
  | .zv4_32_12 => 3

/-- Bytes of one sequencer's segment of a command memory bank (R24). -/
def segBytes (c : Cfg) : Nat := 262144 / c.nSeq

/-- Silo depth in KiB: 8, 16, 24 or 32 (R6). -/
def siloKib (c : Cfg) : Nat :=
  match c.silo with
  | .kib8 => 8
  | .kib16 => 16
  | .kib24 => 24
  | .kib32 => 32

/-- Silo depth in bytes (R6). -/
def siloBytes (c : Cfg) : Nat := c.siloKib * 1024

/-- Part number of IDCODE [27:12] (R76). -/
def partNumber (c : Cfg) : BitVec 16 :=
  match c.part with
  | .zv4_128_48 => 0xC448
  | .zv4_64_24 => 0xC424
  | .zv4_32_12 => 0xC412

/-- Strap value of the class of a port's position: 1 P, 2 B, 3 K, 4 O, 0 beyond the configuration (table "Port indices by
configuration", R69). -/
def portClass (c : Cfg) (p : Nat) : Nat :=
  let (np, nb, nk, no) := c.classPorts
  if p < np then 1
  else if p < np + nb then 2
  else if p < np + nb + nk then 3
  else if p < np + nb + nk + no then 4
  else 0

/-- The two ports of ring pair i (table "Bypass outputs and ring pairs"). K pairs come first, then O pairs. -/
def pairPorts (c : Cfg) (i : Nat) : Nat × Nat :=
  let (np, nb, _, _) := c.classPorts
  (np + nb + 2 * i, np + nb + 2 * i + 1)

/-- The ring pair of a port, if it is a K or O port. -/
def pairOf (c : Cfg) (p : Nat) : Option Nat :=
  let (np, nb, _, _) := c.classPorts
  if np + nb ≤ p ∧ p < c.nPort then some ((p - np - nb) / 2) else none

/-- The other port of a ring pair. -/
def ringPartner (c : Cfg) (p : Nat) : Option Nat :=
  (c.pairOf p).map fun i => let (a, b) := c.pairPorts i; if p = a then b else a

/-- Largest number of dies of a federated package (R5). -/
def maxDies (c : Cfg) : Nat :=
  match c.part with
  | .zv4_128_48 => 8
  | .zv4_64_24 => 4
  | .zv4_32_12 => 2

/-- Dies a federated package may have: 2 to 8, 2 to 4, or 2 (R5, R78). -/
def fedDiesOk (c : Cfg) (n : Nat) : Bool := decide (2 ≤ n ∧ n ≤ c.maxDies)

/-- Bytes per CK_V cycle of MC_PRO and MC_EPI: one lane of 64 bytes for each active core (R5, R312). -/
def mcBytes (c : Cfg) : Nat := 64 * c.nActive

end Sys2Proof.Cfg

namespace Sys2Proof

/-- PHY and channel budget of a class in CK_V cycles (R28); class O has none. -/
def classBudget : Nat → Nat
  | 1 => 24
  | 2 => 176
  | 3 => 256
  | _ => 0

/-- Block version 4.1.0, Yelup 3.0, Ronno 2: BLOCK_VERSION and READY RES1 (R124, R446). -/
def blockVersion : Word := 0x0000000230040100

end Sys2Proof
end

