-- ==== Sys2Proof/Machine/State.lean ====
section
/-! DEFINITION. The state of one ZV4 die as plain data: every register, memory, queue, mode and port that the spec names
(INVENTORY.md, ## State, lists each with its rule), and the queue of waiting commands. -/

namespace Sys2Proof.Machine

/-- Reasons to stop a run. No rule of the spec stops the machine (a halt is a power state, R93), so there is none. -/
inductive Fault where
deriving DecidableEq, Repr

/-- Commands without a meaning. -/
inductive Refusal where
  /-- The row has no meaning yet. Raised by Dispatch only. Safe. -/
  | notModelled (mnemonic : String)
  /-- DBG_ACCESS while the debug state is OPEN: the spec does not describe the debug bus or the module behind it (R75). Safe. -/
  | debugBusNotDescribed
deriving DecidableEq, Repr

/-- A four-word record: STATUS_REC, HALT_REC, EPI_STATUS, COLL_STATUS, FW_FATAL_REC (R445). -/
structure W4 where
  w0 : Word
  w1 : Word
  w2 : Word
  w3 : Word
deriving DecidableEq, Repr

/-- A cleared record. -/
def W4.zero : W4 := ⟨0, 0, 0, 0⟩

/-- Power states (R93). -/
inductive Power where
  | off
  | standby
  | starting
  | failed
  | running
  | maintenance
  | halted
deriving DecidableEq, Repr

/-- Debug states (R91, R150). -/
inductive Debug where
  | closed
  | erasePending
  | opened
deriving DecidableEq, Repr

/-- RESET_CAUSE [2:0] (R99). -/
inductive Cause where
  | powerOn
  | coldPin
  | coldSupply
  | warm
deriving DecidableEq, Repr

/-- The always-on island (R91). `firstAt` is the local time of the first fatal alarm (R431). -/
structure Aon where
  power : Power
  debug : Debug
  secLock : Bool
  fatal : BitVec 32
  fatalCount : List (BitVec 16)
  firstFatal : BitVec 8
  firstAt : Option Nat
  resetCause : Cause
  resetReason : BitVec 8
  bypass : List Bool
  alarmPulled : Bool
  boundaryHalt : BitVec 32
deriving DecidableEq, Repr

/-- Divided clocks and rack time (R82, R88, R89, R359, R367). -/
structure Clk where
  dividers : Bool
  rackTime : Nat
  rackSynced : Bool
  localTime : Nat
  anchor : Nat
  regReady : Bool
deriving DecidableEq, Repr

/-- Start-up state, straps and the key store's device keys (R99, R101, R140, R141). `since` is the local time at which the running phase or
the running fuse request began (R73, R101), `fetchCore` the core through which the image is fetched (R103). -/
structure Boot where
  straps : Straps
  phase : BitVec 8
  reason : BitVec 8
  attempts : Nat
  fenced : Nat
  debugOpened : Bool
  imageAddr : Word
  imageLen : Word
  ready : Bool
  since : Nat
  fetchCore : Nat
  fuseIndex : Nat
  secReq : Bool
  hasKeys : Bool
  drk : BitVec 256
  fak : BitVec 256
  dik : BitVec 256
  dwk : BitVec 256
  serial : BitVec 128
  secVersion : Nat
  keysProgrammed : Bool
  erased : Bool
deriving DecidableEq, Repr

/-- One requester's coherent-read shadow (R445). -/
structure Shadow where
  tag : Option Nat
  words : W4
deriving DecidableEq, Repr

/-- The register port's response outputs and shadows (R51-R55, R445). -/
structure RegPort where
  valid : Bool
  code : BitVec 3
  data : Word
  shadows : List Shadow
deriving DecidableEq, Repr

/-- The expert windows' own registers and the unlocks (R126, R338, R382, R420, R440, R453-R455). `unlocked` lists capability IDs. -/
structure Windows where
  unlocked : List Nat
  cmdSel : Word
  tblSel : Word
  srSeed : Word
  srLLo : Word
  srLHi : Word
  srStage : Word
  ledgerSel : Word
  circSel : Word
  routeSel : Word
  seqErr : Word
  feErr : Word
  vaErr : Word
  linkErr : Word
  collErr : Word
  granErr : Word
  ceLimit : Word
deriving DecidableEq, Repr

/-- One mailbox: its registers and its 8 KiB window (R110-R115). `reserved` counts completion slots kept for EPOCH_END. -/
structure Mailbox where
  owner : BitVec 4
  entries : Nat
  reqTail : BitVec 16
  reqHead : BitVec 16
  cplTail : BitVec 16
  cplHead : BitVec 16
  overrun : Bool
  resetBusy : Bool
  irqEn : Bool
  reserved : Nat
  mem : Mem
deriving DecidableEq, Repr

/-- A request as Kolate copies it (R112, R117). -/
structure Req where
  mbox : Nat
  tag : BitVec 16
  opcode : BitVec 8
  rsvd : Bool
  args : List Word
deriving DecidableEq, Repr

/-- How a sequencer's part of an epoch request ended (R124): stop value of R212 and DETAIL. -/
structure EpochPart where
  seq : Nat
  done : Bool
  aborted : Bool
  detail : BitVec 32
  time : Nat
deriving DecidableEq, Repr

/-- An EPOCH_RUN or RUN_PREFIX that still owes its EPOCH_END (R114, R124). `mute` when the mailbox was reset (R115). -/
structure EpochReq where
  mbox : Nat
  tag : BitVec 16
  start : Nat
  epoch : BitVec 8
  released : Bool
  mute : Bool
  parts : List EpochPart
deriving DecidableEq, Repr

/-- A PART_SET whose adoption, drains, scrubs or rollback are outstanding (R136, R137); `since` is the RACK_TIME of the recording. -/
structure Cleaning where
  dom : Nat
  since : Nat
  req : Req
  oldWords : List Word
  adopted : Bool
  awaitEpoch : Bool
  awaitDrain : Bool
  scrubSp : Bool
deriving DecidableEq, Repr

/-- The control core and Kolate's own records (R110-R129, R452). `held` is the request Kolate executes but has not completed;
`waiting` are the requests whose RELEASE entries stand in a run queue, each of which holds its own mailbox (notes/assumptions/13). -/
structure Kolate where
  running : Bool
  stalled : Bool
  stalls : Nat
  held : Option Req
  waiting : List Req
  cleaning : Option Cleaning
  epochs : List EpochReq
  turn : Nat
  fwHalted : Bool
  fatalRec : W4
  version : BitVec 32
  imem : Bytes
  dmem : Mem
  globals : List Word
  windows : List (List Word)
  cwp : Nat
  live : Nat
  spill : List (List Word)
  inTrap : Bool
  fwPc : Word
  trapCause : Word
  wdogSince : Nat
deriving DecidableEq, Repr

/-- One isolation domain: its recorded partition record, adoption and session key (R132, R136, R142, R449). `liveNow` and `wordsNow` are
the record that the sequencer has adopted, under which ports, cells and cores act until the next adoption (R136). -/
structure Domain where
  live : Bool
  words : List Word
  liveNow : Bool
  wordsNow : List Word
  pending : Bool
  hasKey : Bool
  key : BitVec 256
deriving DecidableEq, Repr

/-- States of a load bank (R188). -/
inductive LoadState where
  | empty
  | loading
  | armed
deriving DecidableEq, Repr

/-- An open load session: the image length; `present` holds a 1 for each byte of the load bank's segment that has been written (R120). -/
structure Session where
  len : Nat
  present : Mem
deriving DecidableEq, Repr

/-- Entries of a sequencer's run queue (R187). -/
inductive RunEntry where
  | release (start : Nat) (epoch : BitVec 8) (stopAt : Option Nat) (snap : Nat) (mbox : Nat) (tag : BitVec 16)
  | adopt
  | brk (tagBreak : Bool) (value : Nat) (snap : Nat)
  | abort
deriving DecidableEq, Repr

/-- A break placed for the next release (R213). -/
structure Break where
  tagBreak : Bool
  value : Nat
  snap : Nat
deriving DecidableEq, Repr

/-- Timing state of one position in the cycle model (R199): cycles are relative to the epoch's release. `wd1` and `wd2` are the last
two chunks' write completions, `cmdW` the latest of the last command with a share, `lastF` its fixed silo need; `holds` lists
written line ranges with their ready cycles (R307), `wr` the half-open ranges of cycles in which SP_WR grants are used (R395). -/
structure PosT where
  twNext : Nat
  cendPrev : Nat
  wd1 : Nat
  wd2 : Nat
  lastF : Option Nat
  cmdW : Nat
  holds : List (Nat × Nat × Nat)
  wr : List (Nat × Nat)
deriving DecidableEq, Repr

/-- A generation of the coupler as the cycle model follows it (R321): its number within the epoch, its chain, the release of the
command that opens it, its first prologue beat and its last so far. -/
structure GenT where
  n : Nat
  chain : Nat
  opened : Nat
  beat0 : Nat
  s : Nat
deriving DecidableEq, Repr

/-- A signal as the cycle model places it (R180, R201): completion cycle, kind, index and value. -/
structure SigT where
  cycle : Nat
  kind : Nat
  index : Nat
  value : Nat
deriving DecidableEq, Repr

/-- The cycle model's state between two commands (R199, R201, R273, R319, R321): `next` is the earliest next release, `slots` the
table index and load start of each core slot, `slotEnd` the latest compute end that used it, `xfers` the transfers sent per
channel entry, `predW` the latest completion that writes each predicate, `swapped` the release of the latest SWAP, which zeroed the tallies
(R192). -/
structure Timing where
  pos : List PosT
  next : Nat
  doneMax : Nat
  sigs : List SigT
  slots : List (Option (Nat × Nat))
  slotEnd : List Nat
  lastBeat : Option Nat
  gens : List GenT
  xfers : List (Nat × Nat)
  predW : List (Nat × Nat)
  swapped : Option Nat
deriving DecidableEq, Repr

/-- A line read that is on its way: its command, position, channel, line and arrival stamp as RACK_TIME (R207). -/
structure Stamp where
  idx : Nat
  off : Nat
  pos : Nat
  chan : RdChan
  line : Nat
  cycle : Nat
deriving DecidableEq, Repr

/-- A released command until it completes (R191, R202): its cycles relative to the epoch's release, and what takes effect when it completes.
`appends` holds each entry's stored rows, `retiers` the new least HEAD of each re-tiered entry (R346, R347); `diffed` says that a shadow
mismatch of the command has been reported (R429). -/
structure InFlight where
  idx : Nat
  off : Nat
  release : Nat
  done : Nat
  kind : Nat
  skipped : Bool
  sig : Nat × Nat × Nat
  pred : Option (Nat × Bool)
  status : Option W4
  appends : List (Nat × Nat)
  retiers : List (Nat × Nat)
  diffed : Bool
deriving DecidableEq, Repr

/-- A running epoch on one sequencer (R201, R212): `nextIdx` is the index of the next bundle of the running program, `released` and
`completed` count the epoch's commands, `ended` says that END has been released, `gens` lists the coupler generations that the epoch has
opened, `tally0` the ledger tallies at the release, `lastDone` the RACK_TIME of the latest completion. `haltSnap` is the snapshot as it stood
when a halt ended a prefix. `words` is the partition record as the sequencer had adopted it at the release (R130, R184), `bumps` the latest
changes of ledger tallies with their RACK_TIME (R178), `undo` the bytes that arrivals have overwritten (R410). -/
structure Run where
  start : Nat
  epoch : BitVec 8
  mbox : Nat
  tag : BitVec 16
  stopAt : Option Nat
  snap : Nat
  brk : Option Break
  nextIdx : Nat
  released : Nat
  completed : Nat
  ended : Bool
  timing : Timing
  flight : List InFlight
  stamps : List Stamp
  gens : List (BitVec 4)
  tally0 : List (Nat × Nat)
  lastDone : Nat
  haltSnap : Option (List Word)
  words : List Word
  bumps : List (Nat × Nat × Nat)
  undo : List Host.Cell
deriving DecidableEq, Repr

/-- A run that has done nothing yet. -/
def Run.initial : Run :=
  { start := 0, epoch := 0, mbox := 0, tag := 0, stopAt := none, snap := 0, brk := none, nextIdx := 0, released := 0, completed := 0
    ended := false, timing := ⟨[], 0, 0, [], [], [], none, [], [], [], none⟩, flight := [], stamps := [], gens := [], tally0 := [], lastDone := 0
    haltSnap := none, words := [], bumps := [], undo := [] }

/-- One sequencer (R184-R214, R450). `imgLen` gives, for each bank, the length of the accepted program (0 for none), `armedAt` the RACK_TIME
at which the load bank was armed (R192). On a slave die `fed` holds the bundles of the running program as they have come (R35, R186). -/
structure Sequencer where
  activeBank : Nat
  load : LoadState
  session : Option Session
  imgLen : List Nat
  runq : List RunEntry
  flags : BitVec 64
  tallies : List (BitVec 24)
  preds : BitVec 16
  status : W4
  halt : W4
  lost : Nat
  lastReleased : BitVec 16
  epochNo : BitVec 8
  stopped : Bool
  brk : Option Break
  slots : List (Option Nat)
  run : Option Run
  fed : Bytes
  armedAt : Nat
deriving DecidableEq, Repr

/-- States of a physical core (R424). -/
inductive CoreState where
  | free
  | serving
  | shadowing
  | fenced
deriving DecidableEq, Repr

/-- One physical core: state, whether self-test fenced it, corrected errors (R424, R427, R439). -/
structure PhysCore where
  state : CoreState
  byBist : Bool
  corrected : BitVec 16
deriving DecidableEq, Repr

/-- A line that a position's silo holds until its command completes: the sequencer, the position, the command, the line and its bytes (R1,
R59, R197). -/
structure SiloLine where
  seq : Nat
  pos : Nat
  idx : Nat
  line : Nat
  data : Bytes
deriving DecidableEq, Repr

/-- The vector core array: physical cores, the position map, the sheaves and the silos (R1, R170, R424, R440). `sheaves` holds position g's
sheaf k at 65536 g + 4096 k. -/
structure Cores where
  phys : List PhysCore
  serve : List Nat
  shadow : List (Option Nat)
  sheaves : Mem
  silos : List SiloLine
deriving DecidableEq, Repr

/-- An open generation at run time (R65, R320, R326, R329): its number, its chain, the RACK_TIME of its first stationary beat, the beats
that have come, the processing end of the latest (`fin`), and the RACK_TIME of its closing beat. `landed` also marks a generation whose
data an abort has discarded. -/
structure Gen where
  num : BitVec 4
  seq : Nat
  chain : Nat
  opened : Nat
  drained : Bool
  closed : Option Nat
  beats : Nat
  fin : Nat
  data : List Bytes
  landed : Bool
deriving DecidableEq, Repr

/-- A beat presented on MC_PRO (R312, R319). -/
structure ProBeat where
  cycle : Nat
  kind : BitVec 2
  fmt : BitVec 5
  gen : BitVec 4
  data : Bytes
deriving DecidableEq, Repr

/-- The matrix coupler (R311-R330). `ends` holds the processing ends of buffered beats, from which MC_HOLD follows (R326); `beats` lists what is
presented on MC_PRO, each beat in its cycle. -/
structure Coupler where
  owner : BitVec 4
  chains : Mem
  lastOpened : BitVec 4
  gens : List Gen
  abortWait : Bool
  epiStatus : List W4
  ends : List (Nat × Nat)
  beats : List ProBeat
deriving DecidableEq, Repr

/-- Port states of PORT_STATUS (R381). -/
inductive PortState where
  | absent
  | down
  | training
  | maintOnly
  | up
  | bypass
deriving DecidableEq, Repr

/-- A partner's TRAIN_ID payload (R365). -/
structure PartnerId where
  serial : BitVec 128
  logical : BitVec 16
  port : BitVec 8
  cls : BitVec 8
  major : BitVec 8
  minor : BitVec 8
  patch : BitVec 8
  yelup : BitVec 8
  ronno : BitVec 8
  kolate : BitVec 32
  part : BitVec 16
  silo : BitVec 8
  fed : BitVec 8
  ack : Bool
  noSched : Bool
deriving DecidableEq, Repr

/-- A class O cell in the queue of R395: its epoch, its circuit, its entry, the RACK_TIME from which it waits for its next grant, and the
lines that it has still to write, each with its bytes. -/
structure Waiting where
  epoch : BitVec 8
  circuit : Nat
  entry : Nat
  since : Nat
  lines : List (Nat × List Host.Cell)
deriving DecidableEq, Repr

/-- One link port: PORT_STATUS, PORT_CTL, PHY sideband outputs, training, calibration, maintenance and protection state
(R363-R382). `rdyAt`: the local time at which PHY_RDY was seen at 1 (R86); `unchecked`: the port waits for a wiring check; `wSeen`: a wait
has been recorded since the last synchronisation; `txCtr`, `rxCtr`: the group counters of each domain's key (R145); `elastic`: the cells in a
class O port's elastic buffer, oldest first, and `elasticAt` the local slot up to which it has delivered (R375); `padDue`: the grid has been anchored anew, and the partner's phase is awaited (R369). -/
structure Port where
  state : PortState
  step : Nat
  reason : BitVec 8
  los : Bool
  drift : Bool
  neighPort : BitVec 6
  neighLogical : BitVec 16
  lIn : Nat
  lOut : Nat
  pad : Nat
  wMin : Nat
  wMax : Nat
  frameOff : Nat
  corrCells : BitVec 32
  corrSymbols : BitVec 32
  poisoned : BitVec 16
  missing : BitVec 16
  replays : BitVec 16
  tenantMismatch : BitVec 16
  ctl : Word
  phyEn : Bool
  phyLpbk : Bool
  phyRdy : Bool
  rdyAt : Nat
  alignRun : Nat
  alignLast : Option Nat
  idleRun : Nat
  partner : Option PartnerId
  partnerAcked : Bool
  lastTRx : Option (Nat × Nat)
  calibL : Nat
  calibLOut : Nat
  calibRun : Nat
  clockOffset : Int
  partnerPhi : Nat
  failReason : BitVec 8
  trainedAt : Nat
  lastTry : Nat
  mtxSeq : BitVec 16
  unacked : List (BitVec 16 × Bytes)
  mrxSeq : BitVec 16
  ackDue : Bool
  txCtr : List (BitVec 64)
  rxCtr : List (BitVec 64)
  elastic : List RxCell
  elasticAt : Nat
  padDue : Bool
  queue : List Waiting
  unchecked : Bool
  wSeen : Bool
  exchange : BitVec 16
deriving DecidableEq, Repr

/-- A cell header (R354). -/
structure CellHdr where
  dst : BitVec 16
  src : BitVec 16
  channel : BitVec 17
  tenant : BitVec 3
  seq : BitVec 16
  epoch : BitVec 8
  type : BitVec 5
  efmt : BitVec 4
  count : BitVec 11
deriving DecidableEq, Repr

/-- A cell handed to a port: its logical slot, or none for the next free slot of its class of traffic (R359, R392). -/
structure TxCell where
  port : Nat
  slot : Option Nat
  hdr : CellHdr
  payload : Bytes
deriving DecidableEq, Repr

/-- One staged part of a job (R385): words staged so far, blocks staged, complete after LAST. -/
structure Staged where
  words : List Word
  next : Nat
  last : Bool
deriving DecidableEq, Repr

/-- An installed job (R383): ROUTES words, CIRCUITS words and SEEDS words. -/
structure Job where
  routes : List Word
  circuits : List Word
  seeds : List Word
deriving DecidableEq, Repr

/-- Epoch states (R402). -/
inductive EpochState where
  | idle
  | running
  | voting
  | committing
  | aborting
  | rolled
deriving DecidableEq, Repr

/-- A cell that gives terms to a reduction (R396, R397): the term's place in the order, the data cell's number within its transfer, its
COUNT, its element format and its payload. -/
structure Term where
  src : Nat
  cell : Nat
  count : Nat
  efmt : Nat
  data : Bytes
deriving DecidableEq, Repr

/-- What takes effect in a cycle of its own while an epoch runs: a line that SP_WR accepts (R60, R199; `arrival` when the home core writes a
cell, R394), a count in an entry's tally (R181, R394), a cell that a command's cores hand to a circuit at its send point or the barrier of a
transfer without elements (R359, R394), a local term (R397), an SRAM error that an access meets (R421), a difference that the shadow
comparison finds (R428), and a row or line outside the domain's windows (R135, R303). -/
inductive Act where
  | store (pos line : Nat) (cells : List Host.Cell) (arrival : Bool)
  | count (entry : Nat)
  | cell (circuit transfer n efmt count : Nat) (payload : Bytes)
  | term (circuit transfer : Nat) (term : Term)
  | barrier (circuit transfer : Nat)
  | hit (idx off : Nat) (hit : SramHit)
  | differ (idx : Nat) (diff : ShadowDiff)
  | outside (idx off pos stream line : Nat)
deriving DecidableEq, Repr

/-- An effect with its RACK_TIME and its sequencer. -/
structure Dated where
  cycle : Nat
  seq : Nat
  act : Act
deriving DecidableEq, Repr

/-- A transfer that a REDUCE circuit is forming: the circuit's index, the transfer, and the cells that have come. -/
structure Partial where
  circuit : Nat
  transfer : Nat
  terms : List Term
deriving DecidableEq, Repr

/-- An open tag group (R144-R146): its port and circuit, its group counter, headers and ciphertext so far, cells in it. -/
structure TagGroup where
  port : Nat
  circuit : Nat
  ctr : BitVec 64
  headers : Bytes
  cipher : Bytes
  cells : Nat
deriving DecidableEq, Repr

/-- A domain's collective state (R383-R412). -/
structure DomColl where
  jobId : BitVec 16
  wiring : Staged
  routes : Staged
  circuits : Staged
  seeds : Staged
  pendingJob : Option Job
  activeJob : Option Job
  state : EpochState
  epoch : BitVec 8
  lastCommit : BitVec 8
  commitValid : Bool
  reason : BitVec 8
  remote : Bool
  origin : BitVec 16
  fingerprint : Word
  status : W4
  endTime : Nat
  abortTime : Nat
  commitTime : Nat
  abortSent : Bool
  childVotes : List (Nat × Nat × Option Nat)
  myVoteSent : Bool
  rolledFrom : List (BitVec 16)
  groups : List TagGroup
  outGroups : List TagGroup
  reduce : List Partial
  cellIdx : List (Nat × Nat)
  counterWait : List Nat
  counterGot : List Nat
deriving DecidableEq, Repr

/-- The collective engine and rack synchronisation (R383-R420). `syncNum` is the last synchronisation that the chip accepted, `syncSeen` the
last that it has seen, late ones included (R413, R414). -/
structure Coll where
  logicalId : BitVec 16
  timeMaster : Bool
  syncNum : BitVec 16
  syncSeen : BitVec 16
  syncLate : BitVec 32
  syncTarget : Option Nat
  wiring : List Word
  unrouted : BitVec 32
  hopDropped : BitVec 32
  doms : List DomColl
  tx : List TxCell
deriving DecidableEq, Repr

/-- The gleaner and the warning alarms (R431, R435-R439). Events and traces are kept newest first. `pend` holds the pending events of
the sources, `acc` the CK_T cycle and the number of events accepted in it (R436), `portAt` the last write of the trace buffer: its
cycle and sequencer (R437), `busy` the local time from which captures and the event ring leave the write port free (R435), `found` a cycle and the uncorrectable words found in it (R423), `patrolAt` the local time at which each
memory's patrol last read (R422). -/
structure Gleaner where
  warn : BitVec 32
  warnCount : List (BitVec 16)
  irqEn : Word
  events : List W4
  evtHead : BitVec 32
  evtTail : BitVec 32
  ringDrops : BitVec 32
  sourceDrops : BitVec 32
  traceCtl : Word
  trace : List (Word × Word)
  traceTail : BitVec 32
  traceShed : BitVec 32
  snap : List Word
  snapValid : Bool
  snapMissed : BitVec 16
  thermLimits : Word
  thermHot : BitVec 8
  thermSensor : BitVec 4
  thermAbove : BitVec 16
  ue : BitVec 32
  die : Word
  ceCount : List (Nat × Nat)
  patrolAddr : List (Nat × Nat)
  pend : List W4
  acc : Nat × Nat
  portAt : Option (Nat × Nat)
  busy : Nat
  found : Nat × List SramLoc
  patrolAt : List (Nat × Nat)
deriving DecidableEq, Repr

/-- The test access port (R75, R76): instruction register, the bits that the last scan of a data register shifts out on TDO, first bit
first, the boundary register's latches, and whether EXTEST drives the outputs from them. -/
structure Tap where
  ir : BitVec 8
  dr : List Bool
  boundary : List Bool
  driving : Bool
deriving DecidableEq, Repr

/-- What the master sends to another die over the federation path: an access to a register of its windows (`entry` is the one that LEDGER_SEL
selects), the copy of a TABLE_LOAD, or that of a LEDGER_SET's entry (R33, R270, R313, R331). -/
inductive FedMsg where
  | read (addr entry : Nat)
  | write (addr entry : Nat) (data : Word)
  | table (index : Nat) (data : Bytes)
  | ledger (entry : Nat) (words : List Word)
deriving DecidableEq, Repr

/-- The whole state of one die, and the queue of waiting commands. `agenda` lists in order of time what takes effect in later cycles; `fedIn`
holds the cells of bundles that have not come whole, by sequencer (R186), and `fedOut` what has been sent to other dies, by die, newest first. -/
structure State where
  cfg : Cfg
  aon : Aon
  clk : Clk
  boot : Boot
  rp : RegPort
  win : Windows
  mbx : List Mailbox
  kol : Kolate
  parts : List Domain
  keyHigh : List Nat
  cmdMem : Mem
  seqs : List Sequencer
  cores : Cores
  tables : Mem
  ledger : Mem
  ckpt : List (Nat × Nat × Nat)
  sp : Mem
  coup : Coupler
  ports : List Port
  pairHeld : List Bool
  coll : Coll
  fedIn : List (Nat × Bytes)
  fedOut : List (Nat × FedMsg)
  agenda : List Dated
  gln : Gleaner
  tap : Tap
  free : Nat
  pending : List Instr
deriving DecidableEq, Repr

/-! ## Reset values -/

/-- Straps before the first sampling: unfederated, and no port fitted, so that PORT_STATUS reads its reset value (R381;
notes/assumptions/7). -/
def Straps.initial : Straps :=
  { cls := List.replicate 48 0
    fedMaster := true, dieId := 0, fedDies := 0, tapMfr := 0 }

/-- The always-on island after AON_PG rises (R92). -/
def Aon.initial (c : Cfg) : Aon :=
  { power := .standby, debug := .closed, secLock := false, fatal := 0, fatalCount := List.replicate 32 0, firstFatal := 0, firstAt := none
    resetCause := .powerOn, resetReason := 0, bypass := List.replicate c.nPair true, alarmPulled := false
    boundaryHalt := 0 }

/-- Clocks held in reset (R96). -/
def Clk.initial : Clk :=
  { dividers := false, rackTime := 0, rackSynced := false, localTime := 0, anchor := 0, regReady := false }

/-- Start-up state in cold reset (R96, R99). -/
def Boot.initial : Boot :=
  { straps := Straps.initial, phase := 0, reason := 0, attempts := 0, fenced := 0, debugOpened := false, imageAddr := 0
    imageLen := 0, ready := false, since := 0, fetchCore := 0, fuseIndex := 0, secReq := false, hasKeys := false, drk := 0, fak := 0
    dik := 0, dwk := 0, serial := 0, secVersion := 0, keysProgrammed := false, erased := false }

/-- Register port in reset (R79, R445). -/
def RegPort.initial : RegPort :=
  { valid := false, code := 0, data := 0, shadows := List.replicate 16 ⟨none, W4.zero⟩ }

/-- Expert windows in reset: all locked (R96), registers at their reset values. -/
def Windows.initial : Windows :=
  { unlocked := [], cmdSel := 0, tblSel := 0, srSeed := 0, srLLo := 0, srLHi := 0, srStage := 0, ledgerSel := 0
    circSel := 0, routeSel := 0, seqErr := 0, feErr := 0, vaErr := 0, linkErr := 0, collErr := 0, granErr := 0
    ceLimit := 0x10 }

/-- A mailbox in reset (R111): 0 and 1 are the warden's, the others unassigned. -/
def Mailbox.initial (m : Nat) : Mailbox :=
  { owner := if m < 2 then 8 else 0xF, entries := 16, reqTail := 0, reqHead := 0, cplTail := 0, cplHead := 0
    overrun := false, resetBusy := false, irqEn := false, reserved := 0, mem := [] }

/-- The control core in reset (R96, R452; notes/assumptions/8 for its register file). -/
def Kolate.initial : Kolate :=
  { running := false, stalled := false, stalls := 0, held := none, waiting := [], cleaning := none, epochs := [], turn := 0
    fwHalted := false, fatalRec := W4.zero, version := 0, imem := [], dmem := [], globals := List.replicate 16 0
    windows := List.replicate 8 (List.replicate 16 0), cwp := 0, live := 1, spill := [], inTrap := false, fwPc := 0
    trapCause := 0, wdogSince := 0 }

/-- A domain that is not live (R130, R449). -/
def Domain.initial : Domain :=
  { live := false, words := List.replicate 16 0, liveNow := false, wordsNow := List.replicate 16 0, pending := false, hasKey := false, key := 0 }

/-- A sequencer in reset (R450). -/
def Sequencer.initial : Sequencer :=
  { activeBank := 0, load := .empty, session := none, imgLen := [0, 0], runq := [], flags := 0
    tallies := List.replicate 32 0, preds := 0, status := W4.zero, halt := W4.zero, lost := 0, lastReleased := 0xFFFF
    epochNo := 0, stopped := false, brk := none, slots := [none, none, none, none], run := none, fed := [], armedAt := 0 }

/-- Cores before self-test: actives serve their own positions, spares are free (R424). -/
def Cores.initial (c : Cfg) : Cores :=
  { phys := List.replicate c.nActive ⟨.serving, false, 0⟩ ++ List.replicate c.nSpare ⟨.free, false, 0⟩
    serve := List.range c.nActive, shadow := List.replicate c.nActive none, sheaves := [], silos := [] }

/-- The coupler in reset (R320, R330). -/
def Coupler.initial (c : Cfg) : Coupler :=
  { owner := 0xF, chains := [], lastOpened := 0, gens := [], abortWait := false
    epiStatus := List.replicate c.nSeq W4.zero, ends := [], beats := [] }

/-- A port in reset (R381, R382). -/
def Port.initial : Port :=
  { state := .absent, step := 0, reason := 0, los := false, drift := false, neighPort := 0, neighLogical := 0, lIn := 0
    lOut := 0, pad := 0, wMin := 0, wMax := 0, frameOff := 0, corrCells := 0, corrSymbols := 0, poisoned := 0
    missing := 0, replays := 0, tenantMismatch := 0, ctl := 1, phyEn := false, phyLpbk := false, phyRdy := false, rdyAt := 0
    alignRun := 0, alignLast := none, idleRun := 0, partner := none, partnerAcked := false, lastTRx := none, calibL := 0
    calibLOut := 0, calibRun := 0, clockOffset := 0, partnerPhi := 0, failReason := 0, trainedAt := 0, lastTry := 0
    mtxSeq := 0, unacked := [], mrxSeq := 0, ackDue := false, txCtr := List.replicate 8 0, rxCtr := List.replicate 8 0, elastic := []
    elasticAt := 0, padDue := false, queue := [], unchecked := false, wSeen := false, exchange := 0 }

/-- Nothing staged. -/
def Staged.none : Staged := ⟨[], 0, false⟩

/-- A domain's collective state in reset (R402, R419). -/
def DomColl.initial : DomColl :=
  { jobId := 0, wiring := Staged.none, routes := Staged.none, circuits := Staged.none, seeds := Staged.none
    pendingJob := Option.none, activeJob := Option.none, state := .idle, epoch := 0, lastCommit := 0, commitValid := false
    reason := 0, remote := false, origin := 0, fingerprint := 0, status := W4.zero, endTime := 0, abortTime := 0
    commitTime := 0, abortSent := false, childVotes := [], myVoteSent := false, rolledFrom := [], groups := []
    outGroups := [], reduce := [], cellIdx := [], counterWait := [], counterGot := [] }

/-- Collectives in reset (R419). -/
def Coll.initial (c : Cfg) : Coll :=
  { logicalId := 0xFFFF, timeMaster := false, syncNum := 0, syncSeen := 0, syncLate := 0, syncTarget := none, wiring := []
    unrouted := 0, hopDropped := 0, doms := List.replicate c.nSeq DomColl.initial, tx := [] }

/-- The gleaner in reset (R439). -/
def Gleaner.initial : Gleaner :=
  { warn := 0, warnCount := List.replicate 32 0, irqEn := 0, events := [], evtHead := 0, evtTail := 0, ringDrops := 0
    sourceDrops := 0, traceCtl := 0, trace := [], traceTail := 0, traceShed := 0, snap := List.replicate 512 0
    snapValid := false, snapMissed := 0, thermLimits := 0x7364, thermHot := 0, thermSensor := 0, thermAbove := 0
    ue := 0, die := 0, ceCount := [], patrolAddr := [], pend := [], acc := (0, 0), portAt := none, busy := 0, found := (0, [])
    patrolAt := [] }

/-- The test access port after power-on: IDCODE selected (R75, R96). -/
def Tap.initial : Tap := { ir := 0x02, dr := [], boundary := [], driving := false }

/-- The state of a configuration after power-on reset: AON_PG has risen, cold reset is asserted (R92, R94, R96). -/
def State.initial (c : Cfg) : State :=
  { cfg := c, aon := Aon.initial c, clk := Clk.initial, boot := Boot.initial, rp := RegPort.initial
    win := Windows.initial, mbx := (List.range 16).map Mailbox.initial, kol := Kolate.initial
    parts := List.replicate c.nSeq Domain.initial, keyHigh := List.replicate 8 0, cmdMem := []
    seqs := List.replicate c.nSeq Sequencer.initial, cores := Cores.initial c, tables := [], ledger := [], ckpt := []
    sp := [], coup := Coupler.initial c, ports := List.replicate c.nPort Port.initial
    pairHeld := List.replicate c.nPair false, coll := Coll.initial c, fedIn := [], fedOut := [], agenda := []
    gln := Gleaner.initial, tap := Tap.initial, free := 0, pending := [] }

/-- The machine right after reset: a ZV4-128/48 with 32 KiB silos (notes/assumptions/6). -/
def State.reset : State := State.initial { part := .zv4_128_48, silo := .kib32 }

end Sys2Proof.Machine
end

