-- ==== Sys2Proof/Machine/Operands.lean ====
section
/-! DEFINITION. Operand forms: what a sequencer's commands are evaluated against, iteration spaces and shares (R171-R173), and how
each operand's elements are found and read (R165-R170, R297-R302, R342-R345). -/

namespace Sys2Proof

/-- What a command is verified, timed and run against: configuration, federation, partition record, job and the memories it
names. `h0` gives the checkpointed HEADs (R351), `start` is the RACK_TIME of the epoch's release, 0 for the verifier (notes/assumptions/24). -/
structure Env where
  cfg : Cfg
  dies : Nat
  die : Nat
  seq : Nat
  part : List Word
  ledger : Mem
  tables : Mem
  chains : Mem
  owner : Nat
  job : Option Machine.Job
  logical : Nat
  h0 : List (Nat × Nat)
  start : Nat
deriving DecidableEq, Repr

/-- Partition record fields (R132). -/
def partField (ws : List Word) (w hi lo : Nat) : Nat := bitsOf (ws.getD w 0).toNat hi lo
def partFirstPen (ws : List Word) : Nat := partField ws 0 5 0
def partPens (ws : List Word) : Nat := partField ws 0 14 8
def partTenant (ws : List Word) : Nat := partField ws 0 18 16
def partTables (ws : List Word) : Nat := partField ws 0 63 32
def partPorts (ws : List Word) : Nat := partField ws 1 47 0
def partMbxs (ws : List Word) : Nat := partField ws 1 63 48
def partLedger (ws : List Word) : Nat × Nat := (partField ws 2 16 0, partField ws 2 49 32)
def partKeyGen (ws : List Word) : Nat := partField ws 15 39 32
/-- Windows as half-open byte ranges (R132). -/
def partWindows (ws : List Word) : List (Nat × Nat) :=
  ((List.range 4).map fun k => (partField ws (3 + k) 23 0 * 65536, partField ws (3 + k) 47 24 * 65536)).filterMap
    fun (b, l) => if l = 0 then none else some (b, b + l)
/-- Is a line inside some window (R135)? -/
def inWindow (ws : List Word) (line : Nat) : Bool :=
  (partWindows ws).any fun (lo, hi) => decide (lo ≤ line * 512 ∧ (line + 1) * 512 ≤ hi)
/-- Is a ledger entry in the domain's range (R134)? -/
def inLedger (ws : List Word) (e : Nat) : Bool :=
  let (b, n) := partLedger ws
  decide (b ≤ e ∧ e < b + n)

/-- A position of the group: rank, die, pen index p and index q (R173, R184). -/
structure Pos where
  rank : Nat
  die : Nat
  p : Nat
  q : Nat
deriving DecidableEq, Repr

/-- The die-local position number. -/
def Pos.idx (x : Pos) : Nat := 16 * x.p + x.q

namespace Env

/-- Cores of the group (R173). -/
def nCores (e : Env) : Nat := 16 * partPens e.part
/-- The position of a rank (R35, R173). -/
def pos (e : Env) (r : Nat) : Pos :=
  let pen := partFirstPen e.part + r / 16
  ⟨r, pen / e.cfg.nPen, pen % e.cfg.nPen, r % 16⟩
def ranks (e : Env) : List Nat := List.range e.nCores
def entry (e : Env) (i : Nat) : Entry := Entry.ofMem e.ledger i
/-- HEAD of an entry as it stood at the epoch's release: its checkpointed value, if it has changed since (R346, R351). -/
def headOf (e : Env) (i : Nat) : Nat := ((e.h0.find? fun x => x.1 == i).map (·.2)).getD (e.entry i).head
/-- Rows that an append stores in entry i: n rows from CURSOR, as far as H0 and the last position allow (R346). -/
def appendRows (e : Env) (i n : Nat) : Nat :=
  min n (min (e.headOf i + (e.entry i).cap - (e.entry i).cursor) (2 ^ 23 - 1 - (e.entry i).cursor))
/-- Record i of a table of the store (R267). -/
def tabRec (e : Env) (t i : Nat) : TabRec := TabRec.ofNat (leNat (e.tables.readBytes (2560 * t + 10 * i) 10))

end Env

/-! ## Iteration space and shares -/

/-- A box of indices: half-open ranges of the four dimensions. -/
abbrev Box := List (Nat × Nat)

/-- Elements of a box. -/
def Box.count (b : Box) : Nat := b.foldl (fun n r => n * (r.2 - r.1)) 1

/-- The t-th index tuple of a box, dimension 0 fastest. -/
def Box.nth : Box → Nat → List Nat
  | [], _ => []
  | (lo, hi) :: b, t => (lo + t % (hi - lo)) :: Box.nth b (t / (hi - lo))

/-- The number of an index tuple within a box. -/
def Box.rankOf : Box → List Nat → Nat
  | (lo, hi) :: b, i :: is => (i - lo) + (hi - lo) * Box.rankOf b is
  | _, _ => 0

/-- Linear index under sizes (R172). -/
def linIdx (sizes : List Nat) (i : List Nat) : Int :=
  match sizes, i with
  | s :: ss, x :: xs => (x : Int) + s * linIdx ss xs
  | _, _ => 0

/-- Replace component d of an index. -/
def setIdx (i : List Nat) (d v : Nat) : List Nat := i.set d v

/-- Exchange components p and q. -/
def swapIdx {α : Type} (dflt : α) (i : List α) (p q : Nat) : List α := (i.set p (i.getD q dflt)).set q (i.getD p dflt)

namespace Cmd

/-- Iteration space sizes (R171). -/
def space (c : Cmd) : List Nat :=
  match c.descA, c.descB, c.descOut with
  | some d, _, _ => d.size
  | none, some d, _ => d.size
  | none, none, some d => d.size
  | none, none, none =>
    match c.inA, c.inB, c.out with
    | some a, _, _ => if a.src = 2 then [sheafCount a.sfmt, 1, 1, 1] else [0, 1, 1, 1]
    | none, some b, _ => if b.src = 2 then [sheafCount b.sfmt, 1, 1, 1] else [0, 1, 1, 1]
    | none, none, some o => if o.dst = 2 then [sheafCount o.sfmt, 1, 1, 1] else [0, 1, 1, 1]
    | _, _, _ => [0, 1, 1, 1]

/-- A zero-length command (R183). -/
def zeroLen (c : Cmd) : Bool := c.isCompute && c.space.any (· == 0)

/-- Does the WIN slot reduce (R199, R280)? -/
def reduces (c : Cmd) : Bool := (c.win.map fun w => w.rmask != 0).getD false

/-- Reduced dimensions in ascending order. -/
def redDims (c : Cmd) : List Nat := ((List.range 4).filter fun d => ((c.win.map WinSlot.rmask).getD 0).testBit d)

/-- Does PERM hold this operation? -/
def permIs (c : Cmd) (op : Nat) : Bool := (c.perm.map fun p => p.op == op).getD false

/-- Outputs of one row along the lowest reduced dimension (R280). -/
def rowOuts (c : Cmd) : Nat :=
  match c.win with
  | some w => if w.op = 6 then 2 * (w.k + 1) else if w.op = 8 then 2 else 1
  | none => 1

/-- The output shape (R171, R280, R298). -/
def outShape (c : Cmd) : List Nat :=
  if c.reduces then
    let low := c.redDims.headD 0
    (List.range 4).map fun d => if c.redDims.contains d then (if d = low then c.rowOuts else 1) else c.space.getD d 1
  else
    match c.perm with
    | some p => if p.op = 0 then swapIdx 1 c.space p.dimP p.dimQ else c.space
    | none => c.space

/-- The share of rank r of n cores (R173); the empty share has an empty range. -/
def share (c : Cmd) (n r : Nat) : Box :=
  let s := c.space
  let whole : Box := s.map fun k => (0, k)
  if c.hdr.split < 4 then
    let d := c.hdr.split
    let k := s.getD d 1
    whole.set d (r * k / n, (r + 1) * k / n)
  else if c.hdr.split = 4 then (if r = 0 then whole else whole.set 0 (0, 0))
  else whole

/-- The part of the output shape that a share produces. -/
def outBox (c : Cmd) (b : Box) : Box :=
  if c.reduces then
    (List.range 4).map fun d => if c.redDims.contains d then (0, c.outShape.getD d 1) else b.getD d (0, 1)
  else
    match c.perm with
    | some p => if p.op = 0 then swapIdx (0, 1) b p.dimP p.dimQ else b
    | none => b

/-- The index in the iteration space of the last element that an output element comes from (R199). -/
def srcIdx (c : Cmd) (o : List Nat) : List Nat :=
  if c.reduces then (List.range 4).map fun d => if c.redDims.contains d then c.space.getD d 1 - 1 else o.getD d 0
  else
    match c.perm with
    | some p => if p.op = 0 then swapIdx 0 o p.dimP p.dimQ else o
    | none => o

end Cmd

/-! ## Reading elements -/

/-- w bits at a bit address of a memory. -/
def Mem.readBits (m : Mem) (bit w : Nat) : Nat :=
  leNat (m.readBytes (bit / 8) ((bit % 8 + w + 7) / 8)) / 2 ^ (bit % 8) % 2 ^ w

/-- Lines that w bits at a bit address reach (R165). -/
def bitLines (bit : Int) (w : Nat) : List Nat :=
  let a := (bit / 4096).toNat
  let b := ((bit + w - 1) / 4096).toNat
  if a = b then [a] else [a, b]

/-- σ of a shuffle pattern (R300). -/
def shuffleSrc (pattern j : Nat) : Nat :=
  if pattern < 5 then j ^^^ 2 ^ pattern
  else if pattern < 9 then j ^^^ (2 ^ (pattern - 3) - 1)
  else if pattern < 14 then (j + 2 ^ (pattern - 9)) % 32
  else if pattern < 18 then (j + 32 - 2 ^ (pattern - 14)) % 32
  else if pattern = 18 then (if j < 16 then 2 * j else 2 * j - 31)
  else if pattern = 19 then (if j % 2 = 0 then j / 2 else 16 + (j - 1) / 2)
  else j - j % 2 ^ (pattern - 19)

/-- Where operand A's element for an index of the iteration space comes from under SHUFFLE: none for the zero pattern. -/
def shuffleIdx (pattern s0 : Nat) (i : List Nat) : Option (List Nat) :=
  let i0 := i.getD 0 0
  let g := i0 / 32
  let src := shuffleSrc pattern (i0 % 32)
  if src < min 32 (s0 - 32 * g) then some (setIdx i 0 (32 * g + src)) else none

/-- The compute format that a stream's elements enter in when the ALU slot is absent (R161, R221). -/
def entryFmt (f : Fmt) (scaled : Bool) : Fmt := if f.isInt && !scaled then .int32 else .fp32

/-- The element format of an input slot. -/
def Cmd.inFmt (c : Cmd) (s : Option InSlot) : Fmt :=
  match s with
  | some x => if x.src = 2 then (Fmt.ofCode x.sfmt).getD .fp32 else ((c.desc x.dsel).map Desc.format).getD .fp32
  | none => .fp32

/-- The chain's entry format of an input slot (R161, R240). -/
def Cmd.compFmt (c : Cmd) (s : Option InSlot) : Fmt :=
  match c.alu with
  | some a => if a.cf = 3 then c.inFmt s else cfFmt a.cf
  | none => entryFmt (c.inFmt s) ((c.descOf s).map (fun d => d.scl != 0) |>.getD false)

/-- The memories that a command reads: scratchpad and sheaves (R170). -/
structure Mems where
  sp : Mem
  sheaves : Mem
deriving DecidableEq, Repr

/-- Element t of a sheaf of a position (R170). -/
def sheafElem (m : Mem) (g k : Nat) (f : Fmt) (t : Nat) : Nat :=
  let w := if f.bits = 6 then 8 else f.bits
  Mem.readBits m ((65536 * g + 4096 * k) * 8 + t * w) w % 2 ^ f.bits

/-- The signed INT32 index that an index descriptor holds for a row (R302). -/
def rowIndex (sp : Mem) (d : Desc) (i : List Nat) : Int :=
  sext 32 (sp.readBits (d.bitAddr (setIdx i 0 0)).toNat 32)

/-- The bit address of an element with component k replaced by a signed index (R302). -/
def Desc.bitAddrAt (d : Desc) (i : List Nat) (k : Nat) (x : Int) : Int :=
  d.bitAddr (setIdx i k 0) + x * d.strideAt k * d.width

/-- A scratchpad element of a descriptor at a bit address, entering format cf: `i` names its bushel (R168, R221). -/
def spElem (c : Cmd) (sp : Mem) (d : Desc) (bit : Int) (i : List Nat) (cf : Fmt) : El :=
  let scale := (c.companion d).map fun s =>
    decodeElem s.format (sp.readBits (s.bitAddr (setIdx i 0 (i.getD 0 0 / d.bushel))).toNat s.width)
  entryEl d.format cf c.strict (sp.readBits bit.toNat d.width) scale

/-- A context element: position START + i1 of entry E + i2, a NaN outside HEAD to CURSOR - 1 (R342, R344, R345). -/
def ctxElem (e : Env) (c : Cmd) (sp : Mem) (d : Desc) (i : List Nat) (cf : Fmt) : El :=
  let en := e.entry (d.entry + i.getD 2 0)
  let p := d.start + i.getD 1 0
  if en.head ≤ p ∧ p < en.cursor then
    let i0 := i.getD 0 0
    let code := sp.readBits (en.dataAddr p * 8 + i0 * en.tierBits) en.tierBits
    let b := i0 / tierBushel en.tier
    let (s, o) := if en.tier = 2 then ((sp.read (en.scaleAddr p + 2 * b)).toNat, (sp.read (en.scaleAddr p + 2 * b + 1)).toNat)
      else ((sp.read (en.scaleAddr p + b)).toNat, 0)
    roundEl cf .rne c.strict (d.format == cf) (decodeStored en d.format c.strict code s o)
  else { v := .cnan }

/-- An operand's element at an index of the iteration space: `t` is the element's number in the share, `g` the position. -/
def operandEl (e : Env) (c : Cmd) (m : Mems) (b : Box) (g : Nat) (s : InSlot) (i : List Nat) (cf : Fmt) : El :=
  if s.src = 2 then entryEl (c.inFmt (some s)) cf c.strict (sheafElem m.sheaves g s.sheaf (c.inFmt (some s)) (b.rankOf i)) none
  else
    match c.desc s.dsel with
    | none => { v := .zero }
    | some d => if d.target = 1 then ctxElem e c m.sp d i cf else spElem c m.sp d (d.bitAddr i) i cf

/-- Operand A after PERM (R297-R302): the element that enters the chain for index i. -/
def operandA (e : Env) (c : Cmd) (m : Mems) (b : Box) (g : Nat) (i : List Nat) : El :=
  let cf := c.compFmt c.inA
  match c.inA with
  | none => { v := .zero }
  | some s =>
    match c.perm with
    | some p =>
      if p.op = 3 then
        match shuffleIdx p.pattern (c.space.getD 0 1) i with
        | some i' => operandEl e c m b g s i' cf
        | none => { v := decodeElem cf 0 }
      else if p.op = 1 then
        match c.desc s.dsel, c.indexDesc with
        | some d, some x => spElem c m.sp d (d.bitAddrAt i p.dimP (rowIndex m.sp x i)) i cf
        | _, _ => { v := .zero }
      else operandEl e c m b g s i cf
    | none => operandEl e c m b g s i cf

/-- Operand B of the chain at index i: IN_B's stream (R160). -/
def operandB (e : Env) (c : Cmd) (m : Mems) (b : Box) (g : Nat) (i : List Nat) : Option El :=
  c.inB.bind fun s => if s.src = 0 then none else some (operandEl e c m b g s i (c.compFmt c.inB))

/-- The raw encoding of a scale-format element that a command moves unchanged (R219). -/
def rawScaleA (c : Cmd) (m : Mems) (i : List Nat) : Nat :=
  match c.descA with
  | some d =>
    let i' := match c.perm with
      | some p => if p.op = 3 then shuffleIdx p.pattern (c.space.getD 0 1) i else some i
      | none => some i
    match i' with
    | some x =>
      match c.perm, c.indexDesc with
      | some p, some n => if p.op = 1 then m.sp.readBits (d.bitAddrAt x p.dimP (rowIndex m.sp n x)).toNat d.width
                          else m.sp.readBits (d.bitAddr x).toNat d.width
      | _, _ => m.sp.readBits (d.bitAddr x).toNat d.width
    | none => 0
  | none => 0

end Sys2Proof
end

