-- ==== Sys2Proof/Machine/Circuits.lean ====
section
/-! DEFINITION. Jobs and circuits (16, R389-R397): the fields of ROUTES and CIRCUITS, patterns of transmit slots, and the cells that
a channel's transfers make (R26, R356, R359-R361). -/

namespace Sys2Proof

/-- Start of logical slot j as a RACK_TIME (R359). -/
def slotStart (j : Nat) : Nat := 5 * j / 2

/-- The smallest slot that starts at or after a cycle. -/
def slotAfter (t : Nat) : Nat :=
  let j := (2 * t) / 5
  if t ≤ slotStart j then j else if t ≤ slotStart (j + 1) then j + 1 else j + 2

/-- A pattern of slots (R390). -/
structure Pattern where
  first : Nat
  period : Nat
  cells : Nat
deriving DecidableEq, Repr

/-- A circuit descriptor (R390). -/
structure Circuit where
  role : Nat
  loc : Nat
  dst : Nat
  dstChannel : Nat
  g : Nat
  lterm : Bool
  xdeliv : Bool
  acc : Nat
  inPorts : List Nat
  outPort : Nat
  transfers : Nat
  tperiod : Nat
  inPat : Pattern
  outPat : Pattern
  rsvd : Bool
deriving DecidableEq, Repr

def Circuit.ofWords (w0 w1 w2 w3 : Nat) : Circuit :=
  { role := bitsOf w0 1 0, loc := bitsOf w0 18 2, dst := bitsOf w0 34 19, dstChannel := bitsOf w0 51 35
    g := bitsOf w0 56 52, lterm := bitsOf w0 57 57 == 1, xdeliv := bitsOf w0 58 58 == 1, acc := bitsOf w0 60 59
    inPorts := [bitsOf w1 5 0, bitsOf w1 11 6, bitsOf w1 17 12], outPort := bitsOf w1 23 18, transfers := bitsOf w1 31 24
    tperiod := bitsOf w1 63 32, inPat := ⟨bitsOf w2 31 0, bitsOf w2 47 32, bitsOf w2 63 48⟩
    outPat := ⟨bitsOf w3 31 0, bitsOf w3 47 32, bitsOf w3 63 48⟩, rsvd := bitsOf w0 63 61 != 0 }

/-- The circuits of a list of words, four a circuit. -/
def circuitsOf : Nat → List Word → List Circuit
  | 0, _ => []
  | n + 1, a :: b :: c :: d :: l => Circuit.ofWords a.toNat b.toNat c.toNat d.toNat :: circuitsOf n l
  | _ + 1, _ => []

def Machine.Job.circs (j : Machine.Job) : List Circuit := circuitsOf (j.circuits.length / 4) j.circuits

/-- ROUTES fields (R389). -/
def Machine.Job.root (j : Machine.Job) : Nat := bitsOf (j.routes.getD 0 0).toNat 15 0
def Machine.Job.participants (j : Machine.Job) : Nat := bitsOf (j.routes.getD 0 0).toNat 31 16 + 1
def Machine.Job.barrierWd (j : Machine.Job) : Nat :=
  let us := bitsOf (j.routes.getD 0 0).toNat 47 32
  (if us = 0 then 20 else us) * 1600
def Machine.Job.parentPort (j : Machine.Job) : Nat := bitsOf (j.routes.getD 0 0).toNat 53 48
def Machine.Job.childMask (j : Machine.Job) : Nat := bitsOf (j.routes.getD 1 0).toNat 47 0
def Machine.Job.jobPorts (j : Machine.Job) : Nat := bitsOf (j.routes.getD 2 0).toNat 47 0

namespace Circuit

/-- The accumulator format of a REDUCE (R390). -/
def accFmt (c : Circuit) : Fmt := match c.acc with | 0 => .fp32 | 1 => .bf16 | 2 => .wx32 | _ => .int32
/-- Inbound ports in use, in the order of the term rule (R397). -/
def ins (c : Circuit) : List Nat := c.inPorts.filter (· != 0x3F)
def hasOut (c : Circuit) : Bool := c.outPort != 0x3F
/-- Does the circuit deliver into a local entry? A delivering REDUCE is one whose DST is the chip's own LOGICAL_ID (R390). -/
def deliversTo (c : Circuit) (logical : Nat) : Option Nat :=
  if c.role = 1 then some c.dstChannel
  else if c.role = 2 ∧ c.xdeliv then some c.loc
  else if c.role = 3 ∧ c.dst = logical then some c.dstChannel
  else none
/-- The entry whose commands this circuit sends (R387). -/
def sendsFrom (c : Circuit) : Option Nat :=
  if c.role = 0 ∨ (c.role = 3 ∧ c.lterm) then some c.loc else none
/-- The slot of cell k of transfer t (R390). -/
def slot (c : Circuit) (p : Pattern) (j0 t k : Nat) : Nat := j0 + p.first + t * c.tperiod + k * p.period
/-- Cell number within a transfer's pattern of data cell n: a tag cell follows each group of g (R390). -/
def cellOf (g n : Nat) : Nat := if g = 0 then n else n + n / g
/-- The pattern and the port on which the local entry's cells are counted: outbound, or inbound where the circuit sends nothing. -/
def sendPat (c : Circuit) : Pattern := if c.hasOut || c.role == 0 then c.outPat else c.inPat
def sendPort (c : Circuit) : Nat := if c.hasOut || c.role == 0 then c.outPort else c.ins.headD 0x3F
/-- The tag group on a port: tag cells go on classes K and O only (R144, R390). -/
def gAt (c : Circuit) (cfg : Cfg) (port : Nat) : Nat := if 3 ≤ cfg.portClass port then c.g else 0

end Circuit

/-- Data cells of COUNT elements of width w (R390). -/
def dataCells (count w : Nat) : Nat := (count * w + 1791) / 1792
/-- CELLS of a pattern (R390): data cells and, with a tag group, tag cells; one BARRIER cell for COUNT 0. -/
def patternCells (count w g : Nat) : Nat :=
  if count = 0 then 1 else let n := dataCells count w; if g = 0 then n else n + (n + g - 1) / g

/-- The first slot of an epoch (R390). -/
def Env.j0 (e : Env) : Nat := slotAfter e.start

namespace Circuit

/-- Formats that a REDUCE accepts for its accumulator (R396). -/
def accepts (c : Circuit) (f : Fmt) : Bool :=
  match c.acc with
  | 0 => [Fmt.fp32, .fp16, .bf16, .e4m3, .e5m2].contains f
  | 1 => [Fmt.bf16, .e4m3, .e5m2].contains f
  | 2 => [Fmt.wx32, .fp32, .fp16, .bf16, .e4m3, .e5m2].contains f
  | _ => [Fmt.int32, .int8].contains f

/-- Accepted element widths of a REDUCE, widest first. -/
def widths (c : Circuit) : List Nat :=
  match c.acc with
  | 1 => [16, 8]
  | 3 => [32, 8]
  | _ => [32, 16, 8]

/-- Data cells of a pattern of CELLS cells with tag groups of g; none when no number of data cells makes that many. -/
def dataOf (cells g : Nat) : Option Nat :=
  if g = 0 ∨ cells ≤ 1 then some cells
  else
    let n := cells - (cells + g) / (g + 1)
    if n + (n + g - 1) / g = cells then some n else none

/-- A circuit's tag groups inbound and outbound. -/
def gIn (c : Circuit) (cfg : Cfg) : Nat := c.gAt cfg (c.ins.headD 0x3F)
def gOut (c : Circuit) (cfg : Cfg) : Nat := c.gAt cfg c.outPort

/-- COUNT of a REDUCE's transfers: its receiving or sending entry's; none where it names none. -/
def reduceCount (c : Circuit) (e : Env) (logical : Nat) : Option Nat :=
  ((c.deliversTo logical).or c.sendsFrom).map fun i => (e.entry i).count

/-- The width of a REDUCE's inbound elements: the first accepted one that gives its patterns' CELLS; none when none does. Without a local entry
some number of elements must make both patterns. -/
def reduceWidth (c : Circuit) (e : Env) (logical : Nat) : Option Nat :=
  match c.reduceCount e logical with
  | some n => c.widths.find? fun w => c.ins.all fun p => patternCells n w (c.gAt e.cfg p) == c.inPat.cells
  | none =>
    match dataOf c.inPat.cells (c.gIn e.cfg), dataOf c.outPat.cells (c.gOut e.cfg) with
    | some a, some b => c.widths.find? fun w =>
        c.ins.all (fun p => dataOf c.inPat.cells (c.gAt e.cfg p) == some a)
          && decide (dataCells ((a - 1) * 1792 / w + 1) c.accFmt.bits ≤ b ∧ b ≤ dataCells (a * 1792 / w) c.accFmt.bits)
    | _, _ => none

/-- Inbound and outbound cell numbers of a RELAY's cells: tag cells too where both sides carry them (R362, R393). -/
def relayPairs (c : Circuit) (cfg : Cfg) : List (Nat × Nat) :=
  if c.gIn cfg = c.gOut cfg then (List.range c.inPat.cells).map fun k => (k, k)
  else (List.range ((dataOf c.inPat.cells (c.gIn cfg)).getD 0)).map fun n => (cellOf (c.gIn cfg) n, cellOf (c.gOut cfg) n)

end Circuit

/-- Budget of a port's class in CK_V cycles (R28). -/
def Cfg.portBudget (c : Cfg) (p : Nat) : Nat := classBudget (c.portClass p)

/-- Circuits that send an entry's commands. -/
def Env.sendCircuits (e : Env) (entry : Nat) : List Circuit :=
  match e.job with
  | some j => j.circs.filter fun c => c.sendsFrom == some entry
  | none => []

/-- Start of the slot, as a RACK_TIME, of data cell n of transfer t on the side of a circuit where its local entry's cells are counted. -/
def Env.sendSlot (e : Env) (c : Circuit) (t n : Nat) : Nat :=
  slotStart (c.slot c.sendPat e.j0 t (Circuit.cellOf (c.gAt e.cfg c.sendPort) n))

/-- Width of the elements in the cells of that side: the entry's, ACC on a REDUCE's outbound side, the inbound width where a REDUCE
delivers (R390, R396). -/
def Env.sendWidth (e : Env) (c : Circuit) (entryBits : Nat) : Nat :=
  if c.role ≠ 3 then entryBits else if c.hasOut then c.accFmt.bits else (c.reduceWidth e e.logical).getD entryBits

/-- Send point, relative to the release, of the cell that holds the last bit of the transfer's elements up to number el (R359, R394). -/
def Env.sendPoint (e : Env) (c : Circuit) (entryBits t el : Nat) : Nat :=
  e.sendSlot c t (((el + 1) * e.sendWidth c entryBits - 1) / 1792) - 64 - e.start

end Sys2Proof
end

