-- ==== Sys2Proof/Machine/Fusion.lean ====
section
/-! DEFINITION. Fusion chains (13, R314-R318, R323-R326): chain records, stage operations, epilogue geometry and rate. -/

namespace Sys2Proof

/-- A stage entry (R315). -/
structure Stage where
  op : Nat
  sheaf : Nat
  immi : Nat
  fmt : Nat
  bsz : Bool
deriving DecidableEq, Repr

def Stage.ofNat (x : Nat) : Stage :=
  { op := bitsOf x 3 0, sheaf := bitsOf x 7 4, immi := bitsOf x 9 8, fmt := bitsOf x 14 10, bsz := bitsOf x 15 15 == 1 }

/-- A chain record (R314); stages beyond the counts are kept in `rest`. -/
structure Chain where
  proN : Nat
  epiN : Nat
  proFmt : Nat
  epiFmt : Nat
  sheafFmt : Nat
  firstSheaf : Nat
  sheafCount : Nat
  ecf : Bool
  colsLog2 : Nat
  pro : List Stage
  epi : List Stage
  restZero : Bool
  imm : List Nat
  epiLat : Nat
  drainLat : Nat
  sigTally : Nat
  sigEn : Bool
deriving DecidableEq, Repr

/-- Chain record from its eight words. -/
def Chain.ofWords (w : Nat → Nat) : Chain :=
  let st (base k : Nat) := (w (base + k / 4)) / 2 ^ (16 * (k % 4)) % 65536
  let proN := bitsOf (w 0) 3 0
  let epiN := bitsOf (w 0) 7 4
  { proN := proN, epiN := epiN, proFmt := bitsOf (w 0) 12 8, epiFmt := bitsOf (w 0) 17 13
    sheafFmt := bitsOf (w 0) 22 18, firstSheaf := bitsOf (w 0) 26 23, sheafCount := bitsOf (w 0) 31 27
    ecf := bitsOf (w 0) 32 32 == 1, colsLog2 := bitsOf (w 0) 36 33
    pro := (List.range (min 8 proN)).map fun k => Stage.ofNat (st 1 k)
    epi := (List.range (min 8 epiN)).map fun k => Stage.ofNat (st 3 k)
    restZero := (List.range 8).all fun k => (decide (k < proN) || st 1 k == 0) && (decide (k < epiN) || st 3 k == 0)
    imm := (List.range 4).map fun k => bitsOf (w (5 + k / 2)) (32 * (k % 2) + 31) (32 * (k % 2))
    epiLat := bitsOf (w 7) 23 0, drainLat := bitsOf (w 7) 47 24, sigTally := bitsOf (w 7) 52 48, sigEn := bitsOf (w 7) 53 53 == 1 }

/-- Byte address of CHAIN_REC[s][c] in the chain memory. -/
def chainAddr (s c : Nat) : Nat := 512 * s + 64 * c

/-- Chain c of sequencer s. -/
def Chain.ofMem (m : Mem) (s c : Nat) : Chain := Chain.ofWords fun k => (m.read64 (chainAddr s c + 8 * k)).toNat

/-- Element formats of chain fields. -/
def isElemCode (f : Nat) : Bool := decide (f < 13)

namespace Chain

def fmtOf (c : Nat) : Fmt := (Fmt.ofCode c).getD .fp32
/-- Width of EPI_FMT and of SHEAF_FMT, elements a lane holds and a sheaf holds (R323). -/
def we (c : Chain) : Nat := (fmtOf c.epiFmt).bits
def ws (c : Chain) : Nat := (fmtOf c.sheafFmt).bits
def laneElems (c : Chain) : Nat := 512 / c.we
def sheafElems (c : Chain) : Nat := 32768 / c.ws
def cols (c : Chain) : Nat := 2 ^ c.colsLog2
def rows (c : Chain) : Nat := c.sheafElems / c.cols
/-- Beats of a generation (R323). -/
def nBeat (c : Chain) : Nat := c.sheafCount * 64 * c.we / c.ws
/-- Epilogue compute format (R314). -/
def ecfFmt (c : Chain) : Fmt := if c.ecf then .wx32 else .fp32
/-- The REDUCE stage, if there is one. -/
def reduce (c : Chain) : Option Stage := c.epi.find? fun s => s.op == 10
/-- Elements that a REDUCE lands (R325). -/
def reduceElems (c : Chain) : Nat :=
  match c.reduce with
  | some s => (if s.immi.testBit 0 then c.sheafCount * c.rows else 0) + (if s.immi.testBit 1 then c.sheafCount * c.cols else 0)
  | none => 0
/-- Processing cycles of a beat (R326). -/
def beatCycles (c : Chain) : Nat :=
  let s := max 1 c.epiN + (match c.reduce with | some r => if r.immi = 3 then 1 else 0 | none => 0)
  (c.laneElems * s + 31) / 32
/-- Landing sheaves and the REDUCE sheaf. -/
def landing (c : Chain) : List Nat :=
  (List.range c.sheafCount).map (c.firstSheaf + ·) ++ (match c.reduce with | some r => [r.sheaf] | none => [])
/-- Sheaves that stages read (R315, R327). -/
def readSheaves (c : Chain) : List Nat :=
  (c.pro ++ c.epi).filterMap fun s => if s.op == 1 || (6 ≤ s.op && s.op ≤ 9) then some s.sheaf else none

/-- One stage's limits (R315): `isPro`, the stage's index, and the vector formats. -/
def stageOk (c : Chain) (isPro : Bool) (k : Nat) (s : Stage) : Bool :=
  let vecFmt := s.fmt == 0 || s.fmt == 2 || s.fmt == 3 || (c.ecf && s.fmt == 1)
  let noSheaf := s.sheaf == 0 && s.fmt == 0 && !s.bsz
  match s.op with
  | 1 => isPro && k == 0 && (s.fmt == 13 || s.fmt == 14)
  | 2 | 3 | 4 | 5 => noSheaf
  | 6 | 8 => !isPro && vecFmt && s.immi == 0 && !s.bsz && decide (c.sheafCount * c.rows ≤ 32768 / (fmtOf s.fmt).bits)
  | 7 | 9 => !isPro && vecFmt && s.immi == 0 && !s.bsz && decide (c.cols ≤ 32768 / (fmtOf s.fmt).bits)
  | 10 => !isPro && (s.fmt == 0 || s.fmt == 1) && !s.bsz && s.immi != 0
  | _ => false

/-- Validity of a record (R314, R315, R325). -/
def valid (c : Chain) : Bool :=
  decide (c.proN ≤ 8) && decide (c.epiN ≤ 8) && isElemCode c.proFmt
  && (c.epiFmt == 0 || c.epiFmt == 1 || c.epiFmt == 2 || c.epiFmt == 3 || c.epiFmt == 8)
  && isElemCode c.sheafFmt && c.sheafFmt != 6 && decide (1 ≤ c.sheafCount) && decide (c.sheafCount ≤ 16)
  && decide (c.firstSheaf + c.sheafCount ≤ 16) && (c.epiFmt != 1 || c.ecf) && decide (c.cols ≤ c.sheafElems)
  && c.restZero && decide (1 ≤ c.epiLat) && decide (1 ≤ c.drainLat)
  && ((List.range c.pro.length).zip c.pro).all (fun (k, s) => c.stageOk true k s)
  && ((List.range c.epi.length).zip c.epi).all (fun (k, s) => c.stageOk false k s)
  && decide ((c.epi.filter fun s => s.op == 10).length ≤ 1)
  && c.readSheaves.all (fun s => !c.landing.contains s)
  && decide (c.reduceElems ≤ 1024)

end Chain

/-- One arithmetic stage on an element in compute format f; `vec` is the vector's element. IMM and the vector enter with their exact values,
so that the stage rounds once, and MIN and MAX not at all (R315, R317). -/
def stageEl (f : Fmt) (imm : List Nat) (s : Stage) (vec : Val) (e : El) : El :=
  let iv := decodeElem .fp32 (imm.getD s.immi 0)
  let ctx : Ctx := .near false
  let (v, fl) : Val × Fl := match s.op with
    | 2 => mulVal f ctx e.v iv
    | 3 => addVal f ctx e.v iv
    | 4 => minMaxVal false false e.v iv
    | 5 => minMaxVal true false e.v iv
    | 6 | 7 => mulVal f ctx e.v vec
    | 8 | 9 => addVal f ctx e.v vec
    | _ => (e.v, {})
  { v := v, fl := e.fl.or fl }

/-- UNPACK of a code with its fine scale (R318). -/
def unpackEl (imm : List Nat) (s : Stage) (code scale : Val) (fl : Fl) : El :=
  if scale.isNan then { v := .cnan, fl := fl }
  else if scale.isZero then { v := .fin code.neg? 0 1, fl := fl }
  else
    let i := decodeElem .fp32 (imm.getD s.immi 0)
    if i.isNan then { v := .cnan, fl := fl }
    else
      match (exactMul code scale).bind fun m => exactMul m i with
      | some m =>
        let (v, f) := convert .fp32 .rne false false m
        { v := v, fl := fl.or f }
      | none => { v := .cnan, fl := fl }

/-- The prologue stages of element k of a core's stream, held in SFMT as `x`, before and after the final conversion (R236, R316, R317):
`sheafByte` reads a byte of a sheaf. -/
def prologueEl (c : Chain) (sfmt : Fmt) (sheafByte : Nat → Nat → Nat) (k : Nat) (x : Nat) (fl : Fl) : El × El :=
  let v := decodeElem sfmt x
  let e0 : El := match c.pro.head? with
    | some s =>
      if s.op = 1 then
        let b := if s.bsz then 16 else 32
        unpackEl c.imm s v (decodeElem ((Fmt.ofCode s.fmt).getD .e8m0) (sheafByte s.sheaf (k / b))) fl
      else roundEl .fp32 .rne false (sfmt == .fp32) { v := v, fl := fl }
    | none => { v := v, fl := fl }
  let e1 := c.pro.foldl (fun e s => if s.op = 1 then e else stageEl .fp32 c.imm s .zero e) e0
  (e1, roundEl ((Fmt.ofCode c.proFmt).getD .fp32) .rne false (c.proFmt == 0) e1)

end Sys2Proof
end

