-- ==== Sys2Proof/Machine/CycleModel.lean ====
section
/-! DEFINITION. The cycle model (07, R194-R203; R273, R304, R307, R319-R321, R326, R328, R350, R394): when every command releases,
is granted its lines and completes. Cycles are relative to the epoch's release. -/

namespace Sys2Proof

open Machine (PosT GenT SigT Timing)

/-! ## Grants -/

/-- The first cycle at or after t in which position x is granted line's slice (R194), in closed form. -/
def grantAt (cfg : Cfg) (x : Pos) (line t : Nat) : Nat :=
  let n := cfg.nSlice
  let a := x.q / 4
  let u := if t ≤ a then 0 else (t - a + 3) / 4
  let want := (line % n + 2 * n - (x.p + cfg.nPen * (x.q % 4)) % n) % n
  4 * (u + (want + n - u % n) % n) + a

/-- The first grant of a position at or after t, whatever the slice (R304). -/
def firstGrant (x : Pos) (t : Nat) : Nat :=
  let a := x.q / 4
  if t ≤ a then a else a + 4 * ((t - a + 3) / 4)

/-- A grant search that passes over grants used by arrivals (R394). -/
def grantFree (cfg : Cfg) (used : List Nat) (x : Pos) (line : Nat) : Nat → Nat → Nat
  | 0, t => grantAt cfg x line t
  | n + 1, t =>
    let g := grantAt cfg x line t
    if used.contains g then grantFree cfg used x line n (g + 1) else g

/-! ## Arrivals (R394) -/

/-- A delivered data cell: home position, inbound port, availability, lines, and which cell of which transfer of its entry it is. -/
structure Arrival where
  home : Nat
  port : Nat
  avail : Nat
  lines : List Nat
  entry : Nat
  t : Nat
  n : Nat
deriving DecidableEq, Repr

/-- The width in which a circuit's inbound elements come: the first that gives its inbound pattern's CELLS (R390, R396). -/
def Circuit.inWidth (c : Circuit) (cfg : Cfg) (count : Nat) : Nat :=
  ([32, 16, 8].find? fun w => patternCells count w (c.gAt cfg (c.ins.headD 0x3F)) == c.inPat.cells).getD 32

/-- Lines that data cell n of transfer t reaches in an entry's shadow region (R391). -/
def shadowLines (en : Entry) (w t n : Nat) : List Nat :=
  let bytes := (en.count * w + 7) / 8
  let base := en.shadowLine * 512 + t * 512 * ((en.count * w + 4095) / 4096)
  let lo := base + 224 * n
  let hi := base + min bytes (224 * n + 224) - 1
  (List.range (hi / 512 + 1 - lo / 512)).map (lo / 512 + ·)

/-- Arrivals of one circuit on ports of classes P, B and K. -/
def Env.circuitArrivals (e : Env) (logical : Nat) (c : Circuit) : List Arrival :=
  match c.deliversTo logical with
  | none => []
  | some entry =>
    let en := e.entry entry
    let w := ((Fmt.ofCode en.efmt).getD .fp32).bits
    let port := c.ins.headD 0x3F
    if en.count = 0 || c.ins.any (fun p => e.cfg.portClass p == 4) then []
    else
      (List.range c.transfers).flatMap fun t => (List.range (dataCells en.count w)).map fun n =>
        let last := if c.role = 3 then min (1792 * (n + 1)) (en.count * w) / w * c.inWidth e.cfg en.count - 1 else 1792 * (n + 1) - 1
        let k := Circuit.cellOf (c.gAt e.cfg port) (if c.role = 3 then last / 1792 else n)
        let budget := (c.ins.map e.cfg.portBudget).foldl max 0
        { home := en.home, port := port, avail := slotStart (c.slot c.inPat e.j0 t k) + budget + 96 - e.start
          lines := shadowLines en w t n, entry := entry, t := t, n := n }

/-- Insert in order of availability, then inbound port. -/
def arrivalInsert (a : Arrival) : List Arrival → List Arrival
  | [] => [a]
  | b :: l => if a.avail < b.avail ∨ (a.avail = b.avail ∧ a.port < b.port) then a :: b :: l else b :: arrivalInsert a l

/-- All arrivals in the order in which they are written. -/
def Env.arrivals (e : Env) (logical : Nat) : List Arrival :=
  match e.job with
  | some j => ((j.circs.flatMap (e.circuitArrivals logical)).foldl (fun l a => arrivalInsert a l) [])
  | none => []

/-- The lines of a position's arrivals with their SP_WR grants, arrivals in order: each line at the first grant at or after the cell's
availability and after the previous arrival write. -/
def arrivalPuts (cfg : Cfg) (x : Pos) (l : List Arrival) : List (Arrival × List (Nat × Nat)) :=
  (l.foldl (fun (acc : List (Arrival × List (Nat × Nat)) × Nat) a =>
    let r := a.lines.foldl (fun (r : List (Nat × Nat) × Nat) line =>
      let g := grantAt cfg x line (max a.avail r.2)
      (r.1 ++ [(line, g)], g + 1)) ([], acc.2)
    ((a, r.1) :: acc.1, r.2)) ([], 0)).1

/-- SP_WR grants that a position's arrivals use. -/
def arrivalGrants (cfg : Cfg) (x : Pos) (l : List Arrival) : List Nat := (arrivalPuts cfg x l).flatMap fun a => a.2.map (·.2)

/-- The arrivals that a home core writes. -/
def Env.arrivalsAt (e : Env) (home : Nat) : List Arrival := (e.arrivals e.logical).filter fun a => a.home == home

/-- The rank of a global position in the group. -/
def Env.rankAt (e : Env) (home : Nat) : Option Nat :=
  e.ranks.find? fun k => (e.pos k).die * e.cfg.nActive + (e.pos k).idx == home

/-- The first grant for a line at or after t that no range of used grants covers (R395). -/
def grantUnused (cfg : Cfg) (used : List (Nat × Nat)) (x : Pos) (line : Nat) : Nat → Nat → Nat
  | 0, t => grantAt cfg x line t
  | n + 1, t =>
    let g := grantAt cfg x line t
    match used.find? fun r => decide (r.1 ≤ g ∧ g < r.2) with
    | some r => grantUnused cfg used x line n r.2
    | none => g

/-! ## Chunks (R197, R198) -/

/-- Stage count s of R197. -/
def Cmd.stages (c : Cmd) : Nat :=
  (if c.perm.isSome then 1 else 0) + (if c.alu.isSome then 1 else 0) + (if c.win.isSome then 1 else 0)
    + (if c.func.isSome then 1 else 0) + (if c.conv.isSome then 1 else 0)

/-- A descriptor stream's share of beta, in 1/32 byte per element (R197, R349). -/
def Cmd.beta32 (c : Cmd) (e : Env) (d : Desc) : Nat :=
  if d.target = 1 then
    let en := e.entry d.entry
    en.tierBits * 4 + 32 / en.scaleDiv
  else d.width * 4 + (match c.companion d with | some _ => 32 / d.bushel | none => 0)

/-- beta of the whole command in 1/32 byte. -/
def Cmd.beta (c : Cmd) (e : Env) : Nat :=
  let f (d : Option Desc) := (d.map (c.beta32 e)).getD 0
  f c.descA + f c.descB + f c.descOut + (if c.indexDesc.isSome then 128 else 0)

/-- Lines of a staged row (R301). -/
def Desc.rowLines (d : Desc) : Nat := (d.sizeAt 0 * d.width + 4095) / 4096

/-- Element width of the crossbar's tile: the stream's own under CF NATIVE, else that of the compute format (notes/assumptions/25). -/
def Cmd.tileWidth (c : Cmd) : Nat :=
  match c.alu with
  | some a => if a.cf = 3 then (c.inFmt c.inA).bits else 32
  | none => 32

/-- F of R197. -/
def Cmd.fixedNeed (c : Cmd) : Nat :=
  (match c.perm with
    | some p =>
      if p.op = 0 then 128 * c.tileWidth
      else if p.op = 1 then 512 * (c.descA.map Desc.rowLines).getD 0
      else if p.op = 2 then 512 * (c.descOut.map Desc.rowLines).getD 0
      else 0
    | none => 0)
  + (match c.win with | some w => if w.op = 6 then 8 * (w.k + 1) else 0 | none => 0)
  + ([c.descA, c.descB, c.descOut].filter fun d => (d.map fun x => x.target == 1).getD false).length * 1024

/-- gamma of R197. -/
def Cmd.gamma (c : Cmd) : Nat := 4 * (c.stages - 1)

/-- Chunk size C: `some none` when nothing bounds it, none when no chunk of 32 elements fits (SILO_STAGE). -/
def Cmd.chunk (c : Cmd) (e : Env) : Option (Option Nat) :=
  let d := e.cfg.siloBytes
  let unit := 2 * c.beta e + 32 * c.gamma
  if unit = 0 then (if c.fixedNeed ≤ d then some none else none)
  else
    match (List.range 26).reverse.find? fun k => decide (32 * 2 ^ k * unit + 32 * c.fixedNeed ≤ 32 * d) with
    | some k => some (some (32 * 2 ^ k))
    | none => none

/-- Lane rate times four, so that strict mode divides exactly (R198, R240). -/
def Cmd.rate4 (c : Cmd) : Nat :=
  let native := (c.alu.map fun a => a.cf == 3).getD false
  let simple := c.func.isNone && c.win.isNone && c.conv.isNone && !(c.permIs 1) && !(c.permIs 2)
  let w := (c.inFmt c.inA).bits
  let r := if native && simple then 1024 / (if w = 6 then 8 else w) else 32
  if c.strict then r else 4 * r

/-- Compute cycles of m elements. -/
def Cmd.computeCycles (c : Cmd) (m : Nat) : Nat := (4 * m + c.rate4 - 1) / c.rate4

/-- Added cycles for each completed TOPK row. -/
def Cmd.topkAdded (c : Cmd) : Nat :=
  match c.win with
  | some w => if w.op = 6 then 8 + 2 * ((w.k + 1 + 31) / 32) else 0
  | none => 0

/-- Λ of R198. -/
def Cmd.lam (c : Cmd) : Nat := 2 + 2 * c.stages

/-! ## Lines of a chunk -/

/-- Merge consecutive repeats. -/
def mergeRuns : List Nat → List Nat
  | a :: b :: l => if a = b then mergeRuns (b :: l) else a :: mergeRuns (b :: l)
  | l => l

/-- Lines of a scratchpad stream over indices taken in order (R199). -/
def streamLines (d : Desc) (is : List (List Nat)) : List Nat := mergeRuns (is.flatMap fun i => bitLines (d.bitAddr i) d.width)

/-- Bytes taken in order as runs in one line each: the line, and its bytes (R199). -/
def byteRuns : List Nat → List (Nat × List Nat)
  | [] => []
  | a :: as =>
    match byteRuns as with
    | [] => [(a / 512, [a])]
    | (l, bs) :: rs => if l = a / 512 then (l, a :: bs) :: rs else (a / 512, [a]) :: (l, bs) :: rs

/-- Bytes of w bits from a bit address. -/
def bitBytes (bit w : Nat) : List Nat := (List.range ((bit % 8 + w + 7) / 8)).map (bit / 8 + ·)

/-- The lines that a stream writes over indices taken in order, with the bytes written in each (R199). -/
def streamRuns (d : Desc) (is : List (List Nat)) : List (Nat × List Nat) :=
  byteRuns (is.flatMap fun i => bitBytes (d.bitAddr i).toNat d.width)

/-- Indices of a companion over a stream's indices. -/
def bushelIdx (d : Desc) (is : List (List Nat)) : List (List Nat) := is.map fun i => i.set 0 (i.getD 0 0 / d.bushel)

/-- What a chunk does: its elements' indices, the output indices that belong to it, rows completed, and its place. -/
structure Chunk where
  els : List (List Nat)
  outs : List (List Nat)
  rows : Nat
  isLast : Bool
deriving DecidableEq, Repr

/-- Indices of a range of element numbers of a box. -/
def boxSlice (b : Box) (lo n : Nat) : List (List Nat) := (List.range n).map fun k => b.nth (lo + k)

/-- Elements of each of a core's chunks but the last, for a share of m elements (R197). -/
def Cmd.chunkSize (c : Cmd) (e : Env) (m : Nat) : Nat :=
  match c.chunk e with
  | some (some k) => k
  | _ => m

/-- The outputs of a core in ascending L of OUT, each with the chunk that it belongs to (R199). -/
def Cmd.outs (c : Cmd) (e : Env) (rank : Nat) : List (Nat × List Nat) :=
  let b := c.share e.nCores rank
  let ob := c.outBox b
  if b.count = 0 then []
  else (boxSlice ob 0 ob.count).map fun o => (b.rankOf (c.srcIdx o) / c.chunkSize e b.count, o)

def Cmd.outChunks (c : Cmd) (e : Env) (rank : Nat) : List Nat := (c.outs e rank).map (·.1)

/-- The chunks of a core's share (R197, R199). -/
def Cmd.chunks (c : Cmd) (e : Env) (rank : Nat) : List Chunk :=
  let b := c.share e.nCores rank
  let m := b.count
  if m = 0 then []
  else
    let size := c.chunkSize e m
    let outs := c.outs e rank
    (List.range ((m + size - 1) / size)).map fun j =>
      let mine := (outs.filter fun x => x.1 == j).map (·.2)
      { els := boxSlice b (j * size) (min size (m - j * size)), outs := mine
        rows := if c.reduces then mine.length / c.rowOuts else 0
        isLast := decide ((j + 1) * size ≥ m) }

/-! ## One core -/

/-- A core while a command is timed. `prod` gives the chunk of each output in ascending L of OUT; `wd` lists write completions by chunk,
`ready` results' ready cycles; `stat` holds first and last grant and count of each stream; `rowAt` the first grants and data cycles of
gathered rows, `spans` the first grants of scattered ones, `reads` the other lines read: whether on SP_RD_A, line, grant; `puts` the lines
written: the stream, the line, its grant and the bytes. -/
structure CoreT where
  x : Pos
  chunks : List Chunk
  prod : List Nat
  used : List Nat
  p : PosT
  rel : Nat
  tA : Nat
  tB : Nat
  tW : Nat
  cend : Nat
  wd : List Nat
  ready : List Nat
  wrote : Bool
  stat : List (Nat × Nat × Nat)
  rowAt : List (List Nat × Nat × Nat)
  spans : List (List Nat × Nat)
  lines : List (Nat × Nat)
  reads : List (Bool × Nat × Nat)
  puts : List (Nat × Nat × Nat × List Nat)
  holds : List (Nat × Nat × Nat)
  wr : List (Nat × Nat)
deriving DecidableEq, Repr

/-- hold(x) of R307. -/
def holdOf (h : List (Nat × Nat × Nat)) (line : Nat) : Nat :=
  h.foldl (fun m r => if r.1 ≤ line ∧ line ≤ r.2.1 then max m r.2.2 else m) 0

/-- The latest ready cycle over a range of lines. -/
def holdRange (h : List (Nat × Nat × Nat)) (lo hi : Nat) : Nat :=
  h.foldl (fun m r => if r.1 ≤ hi ∧ lo ≤ r.2.1 then max m r.2.2 else m) 0

/-- hold_all. -/
def holdAll (h : List (Nat × Nat × Nat)) : Nat := h.foldl (fun m r => max m r.2.2) 0

/-- Lines of an entry's two regions (R333, R348). -/
def entryRegions (en : Entry) : List (Nat × Nat) :=
  [(en.dataLine, en.dataLine + en.dataBytes / 512 - 1), (en.scaleLine, en.scaleLine + en.scaleBytes / 512 - 1)]

/-- hold_e of R350. -/
def holdEntry (h : List (Nat × Nat × Nat)) (en : Entry) : Nat :=
  (entryRegions en).foldl (fun m r => max m (holdRange h r.1 r.2)) 0

/-- Record a grant in a stream's statistics. -/
def statAdd (st : List (Nat × Nat × Nat)) (k g : Nat) : List (Nat × Nat × Nat) :=
  match st[k]? with
  | some (f, _, n) => st.set k (if n = 0 then (g, g, 1) else (f, g, n + 1))
  | none => st

/-- Read lines on SP_RD_A (chan 0) or SP_RD_B (chan 1): stream number k, arrival so far. -/
def readLines (cfg : Cfg) (isA : Bool) (k gate : Nat) (c : CoreT) (arrive : Nat) (ls : List Nat) : CoreT × Nat :=
  ls.foldl (fun (acc : CoreT × Nat) line =>
    let (c, arr) := acc
    let g := grantAt cfg c.x line (max (if isA then c.tA else c.tB) (max gate (holdOf c.p.holds line)))
    let c := { c with stat := statAdd c.stat k g, lines := (line, g) :: c.lines, reads := (isA, line, g) :: c.reads }
    (if isA then { c with tA := g + 1 } else { c with tB := g + 1 }, max arr (g + 6))) (c, arrive)

/-- Write lines on SP_WR, each with its bytes: stream number k. -/
def writeLines (cfg : Cfg) (k ready : Nat) (c : CoreT) (ls : List (Nat × List Nat)) : CoreT × Nat :=
  ls.foldl (fun (acc : CoreT × Nat) (r : Nat × List Nat) =>
    let (c, _) := acc
    let g := grantFree cfg c.used c.x r.1 (c.used.length + 1) (max c.tW ready)
    ({ c with tW := g + 1, wrote := true, stat := statAdd c.stat k g, puts := (k, r.1, g, r.2) :: c.puts
              holds := (r.1, r.1, ready) :: c.holds, wr := (g, g + 1) :: c.wr }, g)) (c, ready)

/-- ctx_spans of R350: next cycle and last grant. -/
def ctxSpans (e : Env) (x : Pos) (d : Desc) (is : List (List Nat)) (start : Nat) : Nat × Nat :=
  let t0 := firstGrant x start
  let n := e.cfg.nSlice
  let entries := (List.range (d.sizeAt 2)).filterMap fun k =>
    let cnt := (is.filter fun i => i.getD 2 0 == k).length
    if cnt = 0 then none else some (e.entry (d.entry + k), cnt)
  entries.foldl (fun acc (en, cnt) =>
    [cnt * en.tierBits / 8, cnt / en.scaleDiv].foldl (fun (acc : Nat × Nat) bytes =>
      let l := (bytes + 511) / 512 + 1
      (acc.1 + 4 * (n + l - 1), acc.1 + 4 * (n + l - 2))) acc) (t0, t0)

/-- The lines, with their bytes, that a chunk's elements reach in an entry's data region, and in its scale region; `pos` gives an element's
position (R333, R350). -/
def ctxRuns (en : Entry) (pos : List Nat → Nat) (is : List (List Nat)) : List (List (Nat × List Nat)) :=
  [byteRuns (is.flatMap fun i => bitBytes (en.dataAddr (pos i) * 8 + i.getD 0 0 * en.tierBits) en.tierBits),
    byteRuns (is.map fun i => en.scaleAddr (pos i) + i.getD 0 0 / en.scaleDiv)]

/-- The grants of a context chunk's lines within its spans, each with its bytes. `keep` says which elements reach a line (R346, R350). -/
def ctxGrants (e : Env) (x : Pos) (d : Desc) (is : List (List Nat)) (pos : Nat → List Nat → Nat) (keep : Nat → List Nat → Bool)
    (start : Nat) : List (Nat × Nat × List Nat) :=
  let n := e.cfg.nSlice
  ((List.range (d.sizeAt 2)).foldl (fun (acc : List (Nat × Nat × List Nat) × Nat) k =>
    let mine := is.filter fun i => i.getD 2 0 == k
    let en := e.entry (d.entry + k)
    if mine.isEmpty then acc
    else ((ctxRuns en (pos (d.entry + k)) (mine.filter (keep (d.entry + k)))).zip [mine.length * en.tierBits / 8, mine.length / en.scaleDiv]).foldl
      (fun acc (rs, bytes) =>
        let first := grantAt e.cfg x ((rs.head?.map (·.1)).getD 0) acc.2
        (acc.1 ++ ((List.range rs.length).zip rs).map (fun (j, r) => (r.1, first + 4 * j, r.2)), acc.2 + 4 * (n + (bytes + 511) / 512)))
      acc) ([], firstGrant x start)).1

/-- Record the grants of a list of lines in a stream's statistics. -/
def CoreT.statAll (t : CoreT) (k : Nat) (gs : List Nat) : CoreT := { t with stat := gs.foldl (fun st g => statAdd st k g) t.stat }

/-- The grants of a staged row's lines as the loader counts them, from the first of its span on (R206, R304; notes/assumptions/99). -/
def rowGrants (g0 lam : Nat) : List Nat := (List.range lam).map fun k => g0 + 4 * k

/-- The latest hold over the entries a chunk touches. -/
def ctxHold (e : Env) (h : List (Nat × Nat × Nat)) (d : Desc) (is : List (List Nat)) : Nat :=
  (List.range (d.sizeAt 2)).foldl (fun m k =>
    if is.any (fun i => i.getD 2 0 == k) then max m (holdEntry h (e.entry (d.entry + k))) else m) 0

/-- Rows whose first element, or last element, lies in a chunk. -/
def rowStarts (is : List (List Nat)) : List (List Nat) := is.filter fun i => i.getD 0 0 == 0
def rowEnds (s0 : Nat) (is : List (List Nat)) : List (List Nat) := is.filter fun i => i.getD 0 0 + 1 == s0

/-- IN_A's elements that a chunk takes under SHUFFLE, in ascending L of IN_A (R199, R299, R300; DESIGN CHOICE,
notes/assumptions/100). -/
def Cmd.shuffleReads (c : Cmd) (pattern : Nat) (els : List (List Nat)) : List (List Nat) :=
  let src := els.filterMap (shuffleIdx pattern (c.space.getD 0 1))
  let key (i : List Nat) : Nat := (linIdx c.space i).toNat
  (src.map key).mergeSort.eraseReps.filterMap fun l => src.find? fun i => key i == l

/-- Read one input slot's stream of a chunk on its channel; a SHUFFLE reads the lines of IN_A in ascending L (notes/assumptions/100). -/
def readInput (e : Env) (c : Cmd) (isA : Bool) (ch : Chunk) (gate : Nat) (t : CoreT) (arrive : Nat) : CoreT × Nat :=
  match (if isA then c.descA else c.descB) with
  | none => (t, arrive)
  | some d =>
    let k0 := if isA then 0 else 2
    if d.target = 1 then
      let start := max (if isA then t.tA else t.tB) (max gate (ctxHold e t.p.holds d ch.els))
      let (nx, last) := ctxSpans e t.x d ch.els start
      let gs := ctxGrants e t.x d ch.els (fun _ i => d.start + i.getD 1 0) (fun _ _ => true) start
      let t := CoreT.statAll { t with reads := (gs.map fun r => (isA, r.1, r.2.1)) ++ t.reads } k0 (gs.map (·.2.1))
      (if isA then { t with tA := nx } else { t with tB := nx }, max arrive (last + 10))
    else if isA && c.permIs 1 then (t, arrive)
    else
      let is := match c.perm with
        | some p => if isA && p.op == 3 then c.shuffleReads p.pattern ch.els else ch.els
        | none => ch.els
      let (t, a) := readLines e.cfg isA k0 gate t arrive (streamLines d is)
      match c.companion d with
      | some s => readLines e.cfg isA (k0 + 1) gate t a (streamLines s (bushelIdx d is))
      | none => (t, a)

/-- The index descriptor's lines, on SP_RD_B in the chunk that holds a row's first element (R304). -/
def readIndex (e : Env) (c : Cmd) (ch : Chunk) (gate : Nat) (t : CoreT) (arrive : Nat) : CoreT × Nat :=
  match c.indexDesc with
  | none => (t, arrive)
  | some d => readLines e.cfg false 4 gate t arrive (streamLines d (rowStarts ch.els))

/-- Gathered rows of a chunk (R304). -/
def gatherRows (e : Env) (c : Cmd) (ch : Chunk) (gate : Nat) (t : CoreT) (arrive : Nat) : CoreT × Nat :=
  match c.descA, c.indexDesc with
  | some d, some x =>
    let lam := d.rowLines
    let n := e.cfg.nSlice
    let t := (rowStarts ch.els).foldl (fun (t : CoreT) i =>
      let line := (bitLines (x.bitAddr i) 32).headD 0
      let ix := ((t.lines.find? fun l => l.1 == line).map (·.2 + 6)).getD 0
      let g0 := firstGrant t.x (max (max t.tA gate) (max (ix + 2) (holdAll t.p.holds)))
      { t with tA := g0 + 4 * (n + lam - 1), rowAt := (i, g0, g0 + 4 * (n + lam - 2) + 6) :: t.rowAt }.statAll 0 (rowGrants g0 lam)) t
    (t, ch.els.foldl (fun a i => max a (((t.rowAt.find? fun r => r.1 == setIdx i 0 0).map (·.2.2)).getD 0)) arrive)
  | _, _ => (t, arrive)

/-- Scattered rows of a chunk: the last grant of the last span (R304). -/
def scatterRows (e : Env) (c : Cmd) (ch : Chunk) (ready : Nat) (t : CoreT) : CoreT × Nat :=
  match c.descOut with
  | some d =>
    let lam := d.rowLines
    let n := e.cfg.nSlice
    (rowEnds (c.space.getD 0 1) ch.els).foldl (fun (acc : CoreT × Nat) i =>
      let (t, _) := acc
      let g0 := firstGrant t.x (max t.tW ready)
      let w := g0 + 4 * (n + lam - 2)
      ({ t with tW := g0 + 4 * (n + lam - 1), wrote := true, spans := (setIdx i 0 0, g0) :: t.spans
                holds := (0, 2 ^ 31, w) :: t.holds, wr := (g0, g0 + 4 * (n + lam - 1)) :: t.wr }.statAll 5 (rowGrants g0 lam), w)) (t, ready)
  | none => (t, ready)

/-- Scale-note lines of a core's record (R233). -/
def noteLines (c : Cmd) (rank : Nat) : List (Nat × List Nat) :=
  match c.noteDesc with
  | some d =>
    let r := if c.hdr.split = 4 then 0 else rank
    streamRuns d ((List.range 8).map fun k => [k, r, 0, 0])
  | none => []

/-- The writes of a chunk: its wdone (R199, R304, R350, R394). `xfer` is the transfer number of a network send. -/
def writeChunk (e : Env) (c : Cmd) (xfer : Nat) (ch : Chunk) (ready : Nat) (t : CoreT) : CoreT × Nat :=
  let (t, w) : CoreT × Nat := match c.descOut with
    | some d =>
      if d.target = 2 then
        let last := ch.outs.foldl (fun m i => max m (linIdx d.size i).toNat) 0
        if ch.outs.isEmpty then (t, ready)
        else (t, (e.sendCircuits d.entry).foldl (fun m k => max m (e.sendPoint k d.width xfer last)) 0)
      else if d.target = 1 then
        let start := max t.tW (ready + 4)
        let (nx, last) := ctxSpans e t.x d ch.outs start
        let gs := ctxGrants e t.x d ch.outs (fun k i => (e.entry k).cursor + i.getD 1 0)
          (fun k i => decide (i.getD 1 0 < e.appendRows k (d.sizeAt 1))) start
        let regs := (List.range (d.sizeAt 2)).flatMap fun k =>
          if ch.outs.any fun i => i.getD 2 0 == k then entryRegions (e.entry (d.entry + k)) else []
        if ch.outs.isEmpty then (t, ready)
        else
          (CoreT.statAll { t with tW := nx, wrote := true, puts := (gs.map fun r => (5, r.1, r.2.1, r.2.2)) ++ t.puts
                                  holds := (regs.map fun r => (r.1, r.2, ready + 4)) ++ t.holds, wr := (start, nx) :: t.wr } 5 (gs.map (·.2.1)),
            last)
      else if c.permIs 2 then scatterRows e c ch ready t
      else
        let (t, w) := writeLines e.cfg 5 ready t (streamRuns d ch.outs)
        match c.companion d with
        | some s =>
          let ls := streamRuns s (bushelIdx d ch.outs)
          if ls.isEmpty then (t, w) else writeLines e.cfg 6 ready t ls
        | none => (t, w)
    | none => (t, ready)
  if ch.isLast then
    let ls := noteLines c t.x.rank
    if ls.isEmpty then (t, w)
    else
      let (t, w') := writeLines e.cfg 7 ready t ls
      (t, max w w')
  else (t, w)

/-- Chunk j of a core: reads, compute and writes. `wd` of a prologue command is fixed afterwards. -/
def chunkStep (e : Env) (c : Cmd) (xfer j : Nat) (t : CoreT) : CoreT :=
  match t.chunks[j]? with
  | none => t
  | some ch =>
    let prev := if j = 0 then t.p.wd2 else if j = 1 then t.p.wd1 else t.wd.getD (j - 2) 0
    let fGate := if j = 0 && t.p.lastF.isSome && t.p.lastF != some c.fixedNeed then t.p.cmdW else 0
    let gate := max (t.rel + 2) (max prev fGate)
    let (t, a) := readInput e c true ch gate t gate
    let (t, a) := readInput e c false ch gate t a
    let (t, a) := readIndex e c ch gate t a
    let (t, a) := if c.permIs 1 then gatherRows e c ch gate t a else (t, a)
    let cend := max a t.cend + c.computeCycles ch.els.length + c.topkAdded * ch.rows
    let ready := cend + c.lam
    let (t, w) := writeChunk e c xfer ch ready { t with cend := cend }
    { t with wd := t.wd ++ [w], ready := t.ready ++ [ready] }

/-! ## Prologue beats (R319) -/

/-- Width of the elements on MC_PRO (R316). -/
def Cmd.proWidth (c : Cmd) (e : Env) : Nat :=
  match c.out with
  | some o =>
    let ch := Chain.ofMem e.chains e.seq o.chain
    let f := if o.pkind = 2 ∨ ch.proN = 0 then o.sfmt else ch.proFmt
    ((Fmt.ofCode f).getD .fp32).bits
  | none => 32

/-- Beats that a share of m elements needs. -/
def beatsOf (w m : Nat) : Nat := (m * w + 511) / 512

/-- The ready cycle that beat b waits for on one core, if known: the latest of the chunks that hold its elements (R319;
notes/assumptions/26). -/
def CoreT.beatReady (t : CoreT) (w b : Nat) : Option Nat :=
  let lo := 512 * b / w
  let hi := min t.prod.length ((512 * (b + 1) + w - 1) / w)
  ((t.prod.drop lo).take (hi - lo)).foldl (fun m j => match m, t.ready[j]? with
    | some a, some r => some (max a r)
    | _, _ => none) (some 0)

/-- Present the beats whose elements are all ready: at most n more. -/
def extendBeats (w gate : Nat) (ts : List CoreT) (total : Nat) : Nat → List Nat → List Nat
  | 0, ps => ps
  | n + 1, ps =>
    let b := ps.length
    if total ≤ b then ps
    else
      match ts.mapM fun t => t.beatReady w b with
      | none => ps
      | some qs =>
        let q := qs.foldl max 0 + 8
        let p := match ps.getLast? with
          | some l => max (l + 1) q
          | none => max gate q
        extendBeats w gate ts total n (ps ++ [p])

/-- The last output that belongs to chunk j, counted from 1; 0 when none does. -/
def CoreT.lastOut (t : CoreT) (j : Nat) : Nat :=
  ((List.range t.prod.length).zip t.prod).foldl (fun m x => if x.2 = j then x.1 + 1 else m) 0

/-- Write completions of a prologue command's chunks so far: the beat that holds a chunk's last element, or its ready cycle while
that beat is not formed (notes/assumptions/26). -/
def CoreT.setProWd (t : CoreT) (w : Nat) (ps : List Nat) : CoreT :=
  { t with wd := (List.range t.ready.length).map fun j =>
      let n := t.lastOut j
      if n = 0 then t.ready.getD j 0 else ps.getD ((n * w - 1) / 512) (t.ready.getD j 0) }

/-- All cores of a command, chunk by chunk; a prologue's beats are presented as they form. -/
def runChunks (e : Env) (c : Cmd) (xfer gate w total : Nat) : Nat → Nat → List CoreT → List Nat → List CoreT × List Nat
  | 0, _, ts, ps => (ts, ps)
  | n + 1, j, ts, ps =>
    let ts := ts.map (chunkStep e c xfer j)
    if c.dst = 3 then
      let ps := extendBeats w gate ts total total ps
      runChunks e c xfer gate w total n (j + 1) (ts.map fun t => t.setProWd w ps) ps
    else runChunks e c xfer gate w total n (j + 1) ts ps

/-! ## Generations (R321, R326) -/

/-- Is beat i's arrival at t allowed: MC_HOLD at t - 2, from the beats' arrivals and processing ends (newest first)? -/
def holdAtCycle (bs : List (Nat × Nat)) (t : Nat) : Bool := decide (2 ≤ (bs.filter fun b => decide (b.1 ≤ t ∧ t < b.2)).length)

/-- The earliest cycle from t on in which a beat may come (R64). -/
def beatAt (bs : List (Nat × Nat)) : Nat → Nat → Nat
  | 0, t => t
  | n + 1, t => if 2 ≤ t && holdAtCycle bs (t - 2) then beatAt bs n (t + 1) else t

/-- n beats of c cycles each from cycle t: arrivals and ends, the newest eight kept, newest first. -/
def epiBeats (c : Nat) : Nat → Nat → List (Nat × Nat) → List (Nat × Nat)
  | 0, _, bs => bs
  | n + 1, t, bs =>
    let a := beatAt bs (4 * c + 8) t
    let fin := max a ((bs.head?.map (·.2)).getD 0) + c
    epiBeats c n (a + 1) (((a, fin) :: bs).take 8)

/-- A generation's fixed cycles (R321, R326). -/
structure GenCycles where
  n : Nat
  chain : Nat
  opened : Nat
  s : Nat
  d : Nat
  first : Nat
  k : Nat
  c : Nat
deriving DecidableEq, Repr

/-- The first epilogue beat of a generation (R321, R322): MC_HOLD is 1 while no generation is open, so it comes two cycles after the
generation's first stationary beat or later, unless the generation before it is open two cycles earlier. -/
def firstBeat (g : GenT) (epiLat : Nat) : Option Nat → Nat
  | some k =>
    let a := max (g.s + epiLat) (k + 1)
    if a ≤ k + 2 then a else max a (g.beat0 + 2)
  | none => max (g.s + epiLat) (g.beat0 + 2)

/-- The fixed cycles of every generation in order of opening. -/
def genCycles (e : Env) : List GenT → Option Nat → List (Nat × Nat) → List GenCycles
  | [], _, _ => []
  | g :: gs, kPrev, bs =>
    let ch := Chain.ofMem e.chains e.seq g.chain
    let first := beatAt bs 128 (firstBeat g ch.epiLat kPrev)
    let bs' := epiBeats ch.beatCycles ch.nBeat first bs
    let (k, fin) := bs'.headD (first, first)
    { n := g.n, chain := g.chain, opened := g.opened, s := g.s, d := g.s + ch.drainLat, first := first, k := k
      c := fin + 4 } :: genCycles e gs (some k) bs'

def Machine.Timing.genList (t : Timing) (e : Env) : List GenCycles := genCycles e t.gens none []

/-- Landing signals of the generations (R326). -/
def landingSigs (e : Env) (gs : List GenCycles) : List SigT :=
  gs.filterMap fun g =>
    let ch := Chain.ofMem e.chains e.seq g.chain
    if ch.sigEn then some { cycle := g.c, kind := 3, index := ch.sigTally, value := 1 } else none

/-- Does the newest generation still get beats from the commands that follow (R320)? -/
def moreBeats : List Cmd → Bool
  | [] => false
  | c :: cs => if c.dst = 3 then (c.out.map fun o => o.pkind != 1).getD false else moreBeats cs

/-! ## Releases and completions (R201, R202) -/

/-- The value of a flag (kind 1) or tally (kind 2) that signals of cycles before r leave, signals listed oldest first. -/
def sigValue (sigs : List SigT) (kind index r : Nat) : Nat :=
  sigs.foldl (fun v s =>
    if s.cycle < r ∧ s.index = index then
      if kind = 1 then (if s.kind = 1 then 1 else if s.kind = 2 then 0 else v)
      else (if s.kind = 3 then (v + s.value) % 2 ^ 24 else v)
    else v) 0

/-- A wait's comparison (R178). -/
def waitHolds (kind value want : Nat) : Bool :=
  if kind = 1 then value == want % 2 else decide ((value + 2 ^ 24 - want % 2 ^ 24) % 2 ^ 24 < 2 ^ 23)

/-- Insert a signal by cycle, after those of the same cycle. -/
def sigInsert (s : SigT) : List SigT → List SigT
  | [] => [s]
  | a :: l => if s.cycle < a.cycle then s :: a :: l else a :: sigInsert s l

/-- The flag and tally waits of a command; ledger-tally waits apart. -/
def Cmd.waits (c : Cmd) : List (Nat × Nat × Nat) :=
  ([c.inA, c.inB].filterMap id).filterMap fun s => if s.wkind = 1 ∨ s.wkind = 2 then some (s.wkind, s.windex, s.wvalue) else none
def Cmd.ledgerWaits (c : Cmd) : List (Nat × Nat) :=
  ([c.inA, c.inB].filterMap id).filterMap fun s => if s.wkind = 3 then some (s.windex, s.wvalue) else none

/-- Do all flag and tally waits hold in cycle r? -/
def waitsHold (sigs : List SigT) (c : Cmd) (r : Nat) : Bool := c.waits.all fun (k, i, v) => waitHolds k (sigValue sigs k i r) v

/-- A command's signal kind, index and value (R180). -/
def Cmd.signal (c : Cmd) : Nat × Nat × Nat := (c.out.map fun o => (o.skind, o.sindex, o.svalue)).getD (0, 0, 0)

/-- What the model fixes for one command. `window` is the arrival window's first cycle S of a ledger-tally wait. -/
structure CmdTime where
  rel : Nat
  window : Option Nat
  done : Nat
  cores : List CoreT
  beats : List Nat
deriving DecidableEq, Repr

/-- A position that has done nothing in the epoch. -/
def Machine.PosT.initial : PosT := ⟨0, 0, 0, 0, none, 0, [], []⟩

/-- The state of the model at the release of an epoch (R196). -/
def Machine.Timing.start (e : Env) : Timing :=
  { pos := e.ranks.map fun _ => PosT.initial, next := 0, doneMax := 0, sigs := [], slots := [none, none, none, none]
    slotEnd := [0, 0, 0, 0], lastBeat := none, gens := [], xfers := [], predW := [], swapped := none }

/-- Release by R201 of the next command; none when a flag or tally wait never holds. `rest` are the commands after it. -/
def releaseCycle (e : Env) (t : Timing) (c : Cmd) (rest : List Cmd) : Option Nat :=
  let base := if (c.hdr.kind = 2 ∨ c.hdr.kind = 3) ∧ t.doneMax ≠ 0 then max t.next (t.doneMax + 1) else t.next
  let gs := t.genList e
  let land := (landingSigs e (if moreBeats (c :: rest) then gs.dropLast else gs)).filter fun s => t.swapped.all fun w => decide (w < s.cycle)
  let sigs := land.foldl (fun l s => sigInsert s l) t.sigs
  (base :: (sigs.filterMap fun s => if base < s.cycle + 1 then some (s.cycle + 1) else none)).find? (waitsHold sigs c)

/-- The table-slot step of R273: the cycle before which no first chunk computes, and the slot state after. -/
def tableStep (t : Timing) (c : Cmd) (rel : Nat) : Nat × List (Option (Nat × Nat)) :=
  match c.func with
  | some f =>
    if f.fn ≠ 4 then (0, t.slots)
    else
      match (t.slots.getD f.tslot none) with
      | some (idx, l0) =>
        if idx = f.tidx ∨ c.hdr.pen then (l0 + 20, t.slots)
        else let l := max rel (t.slotEnd.getD f.tslot 0); (l + 20, t.slots.set f.tslot (some (f.tidx, l)))
      | none =>
        if c.hdr.pen then (0, t.slots)
        else let l := max rel (t.slotEnd.getD f.tslot 0); (l + 20, t.slots.set f.tslot (some (f.tidx, l)))
  | none => (0, t.slots)

/-- The timing of a command that does element work, released at rel. -/
def timeCompute (e : Env) (t : Timing) (c : Cmd) (rel : Nat) (logical : Nat) : Timing × CmdTime :=
  let (load, slots) := tableStep t c rel
  let arr := e.arrivals logical
  let xfer := match c.descOut with
    | some d => if d.target = 2 then ((t.xfers.find? fun x => x.1 == d.entry).map (·.2)).getD 0 else 0
    | none => 0
  let mk (x : Pos) (p : PosT) : CoreT :=
    { x := x, chunks := c.chunks e x.rank, prod := c.outChunks e x.rank
      used := arrivalGrants e.cfg x (arr.filter fun a => a.home == x.die * e.cfg.nActive + x.idx)
      p := p, rel := rel, tA := rel + 2, tB := rel + 2, tW := max (rel + 2) p.twNext, cend := max p.cendPrev load, wd := []
      ready := [], wrote := false, stat := List.replicate 8 (0, 0, 0), rowAt := [], spans := [], lines := [], reads := [], puts := [], holds := [], wr := [] }
  let ts0 := (e.ranks.zip t.pos).map fun (r, p) => mk (e.pos r) p
  let w := c.proWidth e
  let total := if c.dst = 3 then (ts0.map fun x => beatsOf w x.prod.length).foldl max 0 else 0
  let gs := t.genList e
  let stationary := c.dst == 3 && (c.out.map fun o => o.pkind == 1).getD false
  let gate1 := match gs.getLast? with
    | some g => if stationary then g.d + 1 else 0
    | none => 0
  let gate2 := match gs.dropLast.getLast? with
    | some g => if stationary then g.k + 1 else 0
    | none => 0
  let gate := max (match t.lastBeat with | some b => b + 1 | none => 0) (max gate1 gate2)
  let (ts, ps) := runChunks e c xfer gate w total ((ts0.map fun x => x.chunks.length).foldl max 0) 0 ts0 []
  let doneOf (x : CoreT) : Nat := if x.chunks.isEmpty then rel + 4 else x.wd.getLastD (rel + 4)
  let done0 := max (rel + 4) (max ((ts.map doneOf).foldl max 0) (ps.getLastD 0))
  let done := if (c.win.map WinSlot.pset).getD false then done0 + 4 else done0
  let lastread := ts.foldl (fun m x => max m (max x.tA x.tB - 1)) (rel + 1)
  let pos := ts.map fun x =>
    if x.chunks.isEmpty then x.p
    else
      { twNext := if x.wrote then x.tW else x.p.twNext, cendPrev := x.cend
        wd1 := x.wd.getLastD 0, wd2 := if 2 ≤ x.wd.length then x.wd.getD (x.wd.length - 2) 0 else x.p.wd1
        lastF := some c.fixedNeed, cmdW := x.wd.foldl max 0, holds := x.holds ++ x.p.holds, wr := x.wr ++ x.p.wr : PosT }
  let slotEnd := match c.func with
    | some f => if f.fn = 4 then t.slotEnd.set f.tslot (ts.foldl (fun m x => if x.chunks.isEmpty then m else max m x.cend)
        (t.slotEnd.getD f.tslot 0)) else t.slotEnd
    | none => t.slotEnd
  let fed := if 2 ≤ e.dies then rel + 20 * ((c.len + 223) / 224) else 0
  let gens := match c.out with
    | some o =>
      if c.dst ≠ 3 then t.gens
      else if o.pkind = 1 then t.gens ++ [⟨t.gens.length, o.chain, rel, ps.headD rel, ps.getLastD rel⟩]
      else
        match t.gens.getLast? with
        | some g => t.gens.dropLast ++ [{ g with s := ps.getLastD g.s }]
        | none => t.gens
    | none => t.gens
  let xfers := match c.descOut with
    | some d => if d.target = 2 then (d.entry, xfer + 1) :: t.xfers.filter (fun x => x.1 != d.entry) else t.xfers
    | none => t.xfers
  ({ t with pos := pos, next := max (max (rel + 4) (lastread + 1)) fed, doneMax := max t.doneMax done, slots := slots
            slotEnd := slotEnd, lastBeat := (match ps.getLast? with | some p => some p | none => t.lastBeat), gens := gens
            xfers := xfers }, { rel := rel, window := none, done := done, cores := ts, beats := ps })

/-- The timing of a command that does no element work: SYNC, END and zero-length commands complete at release + 4 (R202); a
zero-length table command loads its slot (R273); END waits for every generation (R328). -/
def timeSimple (e : Env) (t : Timing) (c : Cmd) (rel : Nat) : Timing × CmdTime :=
  let (_, slots) := tableStep t c rel
  let done := if c.hdr.kind = 3 then (t.genList e).foldl (fun m g => max m (max (g.c + 1) (g.d + 1))) (rel + 4) else rel + 4
  let fed := if 2 ≤ e.dies then rel + 20 * ((c.len + 223) / 224) else 0
  let xfers := match c.descOut with
    | some d => if d.target = 2 then
        (d.entry, ((t.xfers.find? fun x => x.1 == d.entry).map (·.2)).getD 0 + 1) :: t.xfers.filter (fun x => x.1 != d.entry)
      else t.xfers
    | none => t.xfers
  ({ t with next := max (rel + 4) fed, doneMax := max t.doneMax done, slots := slots, xfers := xfers },
   { rel := rel, window := none, done := done, cores := [], beats := [] })

/-- The positions' states under a program whose group may differ from the one before it. -/
def Machine.Timing.regroup (t : Timing) (old new : Env) : Timing :=
  let was : List (Pos × PosT) := (old.ranks.map old.pos).zip t.pos
  { t with pos := new.ranks.map fun r =>
      let x := new.pos r
      ((was.find? fun y => y.1.die == x.die && y.1.idx == x.idx).map (·.2)).getD PosT.initial }

/-- Fetch latency after a SWAP (R185, R186, R203). -/
def Env.fetch (e : Env) : Nat := if 2 ≤ e.dies then 240 else 10

/-- The model after a SWAP released at rel (R192, R272): flags, tallies, predicates and table slots are cleared, and the new
program's first bundle is fetched at the SWAP's completion. Grants go on counting from the epoch's release (R194, R201), so the new program
need not take the length that R203 gives it alone (DESIGN CHOICE, notes/assumptions/101). -/
def timeSwap (e : Env) (t : Timing) (rel : Nat) : Timing × CmdTime :=
  ({ t with next := rel + 4 + e.fetch, doneMax := max t.doneMax (rel + 4), sigs := t.sigs.filter fun s => decide (rel < s.cycle)
            slots := [none, none, none, none], slotEnd := [0, 0, 0, 0], predW := [], swapped := some rel },
   { rel := rel, window := none, done := rel + 4, cores := [], beats := [] })

/-- Time the next command; none when one of its waits is never met (R179, R201). Flags, tallies and predicates are waited for first, then the
ledger tally, 9 cycles on (R209); a flag that falls between is not looked at again (DESIGN CHOICE, notes/assumptions/108). -/
def timeCmd (e : Env) (t : Timing) (c : Cmd) (rest : List Cmd) (logical : Nat) : Option (Timing × CmdTime) :=
  (releaseCycle e t c rest).map fun s =>
    let rel := if c.ledgerWaits.isEmpty then s else s + 10
    let (t, ct) :=
      if c.hdr.kind = 2 then timeSwap e t rel
      else if c.isCompute && !c.zeroLen then timeCompute e t c rel logical
      else timeSimple e t c rel
    let (k, i, v) := c.signal
    let t := if k = 0 then t else { t with sigs := sigInsert ⟨ct.done, k, i, v⟩ t.sigs }
    let t := match c.win with
      | some w => if w.pset && !c.zeroLen then { t with predW := (w.pidx, ct.done) :: t.predW } else t
      | none => t
    (t, { ct with window := if c.ledgerWaits.isEmpty then none else some s })

end Sys2Proof
end

