-- ==== Sys2Proof/Machine/RegView.lean ====
section
/-! DEFINITION. Reaching the parts of State, and the words that its read-only registers show (03 R99, 13 R330, 15 R381, 16 R419,
17 R439, 18 R446-R455). -/

namespace Sys2Proof.Machine

/-! ## Parts -/

def State.seqAt (s : State) (i : Nat) : Sequencer := s.seqs.getD i Sequencer.initial
def State.domAt (s : State) (d : Nat) : DomColl := s.coll.doms.getD d DomColl.initial
def State.partAt (s : State) (d : Nat) : Domain := s.parts.getD d Domain.initial
def State.portAt (s : State) (p : Nat) : Port := s.ports.getD p Port.initial
def State.mbxAt (s : State) (m : Nat) : Mailbox := s.mbx.getD m (Mailbox.initial m)

def State.onSeq (s : State) (i : Nat) (f : Sequencer → Sequencer) : State := { s with seqs := s.seqs.modify i f }
def State.onPart (s : State) (d : Nat) (f : Domain → Domain) : State := { s with parts := s.parts.modify d f }
def State.onPort (s : State) (p : Nat) (f : Port → Port) : State := { s with ports := s.ports.modify p f }
def State.onMbx (s : State) (m : Nat) (f : Mailbox → Mailbox) : State := { s with mbx := s.mbx.modify m f }
def State.onKol (s : State) (f : Kolate → Kolate) : State := { s with kol := f s.kol }
def State.onGln (s : State) (f : Gleaner → Gleaner) : State := { s with gln := f s.gln }
def State.onAon (s : State) (f : Aon → Aon) : State := { s with aon := f s.aon }
def State.onBoot (s : State) (f : Boot → Boot) : State := { s with boot := f s.boot }
def State.onWin (s : State) (f : Windows → Windows) : State := { s with win := f s.win }
def State.onCoup (s : State) (f : Coupler → Coupler) : State := { s with coup := f s.coup }
def State.onCores (s : State) (f : Cores → Cores) : State := { s with cores := f s.cores }
def State.onColl (s : State) (f : Coll → Coll) : State := { s with coll := f s.coll }

def State.onDom (s : State) (d : Nat) (f : DomColl → DomColl) : State :=
  s.onColl fun c => { c with doms := c.doms.modify d f }

/-- Bits [lo + n - 1 : lo] of a word. -/
def field (w : Word) (lo n : Nat) : Nat := w.toNat / 2 ^ lo % 2 ^ n

/-- A flag as a number. -/
def bit01 (b : Bool) : Nat := if b then 1 else 0

/-- A word of a sum of placed fields. -/
def word (n : Nat) : Word := BitVec.ofNat 64 n

/-- Is the power state one in which the ready message has been sent and the block has not halted? -/
def Power.serves : Power → Bool
  | .running | .maintenance => true
  | _ => false

/-- Power states after the ready message (R93). -/
def Power.afterReady : Power → Bool
  | .running | .maintenance | .halted => true
  | _ => false

/-! ## Ports -/

def PortState.code : PortState → Nat
  | .absent => 0
  | .down => 1
  | .training => 2
  | .maintOnly => 3
  | .up => 4
  | .bypass => 5

/-- Has the port completed training (R98)? -/
def Port.trained (p : Port) : Bool :=
  match p.state with
  | .up | .maintOnly => true
  | _ => false

/-- A port's class strap. -/
def State.strap (s : State) (p : Nat) : Nat := (s.boot.straps.cls.getD p 0).toNat

/-- Does the strap name the class of the port's position (R69)? -/
def State.strapValid (s : State) (p : Nat) : Bool := decide (s.strap p ≠ 0 ∧ s.strap p = s.cfg.portClass p)

/-- PORT_STATUS[p] word 0 (R381). -/
def State.portStatus0 (s : State) (p : Nat) : Word :=
  let q := s.portAt p
  word (q.state.code + q.step % 8 * 16 + q.reason.toNat * 256 + s.strap p * 65536 + bit01 q.los * 2 ^ 19 + bit01 q.drift * 2 ^ 20
    + q.neighPort.toNat * 2 ^ 24 + q.neighLogical.toNat * 2 ^ 32)

/-- A signed count as an 8-bit field. -/
def byteOf (n : Nat) : Nat := n % 256

/-- PORT_STATUS[p] words 0 to 3 (R381). -/
def State.portStatus (s : State) (p w : Nat) : Word :=
  let q := s.portAt p
  match w with
  | 0 => s.portStatus0 p
  | 1 => word (q.lIn % 65536 + q.lOut % 65536 * 2 ^ 16 + byteOf q.pad * 2 ^ 32 + byteOf q.wMin * 2 ^ 40 + byteOf q.wMax * 2 ^ 48
      + q.frameOff % 8 * 2 ^ 56)
  | 2 => word (q.corrCells.toNat + q.corrSymbols.toNat * 2 ^ 32)
  | _ => word (q.poisoned.toNat + q.missing.toNat * 2 ^ 16 + q.replays.toNat * 2 ^ 32 + q.tenantMismatch.toNat * 2 ^ 48)

/-- Ports with a non-zero strap that are not trained (R99); none is counted before the straps are sampled. -/
def State.portsDown (s : State) : Nat :=
  if s.boot.phase = 0 then 0
  else ((List.range s.cfg.nPort).filter fun p => s.strap p != 0 && !(s.portAt p).trained).length

/-! ## Start-up registers (R99) -/

/-- BOOT_STATUS. -/
def State.bootStatus (s : State) : Word :=
  word (s.boot.phase.toNat + s.boot.reason.toNat * 256 + bit01 s.boot.debugOpened * 2 ^ 16 + bit01 (s.aon.fatal != 0) * 2 ^ 17
    + min s.boot.attempts 255 * 2 ^ 24 + s.boot.fenced % 256 * 2 ^ 32 + s.portsDown % 256 * 2 ^ 40)

def Cause.code : Cause → Nat
  | .powerOn => 0
  | .coldPin => 1
  | .coldSupply => 2
  | .warm => 3

/-- RESET_CAUSE. -/
def State.resetCauseWord (s : State) : Word := word (s.aon.resetCause.code + s.aon.resetReason.toNat * 256)

/-! ## Identity, capabilities and parameters (R446-R448) -/

/-- CONFIG. -/
def State.configWord (s : State) : Word :=
  let c := s.cfg
  word (c.nActive + c.nSpare * 2 ^ 8 + c.nPort * 2 ^ 16 + c.siloKib * 2 ^ 24 + c.nSlice * 2 ^ 32 + c.nSeq * 2 ^ 40
    + c.partNumber.toNat * 2 ^ 48)

/-- IDCODE (R76). -/
def State.idcode (s : State) : BitVec 32 :=
  BitVec.ofNat 32 (2 ^ 28 + s.cfg.partNumber.toNat * 2 ^ 12 + s.boot.straps.tapMfr.toNat * 2 + 1)

/-- Identity registers by offset (table "Identity registers"). DEVICE_SERIAL reads zero until the fuse words have said that keys are programmed
(notes/assumptions/32). -/
def State.identity (s : State) (a : Nat) : Option Word :=
  match a with
  | 0x00 => some blockVersion
  | 0x08 => some s.configWord
  | 0x10 => some (word (s.boot.straps.fedDies.toNat + s.boot.straps.dieId.toNat * 16 + bit01 s.boot.straps.fedMaster * 256))
  | 0x18 => some (if s.boot.keysProgrammed then s.boot.serial.setWidth 64 else 0)
  | 0x20 => some (if s.boot.keysProgrammed then (s.boot.serial >>> 64).setWidth 64 else 0)
  | 0x28 => some (s.idcode.setWidth 64)
  | 0x30 => some (s.kol.version.setWidth 64)
  | _ => none

/-- Capability entries in list order: ID, VERSION, PARAM, EXPERT (table "Capability entries"). -/
def capabilities : List (Nat × Nat × Nat × Nat) :=
  [(0x01, 0x41, 0x400, 0x100000), (0x02, 0x41, 0x440, 0x110000), (0x03, 0x41, 0x480, 0x120000), (0x04, 0x41, 0x4C0, 0x130000),
   (0x05, 0x41, 0, 0x140000), (0x06, 0x41, 0, 0x150000), (0x07, 0x41, 0, 0x160000), (0x08, 0x41, 0x500, 0x170000),
   (0x09, 0x41, 0x540, 0x180000), (0x0A, 0x41, 0x580, 0x190000), (0x0B, 0x41, 0x5C0, 0x1A0000), (0x10, 0x30, 0, 0),
   (0x11, 0x10, 0, 0), (0x12, 0x41, 0x600, 0), (0x13, 0x41, 0x640, 0)]

/-- Capability words, two for each entry (R447). -/
def capWord (i : Nat) : Option Word :=
  (capabilities[i / 2]?).map fun (id, ver, par, exp) =>
    if i % 2 = 0 then word (id + ver * 2 ^ 16 + (if i / 2 = 14 then 0 else 0x100 + 16 * (i / 2 + 1)) * 2 ^ 24)
    else word (par + exp * 2 ^ 24)

/-- Parameter block words: 64 bytes from 0x400 for each block (table "Parameter blocks"). -/
def State.paramWord (s : State) (a : Nat) : Word :=
  let c := s.cfg
  let (p, b, k, o) := c.classPorts
  let dies := s.boot.straps.fedDies.toNat + 1
  match a with
  | 0x400 => word (16 + 32 * 2 ^ 8 + c.nSeq * 2 ^ 16 + 8 * 2 ^ 24)
  | 0x408 => word (512 + 256 * 2 ^ 16)
  | 0x440 => word (c.nSeq + 8 * 2 ^ 8 + c.segBytes / 1024 * 2 ^ 16 + 256 * 2 ^ 32)
  | 0x480 => word (c.nActive + c.nSpare * 2 ^ 16 + c.siloKib * 2 ^ 24 + 16 * 2 ^ 32 + 32 * 2 ^ 40 + c.nSlice * 2 ^ 48)
  | 0x4C0 => word (32 + 4 * 2 ^ 8 + 8 * 2 ^ 16 + 1 * 2 ^ 24)
  | 0x500 => word (c.mcBytes + 8 * 2 ^ 32 + 8 * 2 ^ 40)
  | 0x540 => word (p + b * 2 ^ 8 + k * 2 ^ 16 + o * 2 ^ 24 + c.nPair * 2 ^ 32)
  | 0x580 => word (2048 + 1024 * 2 ^ 16 + 128 * 2 ^ 32)
  | 0x5C0 => word (131072 + 7 * 2 ^ 32 + 23 * 2 ^ 40)
  | 0x600 => word (dies + dies * c.nActive * 2 ^ 16)
  | 0x640 => word (4096 + 4096 * 2 ^ 16 + 512 * 2 ^ 32)
  | _ => 0

/-! ## Sequencers (R450) -/

def LoadState.code : LoadState → Nat
  | .empty => 0
  | .loading => 1
  | .armed => 2

def RunEntry.isRelease : RunEntry → Bool
  | .release .. => true
  | _ => false

/-- Does the sequencer hold a RELEASE entry or run an epoch (R450)? -/
def Sequencer.busy (q : Sequencer) : Bool := q.run.isSome || q.runq.any RunEntry.isRelease

/-- SEQ_STATE[s]. -/
def Sequencer.stateWord (q : Sequencer) : Word :=
  word (q.activeBank % 2 + q.load.code * 2 + bit01 q.busy * 8 + q.runq.length * 16 + q.epochNo.toNat * 256
    + q.lastReleased.toNat * 65536 + bit01 q.brk.isSome * 2 ^ 32 + bit01 q.stopped * 2 ^ 33)

/-- Word w of a four-word record. -/
def W4.get (r : W4) : Nat → Word
  | 0 => r.w0
  | 1 => r.w1
  | 2 => r.w2
  | _ => r.w3

/-- Does any sequencer run an epoch? -/
def State.anyEpoch (s : State) : Bool := s.seqs.any fun q => q.run.isSome

/-! ## Collectives (R419) -/

def EpochState.code : EpochState → Nat
  | .idle => 0
  | .running => 1
  | .voting => 2
  | .committing => 3
  | .aborting => 4
  | .rolled => 5

/-- EPOCH_STATE[d]. -/
def DomColl.stateWord (c : DomColl) : Word :=
  word (c.state.code + c.epoch.toNat * 2 ^ 8 + c.lastCommit.toNat * 2 ^ 16 + bit01 c.commitValid * 2 ^ 24 + c.reason.toNat * 2 ^ 32
    + bit01 c.remote * 2 ^ 40 + c.origin.toNat * 2 ^ 48)

/-- RACK_STATE. -/
def State.rackState (s : State) : Word :=
  word (bit01 s.clk.rackSynced + bit01 s.coll.timeMaster * 2 + s.coll.syncNum.toNat * 2 ^ 16 + s.coll.syncLate.toNat * 2 ^ 32)

/-! ## Cores (R439, R440) -/

/-- The position that a physical core serves or shadows. -/
def Cores.posOf (c : Cores) (k : Nat) : Option Nat :=
  match (List.range c.serve.length).find? fun g => c.serve.getD g 0 == k with
  | some g => some g
  | none => (List.range c.shadow.length).find? fun g => c.shadow.getD g none == some k

def CoreState.code : CoreState → Nat
  | .free => 0
  | .serving => 1
  | .shadowing => 2
  | .fenced => 3

/-- CORE_HEALTH of a physical core. A fenced core serves no position. -/
def Cores.health (c : Cores) (k : Nat) : Word :=
  match c.phys[k]? with
  | none => 0
  | some p =>
    let pos := match p.state with
      | .serving | .shadowing => ((c.posOf k).map fun g => g % 2048).getD 0x7FF
      | _ => 0x7FF
    word (p.corrected.toNat + p.state.code * 2 ^ 16 + bit01 p.byBist * 2 ^ 19 + pos * 2 ^ 20)

/-- POS_MAP[g]. -/
def Cores.posMap (c : Cores) (g : Nat) : Word :=
  word ((c.serve.getD g 0xFF) % 256 + (match c.shadow.getD g none with | some k => k % 256 | none => 0xFF) * 256)

/-! ## Coupler (R330) -/

/-- GEN_STATE at a RACK_TIME: OPEN counts generations whose first stationary beat has come and that have not closed. -/
def Coupler.genState (c : Coupler) (now : Nat) : Word :=
  let late := (c.gens.filter fun g => decide (now < g.opened)).length
  let opened := c.gens.filter fun g => decide (g.opened ≤ now) && g.closed.isNone
  word ((c.lastOpened.toNat + 16 - late % 16) % 16 + opened.length % 4 * 16 + ((opened.head?.map fun g => g.num.toNat).getD 0) * 256
    + bit01 c.abortWait * 2 ^ 12)

/-! ## Control core (R452) -/

/-- CORE_STATE: SPILLED counts spilled windows, IN_TRAP is 1 while W7 is current. -/
def Kolate.coreState (k : Kolate) : Word :=
  word ((if k.fwHalted then 2 else if k.stalled then 1 else 0) + (if k.inTrap then 7 else k.cwp % 8) * 16 + k.spill.length % 64 * 256
    + bit01 k.inTrap * 2 ^ 16)

/-- WDOG_LEFT: CK_C cycles until the watchdog halt (R128). -/
def State.wdogLeft (s : State) : Word :=
  if s.kol.running then word (1000000 - min 1000000 ((s.clk.localTime - s.kol.wdogSince) / 2)) else word 0

/-! ## Interrupts and other outputs (R57, R79, R114, R431) -/

/-- IRQ_MBX: any mailbox with PENDING and MBX_IRQ_EN. -/
def State.irqMbx (s : State) : Bool := s.mbx.any fun b => b.irqEn && b.cplTail != b.cplHead

/-- IRQ_ALARM: any fatal bit, or an enabled warning bit; 0 while the main domain is in reset (R79). -/
def State.irqAlarm (s : State) : Bool :=
  match s.aon.power with
  | .off | .standby => false
  | _ => s.aon.fatal != 0 || (s.gln.warn &&& s.gln.irqEn.setWidth 32) != 0

end Sys2Proof.Machine
end

