-- ==== Sys2Proof/Machine/Ops.lean ====
section
/-! DEFINITION. Shared operations: time, free values, the gleaner's events and traces, warning alarms, the incident snapshot, and
mailbox rings (04, 17). -/

namespace Sys2Proof.Machine

/-- An outcome that goes on. -/
abbrev Res := Host.Outcome State Fault Refusal

/-- The event occurs when its conditions hold; otherwise it does not, and the state stands (notes/assumptions/3). -/
def whenTrue (c : Bool) (s : State) (t : State) : Res := if c then .next t else .next s

/-! ## Free values -/

/-- The next free 64-bit value, and the state with the counter advanced (notes/assumptions/10). -/
def State.fresh (s : State) : Word × State := (Config.freeWord s.free, { s with free := s.free + 1 })

/-! ## Gleaner: events (R436) -/

/-- Saturating increment of a 16-bit count (R431). -/
def sat16 (c : BitVec 16) : BitVec 16 := if c = 0xFFFF then c else c + 1

/-- Saturating increment of a 32-bit count (R381). -/
def sat32 (c : BitVec 32) : BitVec 32 := if c = 0xFFFFFFFF then c else c + 1

/-- An event entry (table "Event entry"). -/
def eventEntry (time code source : Nat) (dom : Option Nat) (detail : Nat) : W4 :=
  ⟨word time, word (code % 65536 + source % 65536 * 2 ^ 16 + (match dom with | some d => d % 8 * 2 ^ 32 + 2 ^ 35 | none => 0)),
    word detail, word time⟩

/-- Equal in CODE, SOURCE and DETAIL. -/
def sameEvent (a b : W4) : Bool := a.w1.setWidth 32 == b.w1.setWidth 32 && a.w2 == b.w2

/-- An event merged into an equal earlier one: REPEAT counts it, LAST_TIME is its own. -/
def mergeEvent (a b : W4) : W4 :=
  let rep := min 0xFFFF (field a.w1 48 16 + field b.w1 48 16 + 1)
  { a with w1 := word (field a.w1 0 48 + rep * 2 ^ 48), w3 := b.w3 }

/-- Raise a warning alarm: bit and count (R431). -/
def Gleaner.warnBit (g : Gleaner) (b : Nat) : Gleaner :=
  { g with warn := g.warn ||| BitVec.ofNat 32 (2 ^ b), warnCount := g.warnCount.modify b sat16 }

/-- A drop of an event raises EVENT_DROP (R436). -/
def Gleaner.dropped (g : Gleaner) : Gleaner := g.warnBit 7

/-- The buffers' write port is taken for n cycles, from local time t or the first cycle after it that is free (R435; notes/assumptions/110). -/
def Gleaner.takePort (g : Gleaner) (t n : Nat) : Gleaner :=
  let free := match g.portAt with
    | some (c, _) => if c = t then t + 1 else t
    | none => t
  { g with busy := max g.busy free + n }

/-- Take one event into the ring at local time t: merged, stored, or dropped when the ring is full. -/
def Gleaner.ringWrite (g : Gleaner) (t : Nat) (e : W4) : Gleaner :=
  match g.events with
  | n :: rest =>
    if g.evtTail ≠ g.evtHead ∧ sameEvent n e then ({ g with events := mergeEvent n e :: rest } : Gleaner).takePort t 1
    else if (g.evtTail - g.evtHead).toNat = 4096 then ({ g with ringDrops := g.ringDrops + 1 } : Gleaner).dropped
    else ({ g with events := (e :: g.events).take 4096, evtTail := g.evtTail + 1 } : Gleaner).takePort t 1
  | [] =>
    if (g.evtTail - g.evtHead).toNat = 4096 then ({ g with ringDrops := g.ringDrops + 1 } : Gleaner).dropped
    else ({ g with events := [e], evtTail := g.evtTail + 1 } : Gleaner).takePort t 1

/-- The source number of an event. -/
def eventSource (e : W4) : Nat := field e.w1 16 16

/-- The pending event of the lowest source. -/
def lowestPending : List W4 → Option W4
  | [] => none
  | e :: rest =>
    match lowestPending rest with
    | none => some e
    | some x => if eventSource e ≤ eventSource x then some e else some x

/-- Accept up to n pending events at local time t, in ascending source number. -/
def Gleaner.acceptN (t : Nat) : Nat → Gleaner → Gleaner
  | 0, g => g
  | n + 1, g =>
    match lowestPending g.pend with
    | none => g
    | some e =>
      Gleaner.acceptN t n (({ g with pend := g.pend.erase e, acc := (g.acc.1, g.acc.2 + 1) } : Gleaner).ringWrite t e)

/-- Accept pending events at local time t: at most 4 in its CK_T cycle. -/
def Gleaner.accept (g : Gleaner) (t : Nat) : Gleaner :=
  let g := if g.acc.1 = t / 16 then g else { g with acc := (t / 16, 0) }
  g.acceptN t (4 - g.acc.2)

/-- Accept pending events in each of the n CK_T cycles from c on. -/
def Gleaner.acceptOver : Nat → Nat → Gleaner → Gleaner
  | 0, _, g => g
  | n + 1, c, g => Gleaner.acceptOver n (c + 1) (g.accept (16 * c))

/-- An event of a source at local time t: merged into the source's pending event, held pending, or dropped. -/
def Gleaner.post (g : Gleaner) (t : Nat) (e : W4) : Gleaner :=
  match g.pend.find? fun x => eventSource x == eventSource e with
  | some p =>
    if sameEvent p e then { g with pend := g.pend.map fun x => if x = p then mergeEvent p e else x }
    else ({ g with sourceDrops := g.sourceDrops + 1 } : Gleaner).dropped
  | none => ({ g with pend := g.pend ++ [e] } : Gleaner).accept t

/-- The running CK_T cycle. -/
def State.tCycle (s : State) : Nat := s.clk.localTime / 16

/-- Post an event (R90, R436). -/
def State.event (s : State) (code source : Nat) (dom : Option Nat) (detail : Nat) : State :=
  s.onGln fun g => g.post s.clk.localTime (eventEntry s.clk.rackTime code source dom detail)

/-- Raise a warning alarm. -/
def State.warn (s : State) (b : Nat) : State := s.onGln fun g => g.warnBit b

/-! ## The clock -/

/-- n CK_V cycles go by on the divided clocks (R82, R88); pending events are accepted as CK_T cycles pass (R436), and REG_RSP_VALID falls
(R53, R79). -/
def State.clock (s : State) (n : Nat) : State :=
  let t := { s with clk := { s.clk with rackTime := s.clk.rackTime + n, localTime := s.clk.localTime + n }
                    rp := { s.rp with valid := s.rp.valid && n == 0 } }
  if s.gln.pend.isEmpty then t
  else t.onGln fun g => g.acceptOver (min (t.tCycle - s.tCycle) 1024) (s.tCycle + 1)

/-! ## Gleaner: traces (R437) -/

/-- A trace record of sequencer q in this cycle: one record is written in a cycle, the lowest sequencer's, and none while a capture or the event
ring takes the port (R435); a record that is not written counts in TRACE_SHED. -/
def State.trace (s : State) (q : Nat) (w0 w1 : Word) : State :=
  let t := s.gln.traceCtl.toNat
  if t / 256 % 2 = 1 ∧ t / 2 ^ q % 2 = 1 then
    s.onGln fun g =>
      let shed := { g with traceShed := sat32 g.traceShed }
      match g.portAt.filter fun x => x.1 == s.clk.localTime with
      | some (c, q') => if q < q' then { shed with trace := (w0, w1) :: g.trace.tail, portAt := some (c, q) } else shed
      | none =>
        if s.clk.localTime < g.busy ∨ (t / 512 % 2 = 0 ∧ 4096 ≤ g.trace.length) then shed
        else { g with trace := ((w0, w1) :: g.trace).take 4096, traceTail := g.traceTail + 1, portAt := some (s.clk.localTime, q) }
  else s

/-! ## Incident snapshot (R438) -/

/-- The 512 words of a snapshot with a trigger code and a failing memory word. -/
def State.snapWords (s : State) (trigger : Nat) (loc : Option SramLoc) : List Word :=
  let w3 := match loc with
    | some l => word (l.mem.toNat + l.inst.toNat * 2 ^ 8 + l.word.toNat * 2 ^ 24)
    | none => 0
  let has (i : Nat) := decide (i < s.cfg.nSeq)
  let halts := (List.range 8).flatMap fun i => (List.range 4).map fun k => if has i then (s.seqAt i).halt.get k else 0
  let epochs := (List.range 8).map fun i => if has i then (s.domAt i).stateWord else 0
  let lasts := (List.range 8).map fun i =>
    if has i then word ((s.seqAt i).lastReleased.toNat + (s.seqAt i).activeBank % 2 * 2 ^ 32) else 0
  let ports := (List.range 48).map fun p => if p < s.cfg.nPort then s.portStatus0 p else 0
  let evs := (s.gln.events.take 64).reverse.flatMap fun e => [e.w0, e.w1, e.w2, e.w3]
  let head := [word (trigger % 256 + 256), word (if s.clk.dividers then s.clk.rackTime else 0),
    word (s.aon.fatal.toNat + s.gln.warn.toNat * 2 ^ 32), w3, s.bootStatus]
  let body := head ++ halts ++ epochs ++ lasts ++ ports ++ evs
  body ++ List.replicate (512 - body.length) 0

/-- Cycles for which a capture takes the write port, one for each word; it ends within 600 (R438; notes/assumptions/110). -/
def snapCycles : Nat := 512

/-- A trigger of the snapshot: captured unless one is frozen, which counts in SNAP_MISSED. -/
def State.snapTrigger (s : State) (trigger : Nat) (loc : Option SramLoc) : State :=
  if s.gln.snapValid then s.onGln fun g => { g with snapMissed := sat16 g.snapMissed }
  else s.onGln fun g => ({ g with snap := s.snapWords trigger loc, snapValid := true } : Gleaner).takePort s.clk.localTime snapCycles

/-- A fatal alarm latches in the island: bit, count, first code, ALARM_N and the snapshot (R57, R431, R438). -/
def State.latchFatal (s : State) (code : Nat) (loc : Option SramLoc) : State :=
  let now := s.clk.localTime
  let s := s.onAon fun a =>
    let first := a.firstFatal = 0 ∨ (a.firstAt = some now ∧ code < a.firstFatal.toNat)
    { a with fatal := a.fatal ||| BitVec.ofNat 32 (2 ^ (code - 1)), fatalCount := a.fatalCount.modify (code - 1) sat16
             firstFatal := if first then BitVec.ofNat 8 code else a.firstFatal
             firstAt := if first then some now else a.firstAt, alarmPulled := true }
  s.snapTrigger code loc

/-! ## Mailboxes (R111-R118) -/

/-- Completions posted and not consumed. -/
def Mailbox.inFlight (b : Mailbox) : Nat := (b.cplTail - b.cplHead).toNat

/-- Write a completion entry and advance CPL_TAIL (R113). -/
def Mailbox.store (b : Mailbox) (e : W4) : Mailbox :=
  let a := 0xC00 + 32 * (b.cplTail.toNat % max b.entries 1)
  { b with mem := (((b.mem.write64 a e.w0).write64 (a + 8) e.w1).write64 (a + 16) e.w2).write64 (a + 24) e.w3
           cplTail := b.cplTail + 1 }

/-- Does Kolate run: the core has started and has not stopped (R80, R150)? -/
def Kolate.works (k : Kolate) : Bool := k.running && !k.fwHalted

/-- Kolate posts a completion: none while OVERRUN is 1 (R115), after a firmware halt (R80), or once the opening of the debug module has
stopped the control core (R150). -/
def State.post (s : State) (m : Nat) (e : W4) : State :=
  if !s.kol.works ∨ (s.mbxAt m).overrun then s else s.onMbx m fun b => b.store e

/-- A completion entry (R117). -/
def cplEntry (tag : BitVec 16) (opcode code detail : Nat) (r1 r2 r3 : Word) : W4 :=
  ⟨word (tag.toNat + opcode % 256 * 2 ^ 16 + code % 256 * 2 ^ 24 + detail % 2 ^ 32 * 2 ^ 32), r1, r2, r3⟩

/-- Step 3 of a mailbox reset (R115): counters, OVERRUN, RESET_BUSY and reservations; the reserved notices are not posted. -/
def State.finishReset (s : State) (m : Nat) : State :=
  let s := s.onMbx m fun b =>
    { b with reqTail := 0, reqHead := 0, cplTail := 0, cplHead := 0, overrun := false, resetBusy := false, reserved := 0 }
  s.onKol fun k => { k with epochs := k.epochs.map fun e => if e.mbox = m then { e with mute := true } else e }

/-- Does Kolate hold a request of the mailbox? -/
def State.holds (s : State) (m : Nat) : Bool :=
  (s.kol.held.map Req.mbox) == some m || (s.kol.cleaning.map fun c => c.req.mbox) == some m || s.kol.waiting.any fun r => r.mbox == m

/-- A request is no longer held. -/
def Kolate.letGo (k : Kolate) (r : Req) : Kolate :=
  { k with held := if k.held = some r then none else k.held
           cleaning := if (k.cleaning.map Cleaning.req) = some r then none else k.cleaning, waiting := k.waiting.erase r }

/-- A mailbox reset: RESET_BUSY, then step 3 once no request of it is held (R115). -/
def State.resetMbx (s : State) (m : Nat) : State :=
  let s := s.onMbx m fun b => { b with resetBusy := true }
  if s.holds m then s else s.finishReset m

/-- Post the completion of a request that Kolate holds, and end the hold; a reset of the mailbox that waited finishes (R115). With a
code other than OK a reserved EPOCH_END slot is released first (R114). -/
def State.complete (s : State) (r : Req) (code detail : Nat) (r1 r2 r3 : Word) : State :=
  let twice := r.opcode = 0x13 ∨ r.opcode = 0x14
  let s := if twice ∧ code ≠ 0 then s.onMbx r.mbox fun b => { b with reserved := b.reserved - 1 } else s
  let s := s.post r.mbox (cplEntry r.tag r.opcode.toNat code detail r1 r2 r3)
  let s := s.onKol fun k => k.letGo r
  if (s.mbxAt r.mbox).resetBusy && !s.holds r.mbox then s.finishReset r.mbox else s

end Sys2Proof.Machine
end

