-- ==== Sys2Proof/Machine/Footprint.lean ====
section
/-! DEFINITION. Programs in the command memory, what a program names, and the environment in which a sequencer runs it (R24, R134,
R136, R182, R188, R336, R351). -/

namespace Sys2Proof

/-! ## What a command names -/

/-- Ranges of ledger entries (first, count) that a descriptor names (R162, R344). -/
def Desc.entries (d : Desc) : List (Nat × Nat) :=
  if d.target = 1 then [(d.entry, max 1 (d.sizeAt 2))] else if d.target = 2 then [(d.entry, 1)] else []

/-- Ledger ranges that a command names: streams, ledger-tally waits, seeds (R134, R228). -/
def Cmd.entries (c : Cmd) : List (Nat × Nat) :=
  let waits := (c.ledgerWaits.map fun w => (w.1, 1))
  let seeds := (match c.alu with | some a => if a.rnd = 2 then [(a.seed, 1)] else [] | none => [])
    ++ (match c.conv with | some v => if v.rnd = 2 then [(v.seed, 1)] else [] | none => [])
  c.descs.flatMap Desc.entries ++ waits ++ seeds

/-- Table store indices that a command names. -/
def Cmd.tables (c : Cmd) : List Nat :=
  match c.func with
  | some f => if f.fn = 4 then [f.tidx] else []
  | none => []

/-- Chains that a command names (R311). -/
def Cmd.chains (c : Cmd) : List Nat :=
  match c.out with
  | some o => if o.dst = 3 then [o.chain] else []
  | none => []

namespace Machine

/-! ## Programs in the command memory (R24) -/

/-- Byte address of a sequencer's segment of a bank. -/
def State.segAddr (s : State) (q bank : Nat) : Nat := bank % 2 * 262144 + q * s.cfg.segBytes

/-- The program in a bank of a sequencer; none where the bank holds no accepted program. -/
def State.program (s : State) (q bank : Nat) : List Cmd :=
  let n := (s.seqAt q).imgLen.getD bank 0
  if n = 0 then [] else (parseImage (s.cmdMem.readBytes (s.segAddr q bank) n)).1

/-- Is this die a slave of a federated part (R33)? -/
def State.slave (s : State) : Bool := s.boot.straps.fedDies != 0 && !s.boot.straps.fedMaster

/-- The program that a sequencer runs: that of its active bank, or on a slave the bundles that have come (R35, R186); and the armed program
of the load bank. -/
def State.activeProgram (s : State) (q : Nat) : List Cmd :=
  if s.slave then (parseImage (s.seqAt q).fed).1 else s.program q (s.seqAt q).activeBank
def State.armedProgram (s : State) (q : Nat) : List Cmd :=
  match (s.seqAt q).load with
  | .armed => s.program q (1 - (s.seqAt q).activeBank)
  | _ => []

/-- Empty a sequencer's load bank state. -/
def Sequencer.unarm (q : Sequencer) : Sequencer :=
  match q.load with
  | .armed => { q with load := .empty, imgLen := q.imgLen.set (1 - q.activeBank) 0 }
  | _ => q

/-- Unarm every armed load bank whose program meets a condition (R136, R311, R337). -/
def State.unarmIf (s : State) (p : Nat → Cmd → Bool) : State :=
  (List.range s.cfg.nSeq).foldl (fun s q => if (s.armedProgram q).any (p q) then s.onSeq q Sequencer.unarm else s) s

/-- The job that the next release runs, and the job that a running epoch runs (R387). -/
def DomColl.nextJob (c : DomColl) : Option Job := c.pendingJob.or c.activeJob

/-- The partition record that sequencer d has adopted, under which its ports, cells and cores act (R136); zero where the domain is not
live. -/
def State.wordsOf (s : State) (d : Nat) : List Word :=
  let p := s.partAt d
  if p.liveNow then p.wordsNow else List.replicate 16 0

/-- The record under which a running epoch's cores work: the pens as they were at its release (R130, R184), the rest as adopted
(R135, R136). -/
def State.runWords (s : State) (q : Nat) (r : Run) : List Word :=
  r.words.take 1 ++ (s.wordsOf q).drop 1

/-- Send to another die over the federation path (R33). -/
def State.fedSend (s : State) (die : Nat) (m : FedMsg) : State := { s with fedOut := (die, m) :: s.fedOut }

/-- Send to every other die of the part. -/
def State.fedAll (s : State) (m : FedMsg) : State :=
  ((List.range (s.boot.straps.fedDies.toNat + 1)).filter (· != s.boot.straps.dieId.toNat)).foldl (fun s e => s.fedSend e m) s

/-- FABRIC_TENANT in the cells of domain d: a running epoch keeps the one it was released with (R132, R136). -/
def State.tenantOf (s : State) (d : Nat) : Nat :=
  match (s.seqAt d).run with
  | some r => partTenant r.words
  | none => partTenant (s.wordsOf d)

/-- The environment of a sequencer's commands under a partition record. -/
def State.env (s : State) (q : Nat) (words : List Word) (job : Option Job) (start : Nat) : Env :=
  { cfg := s.cfg, dies := s.boot.straps.fedDies.toNat + 1, die := s.boot.straps.dieId.toNat, seq := q, part := words
    ledger := s.ledger, tables := s.tables, chains := s.coup.chains, owner := s.coup.owner.toNat, job := job
    logical := s.coll.logicalId.toNat, h0 := s.ckpt.map fun x => (x.1, x.2.1), start := start }

/-- Change a sequencer's running epoch. -/
def State.onRun (s : State) (q : Nat) (f : Run → Run) : State := s.onSeq q fun x => { x with run := x.run.map f }

/-- The environment of a running epoch's commands. -/
def State.runEnv (s : State) (q : Nat) (r : Run) : Env := s.env q (s.runWords q r) (s.domAt q).activeJob r.start

/-- A list of ranges holds an index. -/
def inRanges (rs : List (Nat × Nat)) (e : Nat) : Bool := rs.any fun r => decide (r.1 ≤ e ∧ e < r.1 + r.2)

/-- Is an entry named by the active program or armed bank of a sequencer that runs an epoch (R336)? A RELEASE that waits runs none here
(R187). -/
def State.entryInUse (s : State) (e : Nat) : Bool :=
  (List.range s.cfg.nSeq).any fun q =>
    (s.seqAt q).run.isSome && ((s.activeProgram q).any (fun c => inRanges c.entries e) || (s.armedProgram q).any fun c => inRanges c.entries e)

/-- Is a table index in use by a running epoch (R270)? A RELEASE that waits runs none here (R187). -/
def State.tableInUse (s : State) (t : Nat) : Bool :=
  (List.range s.cfg.nSeq).any fun q =>
    (s.seqAt q).run.isSome && ((s.activeProgram q).any (fun c => c.tables.contains t) || (s.armedProgram q).any fun c => c.tables.contains t)

/-! ## Ledger entries -/

def State.entry (s : State) (e : Nat) : Entry := Entry.ofMem s.ledger e
def State.setEntry (s : State) (e : Nat) (x : Entry) : State := { s with ledger := x.toMem s.ledger e }

/-- Entries of a list of ranges that hold something, in ascending order: those with a listed byte. -/
def State.listedEntries (s : State) (rs : List (Nat × Nat)) : List Nat :=
  (s.ledger.map fun c => c.1 / 32).foldr (fun e l => if l.head? = some e ∨ !inRanges rs e then l else e :: l) []

/-- Set the tally of an entry to zero. -/
def State.zeroTally (s : State) (e : Nat) : State := s.setEntry e ((s.entry e).setTally 0)

/-- Zero TALLY of every channel and context entry in a program's footprint (R182, R351). -/
def State.zeroTallies (s : State) (cs : List Cmd) : State :=
  let rs := cs.flatMap Cmd.entries
  (s.listedEntries rs).foldl State.zeroTally s

/-- The first update of HEAD or CURSOR in an epoch keeps the prior values (R351). -/
def State.checkpoint (s : State) (e : Nat) : State :=
  if s.ckpt.any fun x => x.1 == e then s
  else let x := s.entry e; { s with ckpt := s.ckpt ++ [(e, x.head, x.cursor)] }

/-- Checkpoint words of a domain's range are restored and cleared, TALLY set to zero (R351). -/
def State.restoreLedger (s : State) (d : Nat) : State :=
  let ws := s.wordsOf d
  let s := s.ckpt.foldl (fun s x =>
    if inLedger ws x.1 then s.setEntry x.1 (((s.entry x.1).setSpan x.2.1 x.2.2).setTally 0) else s) s
  { s with ckpt := s.ckpt.filter fun x => !inLedger ws x.1 }

/-- Checkpoint words of a domain's range are cleared (R405). -/
def State.clearCheckpoints (s : State) (d : Nat) : State :=
  { s with ckpt := s.ckpt.filter fun x => !inLedger (s.wordsOf d) x.1 }

/-! ## Domains -/

/-- Live domains. -/
def State.liveDoms (s : State) : List Nat := (List.range s.cfg.nSeq).filter fun d => (s.partAt d).live

/-- The domain that a port is assigned to, by the adopted records (R136, R138). -/
def State.portDomain (s : State) (p : Nat) : Option Nat :=
  (List.range s.cfg.nSeq).find? fun d => (partPorts (s.wordsOf d)).testBit p

/-- The live domain whose ledger range holds an entry. -/
def State.entryDomain (s : State) (e : Nat) : Option Nat := s.liveDoms.find? fun d => inLedger (s.partAt d).words e

/-- The live domain whose pens hold a global position. -/
def State.posDomain (s : State) (g : Nat) : Option Nat :=
  s.liveDoms.find? fun d =>
    let ws := (s.partAt d).words
    decide (partFirstPen ws ≤ g / 16 ∧ g / 16 < partFirstPen ws + partPens ws)

/-! ## The configuration fingerprint (R411) -/

/-- One word of the fingerprint's fold: the value so far and the count. -/
def fpStep (a : Word × Nat) (w : Word) : Word × Nat := (mix64 (a.1 ^^^ w), a.2 + 1)

/-- An entry's words with dynamic fields zero. -/
def State.fpEntry (s : State) (e : Nat) : List Word := (s.entry e).statics.words.map (BitVec.ofNat 64)

/-- The canonical form of a live domain (table "Canonical form of domain d"), but for the ledger entries, before and after them. -/
def State.fpHead (s : State) (d : Nat) : List Word :=
  let ws := (s.partAt d).words
  let w0 := (ws.getD 0 0).toNat
  let tabs := (List.range 32).filter fun t => (partTables ws).testBit t
  [word (1 + 4 * 256 + 0x30 * 65536), word (w0 - w0 % 2 ^ 15 + bitsOf w0 7 6 * 64), ws.getD 2 0, word (partKeyGen ws)]
    ++ tabs.flatMap (fun t => (List.range 320).map fun k => s.tables.read64 (2560 * t + 8 * k))
    ++ (List.range 64).map (fun k => s.coup.chains.read64 (512 * d + 8 * k))
    ++ [if s.coup.owner.toNat = d then 1 else 0]

/-- FINGERPRINT[d]; 0 while the domain is not live. -/
def State.fingerprintOf (s : State) (d : Nat) : Word :=
  if (s.partAt d).live then
    let (b, n) := partLedger (s.partAt d).words
    let a := (s.fpHead d).foldl fpStep (0, 0)
    let a := (List.range n).foldl (fun a k => (s.fpEntry (b + k)).foldl fpStep a) a
    let r := match (s.domAt d).nextJob with
      | some j => let w := (j.routes.getD 0 0).toNat; word (w - bitsOf w 53 48 * 2 ^ 48)
      | none => 0
    let a := fpStep a r
    mix64 (a.1 ^^^ word a.2)
  else 0

/-- Recompute FINGERPRINT of every domain (R412). -/
def State.refreshFps (s : State) : State :=
  (List.range s.cfg.nSeq).foldl (fun t d => t.onDom d fun c => { c with fingerprint := s.fingerprintOf d }) s

end Machine
end Sys2Proof
end

