-- ==== Sys2Proof/Machine/CellOps.lean ====
section
/-! DEFINITION. Cells: headers, what the block sends (scheduled control cells, training and identity cells, maintenance cells with their
sequence and window), and the words of training payloads (15 R354-R377, 16 R392, R400, R417). -/

namespace Sys2Proof.Machine

/-! ## Headers (R354) -/

def CellHdr.toNat (h : CellHdr) : Nat :=
  h.dst.toNat + h.src.toNat * 2 ^ 16 + h.channel.toNat * 2 ^ 32 + h.tenant.toNat * 2 ^ 49 + h.seq.toNat * 2 ^ 52
    + h.epoch.toNat * 2 ^ 68 + h.type.toNat * 2 ^ 76 + h.efmt.toNat * 2 ^ 81 + h.count.toNat * 2 ^ 85

def CellHdr.ofNat (x : Nat) : CellHdr :=
  { dst := BitVec.ofNat 16 x, src := BitVec.ofNat 16 (x / 2 ^ 16), channel := BitVec.ofNat 17 (x / 2 ^ 32)
    tenant := BitVec.ofNat 3 (x / 2 ^ 49), seq := BitVec.ofNat 16 (x / 2 ^ 52), epoch := BitVec.ofNat 8 (x / 2 ^ 68)
    type := BitVec.ofNat 5 (x / 2 ^ 76), efmt := BitVec.ofNat 4 (x / 2 ^ 81), count := BitVec.ofNat 11 (x / 2 ^ 85) }

/-- The 12 header bytes. -/
def CellHdr.bytes (h : CellHdr) : Bytes := leBytes 12 h.toNat

/-- Payload of exactly 224 bytes: padded with zeros (R26). -/
def padPayload (p : Bytes) : Bytes := (p ++ List.replicate 224 0).take 224

/-- The 256 bytes of a cell on the wire (R353). -/
def wireCell (h : CellHdr) (payload : Bytes) : Bytes := sealCell (h.bytes ++ padPayload payload)

/-- The payload byte at an offset, and a little-endian number in a payload. -/
def payByte (p : Bytes) (i : Nat) : Nat := (p.getD i 0).toNat
def payNum (p : Bytes) (i n : Nat) : Nat := leNat ((p.drop i).take n)

/-- A payload of zeros with numbers (offset, bytes, value) placed in it. -/
def payloadOf (fs : List (Nat × Nat × Nat)) : Bytes :=
  fs.foldl (fun p (o, n, v) => p.take o ++ leBytes n v ++ p.drop (o + n)) (List.replicate 224 0)

/-- The header of a link or training cell to the neighbour. -/
def State.linkHdr (s : State) (type : Nat) : CellHdr :=
  { dst := 0xFFFF, src := s.coll.logicalId, channel := 0, tenant := 0, seq := 0, epoch := 0, type := BitVec.ofNat 5 type
    efmt := 0, count := 0 }

/-- Hand a cell to a port. -/
def State.send (s : State) (c : TxCell) : State := s.onColl fun x => { x with tx := x.tx ++ [c] }

/-! ## Control slots (R392) -/

/-- The first control slot that starts at or after a RACK_TIME. -/
def controlSlot (t : Nat) : Nat :=
  let j := slotAfter t
  j + (126 + 128 - j % 128) % 128

/-- The ports of a mask, in ascending order. -/
def portsOf (mask : Nat) : List Nat := (List.range 48).filter mask.testBit

/-- Is the port UP? -/
def State.isUp (s : State) (p : Nat) : Bool := (s.portAt p).state == .up

/-- The word of a port in a WIRING part: the header word comes first (R388). -/
def wiringWord (ws : List Word) (p : Nat) : Word := ws.getD (p + 1) 0

/-- Does a map name the port? -/
def wiringMaps (ws : List Word) (p : Nat) : Bool := (wiringWord ws p).getLsbD 31

/-- Does the installed wiring map name the port, or is none installed (R373; notes/assumptions/104)? -/
def State.inMap (s : State) (p : Nat) : Bool := s.coll.wiring.isEmpty || wiringMaps s.coll.wiring p

/-- Does a port carry the scheduled cells of domain d: it is UP, assigned to d, and named by the wiring map (R137-R139, R373, R374)? -/
def State.carriesFor (s : State) (d p : Nat) : Bool := s.isUp p && s.portDomain p == some d && s.inMap p

/-- UP or MAINT_ONLY (R369, R389). -/
def State.carries (s : State) (p : Nat) : Bool := (s.portAt p).trained

/-- The header of a control cell of domain d: DST 0xFFFF, CHANNEL 0 (R400). -/
def State.ctlHdr (s : State) (d type : Nat) : CellHdr :=
  { s.linkHdr type with tenant := BitVec.ofNat 3 (s.tenantOf d), epoch := (s.domAt d).epoch }

/-- Send a control cell of domain d in the next control slot at or after t, on a port that carries the domain's scheduled cells (R373, R374,
R406). -/
def State.sendControl (s : State) (d type p t : Nat) (payload : Bytes) : State :=
  if s.carriesFor d p then s.send { port := p, slot := some (controlSlot t), hdr := s.ctlHdr d type, payload := payload } else s

/-- A BARRIER payload (table "Barrier and abort payloads"). -/
def State.barrierPayload (s : State) (d kind value reason counted : Nat) : Bytes :=
  payloadOf [(0, 1, kind), (1, 1, value), (2, 1, reason), (4, 2, s.coll.logicalId.toNat), (6, 2, counted),
    (8, 8, (s.domAt d).fingerprint.toNat)]

/-- An ABORT payload. -/
def abortPayload (reason origin time : Nat) : Bytes := payloadOf [(0, 1, reason), (2, 2, origin), (8, 8, time)]

/-! ## Maintenance traffic (R377, R417) -/

/-- Send a numbered MAINT or COUNTER cell on a port: it waits in the window until it is acknowledged. At most 32 unacknowledged cells
are on their way; later ones wait their turn in the same list. -/
def State.sendMaint (s : State) (p : Nat) (type dst : Nat) (payload : Bytes) : State :=
  let q := s.portAt p
  let body := padPayload (BitVec.ofNat 8 type :: leBytes 2 dst ++ payload)
  let s := s.onPort p fun q => { q with mtxSeq := q.mtxSeq + 1, unacked := q.unacked ++ [(q.mtxSeq, body)] }
  if q.unacked.length < 32 then
    s.send { port := p, slot := none, hdr := { s.linkHdr type with dst := BitVec.ofNat 16 dst, seq := q.mtxSeq }, payload := padPayload payload }
  else s

/-- Resend the cells of a port's window from the first unacknowledged one; each resend counts in REPLAYS (R377). -/
def State.replay (s : State) (p : Nat) : State :=
  ((s.portAt p).unacked.take 32).foldl (fun s x =>
    let s := s.onPort p fun q => { q with replays := sat16 q.replays }
    s.send { port := p, slot := none
             hdr := { s.linkHdr (payByte x.2 0) with dst := BitVec.ofNat 16 (payNum x.2 1 2), seq := x.1 }
             payload := padPayload (x.2.drop 3) }) s

/-- A MAINT payload (R417). -/
def maintPayload (msg hops dst src dom epoch : Nat) (body : List (Nat × Nat × Nat)) : Bytes :=
  payloadOf ([(0, 1, msg), (1, 1, hops), (2, 2, dst), (4, 2, src), (6, 1, dom), (7, 1, epoch)] ++ body)

/-- The port on which a maintenance message of domain d for a logical chip leaves: PORT, else ALT, of the covering route entry when that
port is UP or MAINT_ONLY (R389). -/
def State.routeTo (s : State) (j : Option Job) (x : Nat) : Option Nat :=
  match j with
  | none => none
  | some j =>
    let es := (j.routes.drop 3).map BitVec.toNat
    match es.find? fun w => decide (bitsOf w 15 0 ≤ x ∧ x ≤ bitsOf w 31 16) with
    | none => none
    | some w =>
      let a := bitsOf w 37 32
      let b := bitsOf w 45 40
      if s.carries a then some a else if b ≠ 0x3F ∧ s.carries b then some b else none

/-- Route a MAINT payload of domain d; it is dropped and counted in UNROUTED when no port takes it. -/
def State.routeMaint (s : State) (d : Nat) (dst : Nat) (payload : Bytes) : State :=
  match s.routeTo ((s.domAt d).activeJob) dst with
  | some p => s.sendMaint p 0x0C dst payload
  | none => s.onColl fun c => { c with unrouted := sat32 c.unrouted }

/-! ## Identity (R365, R366, R369) -/

/-- NO_SCHED of R365: MAINTENANCE, DEBUG_OPENED, or keys not programmed. -/
def State.noSched (s : State) : Bool := s.aon.power == .maintenance || s.boot.debugOpened || !s.boot.keysProgrammed

/-- A TRAIN_ID payload for a port. -/
def State.trainIdPayload (s : State) (p : Nat) (ack : Bool) : Bytes :=
  payloadOf [(0, 16, if s.boot.keysProgrammed then s.boot.serial.toNat else 0), (16, 2, s.coll.logicalId.toNat), (18, 1, p),
    (19, 1, s.strap p), (20, 1, 4), (21, 1, 1), (22, 1, 0), (23, 1, 0x30), (24, 1, 2),
    (25, 1, s.kol.version.toNat / 2 ^ 24), (26, 1, s.kol.version.toNat / 2 ^ 16 % 256), (27, 2, s.kol.version.toNat % 65536),
    (29, 2, s.cfg.partNumber.toNat), (31, 1, s.cfg.siloKib),
    (32, 1, s.boot.straps.fedDies.toNat + s.boot.straps.dieId.toNat * 16), (33, 1, bit01 ack + 2 * bit01 s.noSched)]

/-- Read a TRAIN_ID payload. -/
def PartnerId.ofPayload (p : Bytes) : PartnerId :=
  { serial := BitVec.ofNat 128 (payNum p 0 16), logical := BitVec.ofNat 16 (payNum p 16 2), port := p.getD 18 0, cls := p.getD 19 0
    major := p.getD 20 0, minor := p.getD 21 0, patch := p.getD 22 0, yelup := p.getD 23 0, ronno := p.getD 24 0
    kolate := BitVec.ofNat 32 (payByte p 25 * 2 ^ 24 + payByte p 26 * 2 ^ 16 + payNum p 27 2), part := BitVec.ofNat 16 (payNum p 29 2)
    silo := p.getD 31 0, fed := p.getD 32 0, ack := (p.getD 33 0).getLsbD 0, noSched := (p.getD 33 0).getLsbD 1 }

/-- Send a TRAIN_ID on a port. -/
def State.sendTrainId (s : State) (p : Nat) (ack : Bool) : State :=
  s.send { port := p, slot := none, hdr := s.linkHdr 0x08, payload := s.trainIdPayload p ack }

/-- The identity refresh: a TRAIN_ID with ACK on every UP or MAINT_ONLY port (R369). -/
def State.identityRefresh (s : State) : State :=
  ((List.range s.cfg.nPort).filter s.carries).foldl (fun s p => s.sendTrainId p true) s

/-! ## Port states (R108, R109, R372, R381) -/

/-- Change a port's state and reason; a change posts PORT_STATE. -/
def State.setPort (s : State) (p : Nat) (st : PortState) (reason : Nat) : State :=
  let t := s.onPort p fun q => { q with state := st, reason := BitVec.ofNat 8 reason }
  if t.portStatus0 p = s.portStatus0 p then t else t.event 0x0007 p (s.portDomain p) (t.portStatus0 p).toNat

/-- Do both ends report versions that R366 accepts? Kolate's versions are compared once both ends have reported them: this chip after its
ready message, the partner in its identity refresh. -/
def State.versionsMatch (s : State) (x : PartnerId) : Bool :=
  let own := s.kol.version
  x.major == 4 && x.yelup == 0x30 && x.ronno == 2
    && (!s.boot.ready || x.kolate == 0 || (own >>> 16) == (x.kolate >>> 16))

/-- The state of a trained port by R363, R366, R382: UP, or MAINT_ONLY with a reason. The spec gives no reason for FORCE_MAINT: none here
stands for a free value. -/
def State.upState (s : State) (p : Nat) : PortState × Option Nat :=
  let q := s.portAt p
  match q.partner with
  | none => (.maintOnly, some 0x10)
  | some x =>
    if !s.versionsMatch x then (.maintOnly, some 0x10)
    else if s.noSched || x.noSched then (.maintOnly, some 0x11)
    else if q.unchecked then (.maintOnly, some 0x12)
    else if q.ctl.getLsbD 1 && q.state != .up then (.maintOnly, none)
    else (.up, some 0)

/-- Give a port the state that `upState` says. -/
def State.settlePort (s : State) (p : Nat) : State :=
  match s.upState p with
  | (st, some r) => s.setPort p st r
  | (st, none) =>
    if (s.portAt p).state = st then s else let (w, s) := s.fresh; s.setPort p st (w.toNat % 256)

/-- Re-apply R366 to a trained port; a port moves only between epochs (R369). -/
def State.applyIdentity (s : State) (p : Nat) : State := if s.carries p ∧ !s.anyEpoch then s.settlePort p else s

/-- Re-apply R366 to every trained port, when an epoch has ended. -/
def State.applyIdentities (s : State) : State := (List.range s.cfg.nPort).foldl State.applyIdentity s

/-- Is the port protected: class K or O, assigned to a domain that holds a key (R144)? -/
def State.protectedDom (s : State) (p : Nat) : Option Nat :=
  if s.cfg.portClass p = 3 ∨ s.cfg.portClass p = 4 then
    (s.portDomain p).bind fun d => if (s.partAt d).hasKey then some d else none
  else none

/-- The initialisation vector of a group (R145). -/
def groupInfo (logical port gen ctr : Nat) : Nat := ctr + gen * 2 ^ 64 + port * 2 ^ 74 + logical * 2 ^ 80
def groupIv (logical port gen ctr : Nat) : Bytes := ivBytes (groupInfo logical port gen ctr)

/-- Lower PHY_EN on a port, which takes a state and a reason. Its training starts anew. -/
def State.portOff (s : State) (p : Nat) (st : PortState) (reason : Nat) : State :=
  (s.onPort p fun q =>
    { q with phyEn := false, phyRdy := false, alignRun := 0, alignLast := none, idleRun := 0, partnerAcked := false, calibRun := 0, elastic := [] }).setPort
      p st reason

/-- A port goes down with a reason, or is absent when it has no valid strap. -/
def State.portDown (s : State) (p : Nat) (reason : Nat) : State :=
  if s.strap p = 0 then s.portOff p .absent 0x01
  else if !s.strapValid p then s.portOff p .absent 0x02
  else s.portOff p .down reason

/-- Assert a pair's bypass: PHY_EN falls on both ports first (R109). -/
def State.assertBypass (s : State) (i : Nat) : State :=
  let (a, b) := s.cfg.pairPorts i
  let s := s.onPort a fun q => { q with phyEn := false, phyRdy := false }
  let s := s.onPort b fun q => { q with phyEn := false, phyRdy := false }
  s.onAon fun x => { x with bypass := x.bypass.set i true }

/-- A pair is absent when either strap is 0b000 or invalid (R108). -/
def State.pairAbsent (s : State) (i : Nat) : Bool :=
  let (a, b) := s.cfg.pairPorts i
  !s.strapValid a || !s.strapValid b

/-- May a pair leave bypass: both ports are enabled? -/
def State.pairEnabled (s : State) (i : Nat) : Bool :=
  let (a, b) := s.cfg.pairPorts i
  (s.portAt a).ctl.getLsbD 0 && (s.portAt b).ctl.getLsbD 0

/-- Both ports of a pair go down and the pair enters bypass: the failed port keeps its reason, its partner reads BYPASS (R106, R372). -/
def State.pairLost (s : State) (p : Nat) (reason : Nat) : State :=
  match s.cfg.pairOf p, s.cfg.ringPartner p with
  | some i, some q =>
    let s := s.portDown p reason
    let s := if (s.portAt q).state = .down ∨ (s.portAt q).state = .absent then s else s.portOff q .bypass 0
    s.assertBypass i
  | _, _ => s.portDown p reason

/-- Place a pair in bypass on the warden's word (R379): both ports down, then the output. -/
def State.pairBypass (s : State) (i : Nat) : State :=
  let (a, b) := s.cfg.pairPorts i
  ((s.portOff a .bypass 0).portOff b .bypass 0).assertBypass i

/-- Begin training a port: step 1 (R363). Maintenance sequence numbers start again at 0. -/
def State.startTraining (s : State) (p : Nat) : State :=
  let now := s.clk.localTime
  let s := s.onPort p fun q =>
    { q with step := 1, alignRun := 0, alignLast := none, idleRun := 0, partner := none, partnerAcked := false, calibRun := 0
             lastTRx := none, failReason := 0, phyRdy := false, los := false, phyEn := true, lastTry := now, exchange := 0
             mtxSeq := 0, mrxSeq := 0, unacked := [], ackDue := false, elastic := [], padDue := false, queue := [] }
  s.setPort p .training 0

/-- Deassert a pair's bypass; its ports raise PHY_EN when the wait of R72 has passed (R106, R109, R379). -/
def State.releaseBypass (s : State) (i : Nat) : State :=
  let (a, b) := s.cfg.pairPorts i
  let s := s.onAon fun x => { x with bypass := x.bypass.set i false }
  let wait (s : State) (p : Nat) : State := (s.onPort p fun q => { q with step := 0, phyEn := false, lastTry := s.clk.localTime }).setPort p .training 0
  wait (wait s a) b

/-! ## Received cells (R358) -/

/-- The header and the payload of a corrected cell. -/
def cellParts (b : Bytes) : CellHdr × Bytes := (CellHdr.ofNat (leNat (b.take 12)), (b.drop 12).take 224)

/-- Decode a received cell: a corrected cell counts in CORR_CELLS and its symbols in CORR_SYMBOLS; a cell that cannot be corrected counts
in POISONED. -/
def State.openRx (s : State) (c : RxCell) : State × Option (CellHdr × Bytes) :=
  match openCell c.bytes with
  | some (b, n) =>
    let t := if n = 0 then s else s.onPort c.port fun q =>
      { q with corrCells := sat32 q.corrCells, corrSymbols := BitVec.ofNat 32 (min 0xFFFFFFFF (q.corrSymbols.toNat + n)) }
    (t, some (cellParts b))
  | none => (s.onPort c.port fun q => { q with poisoned := sat16 q.poisoned }, none)

/-- Can a port receive cells: its PHY is enabled and ready, and the reset that holds it for 32 CK_L cycles after PHY_RDY has ended (R86)? -/
def State.receives (s : State) (p : Nat) : Bool :=
  decide (p < s.cfg.nPort) && (s.portAt p).phyEn && (s.portAt p).phyRdy && decide ((s.portAt p).rdyAt + 40 ≤ s.clk.localTime)

/-- Record the wait of a cell on an UP port of class P, B or K (R371): a wait outside 6 to 34 ROOT_CK cycles sets DRIFT and posts
LINK_DRIFT. A late cell counts as a wait of 0. -/
def State.recordWait (s : State) (p : Nat) (w : Int) : State :=
  if s.isUp p ∧ s.cfg.portClass p ≠ 4 then
    let n := min 255 w.toNat
    let s := s.onPort p fun q =>
      { q with wMin := if q.wSeen then min q.wMin n else n, wMax := if q.wSeen then max q.wMax n else n, wSeen := true }
    if w < 6 ∨ 34 < w then
      let s := s.onPort p fun q => { q with drift := true }
      let q := s.portAt p
      (s.event 0x0008 p (s.portDomain p) (q.wMin + q.wMax * 256)).warn 5
    else s
  else s

end Sys2Proof.Machine
end

