-- ==== Sys2Proof/Machine/EpochOps.lean ====
section
/-! DEFINITION. Epochs end: stops and their snapshots (R122, R212, R213), EPOCH_END (R124), runtime halts and aborts (R210, R211, R406),
rollback (R407, R408), the commit decision (R404, R405), and fatal halts (R432, R433). -/

namespace Sys2Proof.Machine

/-! ## Snapshots of a prefix (R212) -/

/-- The 32 words of a snapshot of a sequencer. -/
def State.prefixSnap (s : State) (q stop time : Nat) : List Word :=
  let x := s.seqAt q
  match x.run with
  | none => List.replicate 32 0
  | some r =>
    let tal := (List.range 16).map fun i =>
      word ((x.tallies.getD (2 * i) 0).toNat + (x.tallies.getD (2 * i + 1) 0).toNat * 2 ^ 32)
    let st := if stop ≠ 0 ∧ r.completed = 0 then W4.zero else x.status
    let h := if stop = 0 then x.halt else W4.zero
    [word (r.completed + r.epoch.toNat * 2 ^ 32 + q * 2 ^ 40 + stop * 2 ^ 48), word time, x.flags, x.preds.setWidth 64] ++ tal
      ++ [st.w0, st.w1, st.w2, st.w3, h.w0, h.w1, h.w2, h.w3] ++ List.replicate 4 0

/-- Kolate writes words into the data area of a mailbox (R118, R212); a halted or stopped control core writes none (R128, R150). -/
def State.writeData (s : State) (m off : Nat) (ws : List Word) : State :=
  if !s.kol.works then s
  else s.onMbx m fun b => { b with mem := b.mem.writeBytes (0x1000 + off) (ws.flatMap fun w => leBytes 8 w.toNat) }

/-! ## EPOCH_END (R124) -/

/-- The detail of the lowest-numbered part that aborted. -/
def lowestAbort : List EpochPart → Option EpochPart
  | [] => none
  | p :: ps =>
    match lowestAbort ps with
    | some x => if p.aborted ∧ p.seq ≤ x.seq then some p else some x
    | none => if p.aborted then some p else none

/-- Post the EPOCH_END of every request whose parts have all ended, in the slot that R114 reserved. -/
def State.postEnds (s : State) : State :=
  let done (e : EpochReq) : Bool := e.released && e.parts.all EpochPart.done
  let post (s : State) (e : EpochReq) : State :=
    if e.mute then s
    else
      let time := e.parts.foldl (fun m p => max m p.time) 0
      let bad := lowestAbort e.parts
      let detail := match bad with
        | some p => p.detail.toNat
        | none => (e.parts.foldl (fun m p => max m p.detail.toNat) 0)
      let c := cplEntry e.tag 0x81 (if bad.isSome then 0x13 else 0) detail (word time) (e.epoch.setWidth 64) 0
      let s := s.onMbx e.mbox fun b => { b with reserved := b.reserved - 1 }
      let s := s.post e.mbox c
      s.event 0x000E ((e.parts.map EpochPart.seq).foldl min 7) none c.w0.toNat
  let ended := s.kol.epochs.filter done
  let s := s.onKol fun k => { k with epochs := k.epochs.filter fun e => !done e }
  ended.foldl post s

/-- Does an outstanding request with this epoch's tag and mailbox await sequencer q? -/
def partOf (q : Nat) (r : Run) (e : EpochReq) : Bool :=
  e.released && decide (e.mbox = r.mbox) && decide (e.tag = r.tag) && decide (e.start = r.start) && e.parts.any fun p => p.seq == q && !p.done

/-- Sequencer q's part of its request ends; EPOCH_END follows with the last part. -/
def State.endPart (s : State) (q : Nat) (r : Run) (aborted : Bool) (detail time : Nat) : State :=
  let upd (e : EpochReq) : EpochReq :=
    if partOf q r e then
      { e with parts := e.parts.map fun p =>
          if p.seq = q ∧ !p.done then { p with done := true, aborted := aborted, detail := BitVec.ofNat 32 detail, time := time } else p }
    else e
  (s.onKol fun k => { k with epochs := k.epochs.map upd }).postEnds

/-- Where a snapshot goes: the i-th snapshot of a RUN_PREFIX lies at its offset + 256 i, a break's at the break's own (R212, R213). A halt
before either takes the prefix's place. -/
def State.snapOffset (s : State) (q : Nat) (r : Run) (stop : Nat) : Nat :=
  if stop ≤ 1 ∧ r.stopAt.isSome then
    match s.kol.epochs.find? (partOf q r) with
    | some e => r.snap + 256 * (e.parts.filter fun p => decide (p.seq < q)).length
    | none => r.snap
  else (r.brk.map Break.snap).getD 0

/-- Does this run write a snapshot (RUN_PREFIX or a break)? -/
def Run.snaps (r : Run) : Bool := r.stopAt.isSome || r.brk.isSome

/-- A prefix (stop 1), a count break (2) or a tag break (3) stops the epoch, which stays open (R122, R212, R213). -/
def State.stopEpoch (s : State) (q stop time : Nat) : State :=
  match (s.seqAt q).run with
  | none => s
  | some r =>
    let s := s.writeData r.mbox (s.snapOffset q r stop) (s.prefixSnap q stop time)
    let s := s.onSeq q fun x => { x with stopped := true }
    s.endPart q r false (if stop = 1 then 1 else 2) time

/-! ## Aborts (R406) -/

/-- The epoch state is one that an abort may leave. -/
def EpochState.live : EpochState → Bool
  | .running | .voting => true
  | _ => false

/-- Protected ports of a domain's job that are UP (R146). -/
def State.protectedPorts (s : State) (d : Nat) : List Nat :=
  (List.range s.cfg.nPort).filter fun p => s.protectedDom p == some d && s.carries p

/-- Send the ABORT of domain d on every UP port of JOB_PORTS, in the next control slot (R406). -/
def State.sendAbort (s : State) (d reason origin time : Nat) : State :=
  match (s.domAt d).activeJob with
  | none => s
  | some j =>
    (portsOf j.jobPorts).foldl (fun s p => s.sendControl d 0x04 p s.clk.rackTime (abortPayload reason origin time)) s

/-- The payload of a COUNTER cell: the counter, then what authenticates it (R146; the layout is the model's, notes/assumptions/83). -/
def counterPayload (key : BitVec 256) (info ctr : Nat) : Bytes := payloadOf [(0, 8, ctr), (8, 16, (Config.counterTag key info).toNat)]

/-- Each protected port sends its transmit counter in a COUNTER cell (R146). -/
def State.sendCounters (s : State) (d : Nat) : State :=
  (s.protectedPorts d).foldl (fun s p =>
    let n := ((s.portAt p).txCtr.getD d 0).toNat
    s.sendMaint p 0x0E 0xFFFF
      (counterPayload (s.partAt d).key (groupInfo s.coll.logicalId.toNat p (partKeyGen (s.wordsOf d)) n) n)) s

/-- Has a generation closed and drained? -/
def Gen.over (g : Gen) : Bool := g.closed.isSome && g.drained

/-- The coupler stops: no later prologue beat is presented, so a generation whose first beat has not come never opens; the data of open
generations is discarded (R329). -/
def Coupler.abort (c : Coupler) (now : Nat) : Coupler :=
  let gs := (c.gens.filter fun g => decide (g.opened ≤ now)).map fun g => { g with landed := true, data := [] }
  let left := gs.filter fun g => !g.over
  { c with gens := left, abortWait := !left.isEmpty, lastOpened := c.lastOpened - BitVec.ofNat 4 (c.gens.length - gs.length)
           beats := c.beats.filter fun b => decide (b.cycle ≤ now) }

/-- The abort of the epoch of the coupler's owner (R329). -/
def State.abortCoupler (s : State) (d : Nat) : State :=
  if s.coup.owner.toNat = d then s.onCoup fun c => c.abort s.clk.rackTime else s

/-- What an abort leaves of a run: nothing in flight, and of the awaited lines those whose slip this cycle still shows (R207, R211). -/
def Run.cut (now : Nat) (r : Run) : Run :=
  { r with flight := [], stamps := r.stamps.filter fun x => decide (x.cycle ≤ now ∧ now ≤ x.cycle + 1) }

/-- An abort stops what the epoch would do in later cycles: cores issue no further request and send no further cell (R60, R210, R406), class O
cells that wait are not written, and silos hold nothing for it. -/
def State.dropWork (s : State) (d : Nat) : State :=
  let now := s.clk.rackTime
  let keep (x : Dated) : Bool := x.seq != d || decide (x.cycle ≤ now)
  let empty (x : Nat × Port) : Port := if s.portDomain x.1 = some d then { x.2 with queue := [] } else x.2
  let s := { s with agenda := s.agenda.filter keep, ports := ((List.range s.ports.length).zip s.ports).map empty }
  s.onCores fun c => { c with silos := c.silos.filter fun x => x.seq != d }

/-- The domain's epoch aborts in this cycle: nothing more is released, commands on their way never complete, an ABORT goes out. Of aborts
learned in one cycle the lowest origin, then the lowest reason, is reported (R406). `remote` names the origin and its time. -/
def State.abortEpoch (s : State) (d reason : Nat) (remote : Option (Nat × Nat)) : State :=
  let c := s.domAt d
  let origin := match remote with | some x => x.1 | none => s.coll.logicalId.toNat
  let learn (s : State) : State := s.onDom d fun c =>
    { c with reason := BitVec.ofNat 8 reason, remote := remote.isSome, origin := BitVec.ofNat 16 origin }
  if c.state.live then
    let now := s.clk.rackTime
    let s := (s.onSeq d fun q => { q with run := q.run.map (Run.cut now) }).dropWork d
    let s := learn (s.onDom d fun c => { c with state := .aborting, abortTime := now, abortSent := true
                                                counterWait := (s.protectedPorts d).filter fun p => !c.counterGot.contains p })
    let s := s.sendAbort d reason origin (match remote with | some x => x.2 | none => now)
    (s.sendCounters d).abortCoupler d
  else if c.state = .aborting ∧ c.abortTime = s.clk.rackTime ∧
      (origin < c.origin.toNat ∨ (origin = c.origin.toNat ∧ reason < c.reason.toNat)) then learn s
  else s

/-! ## Runtime halts (R210, R211) -/

/-- Priority of a halt reason (table "Runtime halt and abort reasons"). -/
def haltPriority : Nat → Nat
  | 0x02 => 1
  | 0x06 => 2
  | 0x03 => 3
  | 0x04 => 4
  | 0x07 => 5
  | 0x05 => 6
  | _ => 7

/-- A runtime halt as detected: reason, STREAM, the command, core position (none at sequencer level), DETAIL and STAMP. -/
structure Halt where
  reason : Nat
  stream : Nat
  idx : Nat
  off : Nat
  core : Option Nat
  detail : Nat
  stamp : Nat
deriving DecidableEq, Repr

/-- The halt record's words. -/
def State.haltWords (s : State) (q : Nat) (h : Halt) : W4 :=
  let hay := match h.core with
    | some g => let k := s.cores.serve.getD g g; if k < s.cfg.nActive then 0 else 1 + (k - s.cfg.nActive)
    | none => 0
  let core := match h.core with
    | some g => s.boot.straps.dieId.toNat * s.cfg.nActive + g
    | none => 0x7FF
  ⟨word (h.reason + 256 + h.stream * 2 ^ 9 + (s.seqAt q).activeBank % 2 * 2 ^ 12 + h.idx % 65536 * 2 ^ 16 + h.off % 2 ^ 17 * 2 ^ 32),
    word s.clk.rackTime, word (core % 2048 + hay % 16 * 2 ^ 16 + h.detail % 2 ^ 32 * 2 ^ 32), word h.stamp⟩

/-- Does a new halt replace the one recorded? Only in the same cycle, by lower priority number, then lower position. -/
def haltReplaces (old new : W4) : Bool :=
  let pr (w : W4) := haltPriority (field w.w0 0 8)
  old.w1 == new.w1 && (decide (pr new < pr old) || (pr new == pr old && decide (field new.w2 0 11 < field old.w2 0 11)))

/-- A halt that ends a prefix before its stop keeps the snapshot as it stands in the cycle of the detection (R212). -/
def State.saveHalt (s : State) (q : Nat) : State :=
  match (s.seqAt q).run with
  | some r =>
    if r.snaps ∧ !(s.seqAt q).stopped then
      let ws := s.prefixSnap q 0 s.clk.rackTime
      s.onSeq q fun x => { x with run := some { r with haltSnap := some ws } }
    else s
  | none => s

/-- A runtime halt of sequencer q: record, event, warning, and the abort of the epoch. -/
def State.runtimeHalt (s : State) (q : Nat) (h : Halt) : State :=
  let new := s.haltWords q h
  let old := (s.seqAt q).halt
  let first := field old.w0 8 1 == 0
  let keep := first || haltReplaces old new
  let s := s.onSeq q fun x => if keep then { x with halt := new, lost := if first then x.lost else x.lost + 1 }
    else { x with lost := x.lost + 1 }
  let src := match h.core with
    | some g => s.cores.serve.getD g g
    | none => q
  let s := s.event 0x0004 src (some q) (h.reason + h.idx % 65536 * 2 ^ 16 + bit01 keep * 2 ^ 32)
  ((s.warn 6).abortEpoch q h.reason none).saveHalt q

/-! ## Rollback (R407, R408) -/

/-- DETAIL of EPOCH_END ABORTED (R409). -/
def DomColl.abortDetail (c : DomColl) : Nat := c.reason.toNat + bit01 c.remote * 256 + c.origin.toNat * 65536

/-- Clear the sheaves of a domain's pens on this die (R327). -/
def State.clearSheaves (s : State) (d : Nat) : State :=
  let ws := s.wordsOf d
  let lo := partFirstPen ws % max s.cfg.nPen 1 * 16
  s.onCores fun c => { c with sheaves := c.sheaves.clear (65536 * lo) (65536 * 16 * partPens ws) }

/-- The sequencer becomes idle after a rollback; EPOCH_END ABORTED is posted, after the snapshot of a prefix that a halt ended. -/
def State.rollbackComplete (s : State) (d : Nat) (detail time : Nat) : State :=
  let s := s.onDom d fun c =>
    { c with state := .idle, groups := [], outGroups := [], reduce := [], cellIdx := [], childVotes := [], counterWait := [] }
  match (s.seqAt d).run with
  | none => s
  | some r =>
    let s := match r.haltSnap with
      | some ws => if (s.seqAt d).stopped then s else s.writeData r.mbox (s.snapOffset d r 0) ws
      | none => s
    let s := s.endPart d r true detail time
    (s.onSeq d fun q => { q with run := none, stopped := false }).applyIdentities

/-- Number of participants of a domain's running job; 1 without a job. -/
def DomColl.participants (c : DomColl) : Nat := match c.activeJob with | some j => j.participants | none => 1

/-- Is this chip the root of the domain's control tree? -/
def State.isRoot (s : State) (d : Nat) : Bool :=
  match (s.domAt d).activeJob with
  | some j => decide (j.root = s.coll.logicalId.toNat)
  | none => true

/-- Send ROLLED to ROOT, or count it at the root (R407, R408). A domain with no active job is its own root. -/
def State.sendRolled (s : State) (d : Nat) : State :=
  let c := s.domAt d
  let own (s : State) : State := s.onDom d fun c => { c with rolledFrom := s.coll.logicalId :: c.rolledFrom.erase s.coll.logicalId }
  match c.activeJob with
  | none => own s
  | some j =>
    if s.isRoot d then own s
    else s.routeMaint d j.root (maintPayload 2 32 j.root s.coll.logicalId.toNat d c.epoch.toNat
      [(8, 1, c.reason.toNat), (10, 2, c.origin.toNat)])

/-- The root that has counted every ROLLED sends ROLLBACK_DONE to every sender and completes its own rollback (R408). -/
def State.rootCount (s : State) (d : Nat) : State :=
  let c := s.domAt d
  if s.isRoot d ∧ c.participants ≤ c.rolledFrom.length ∧ c.state = .rolled then
    let s := (c.rolledFrom.filter (· != s.coll.logicalId)).foldl (fun s x =>
      s.routeMaint d x.toNat (maintPayload 3 32 x.toNat s.coll.logicalId.toNat d c.epoch.toNat [])) s
    s.rollbackComplete d c.abortDetail c.abortTime
  else s

/-! ## Votes and decisions (R404, R405) -/

/-- Insert into an ascending list without repeats. -/
def insertNat : List Nat → Nat → List Nat
  | [], x => [x]
  | y :: l, x => if x < y then x :: y :: l else if x = y then y :: l else y :: insertNat l x

/-- Shadow-to-landing copies of a commit, in ascending ledger index: each KEEP entry of the job with its lines (R391, R405). -/
def State.keepEntries (s : State) (d : Nat) : List Nat :=
  match (s.domAt d).activeJob with
  | none => []
  | some j =>
    let es := (j.circs.filterMap fun c => c.deliversTo s.coll.logicalId.toNat).filter fun e =>
      (s.entry e).kind == 2 && (s.entry e).collCtl % 2 == 1
    es.foldl insertNat []

/-- A commit decision in this cycle (R405): the copies of COMMIT_COPY_DONE follow. -/
def State.commitDecided (s : State) (d : Nat) : State :=
  s.onDom d fun c => { c with state := .committing, commitTime := s.clk.rackTime }

/-- The root or a participant that has decided sends the decision to its children in the next control slot (R404). -/
def State.sendDecision (s : State) (d value reason : Nat) : State :=
  match (s.domAt d).activeJob with
  | none => s
  | some j =>
    (portsOf j.childMask).foldl (fun s p => s.sendControl d 0x03 p s.clk.rackTime (s.barrierPayload d 2 value reason 0)) s

/-- A decision in this cycle: commit, or abort with a reason. An abort decided elsewhere is remote. -/
def State.settle (s : State) (d : Nat) (commit : Bool) (reason : Nat) (from_ : Option Nat) : State :=
  let s := s.sendDecision d (bit01 commit) (if commit then 0 else reason)
  if commit then s.commitDecided d else s.abortEpoch d reason (from_.map fun x => (x, s.clk.rackTime))

/-- Cells that a circuit delivers in an epoch: a transfer without elements is one channel barrier (R390, R400). -/
def State.circuitCells (s : State) (c : Circuit) : Nat :=
  match c.deliversTo s.coll.logicalId.toNat with
  | some e => c.transfers * max 1 (dataCells (s.entry e).count ((Fmt.ofCode (s.entry e).efmt).getD .fp32).bits)
  | none => 0

/-- Look a key up in a list of pairs. -/
def lookPair (l : List (Nat × Nat)) (k : Nat) : Nat := ((l.find? fun x => x.1 == k).map (·.2)).getD 0

/-- The keys under which `cellIdx` counts the data cells of circuit i that have come on class O, and those that have been written; lower keys are
ports. -/
def elasticKey (i : Nat) : Nat := 64 + 2 * i
def writtenKey (i : Nat) : Nat := 65 + 2 * i

/-- Count one more under a key of `cellIdx`. -/
def State.bumpKey (s : State) (d k : Nat) : State :=
  s.onDom d fun c => { c with cellIdx := (k, lookPair c.cellIdx k + 1) :: c.cellIdx.filter fun x => x.1 != k }

/-- Has every elastic cell of the epoch been written (R404)? -/
def State.elasticDone (s : State) (d : Nat) : Bool :=
  match (s.domAt d).activeJob with
  | none => true
  | some j => ((List.range j.circs.length).zip j.circs).all fun (i, c) =>
      !(c.ins.any fun p => s.cfg.portClass p == 4) || decide (s.circuitCells c ≤ lookPair (s.domAt d).cellIdx (writtenKey i))

/-- Votes: every child has voted and the chip is VOTING; the vote goes up, or the root decides (R404). No vote goes out while a tag group
is unconfirmed (R146) or an elastic cell is outstanding. Child votes are kept as
(port, participants counted, the reason of a vote against commit). -/
def State.voteUp (s : State) (d : Nat) : State :=
  let c := s.domAt d
  match c.activeJob with
  | none => if c.state = .voting then s.settle d true 0 none else s
  | some j =>
    let kids := portsOf j.childMask
    if c.state = .voting ∧ !c.myVoteSent ∧ (kids.all fun p => c.childVotes.any fun v => v.1 == p) ∧ c.groups = [] ∧ s.elasticDone d then
      let counted := c.childVotes.foldl (fun n v => n + v.2.1) 1
      let fail := c.childVotes.findSome? fun v => v.2.2
      let ok := fail.isNone
      let s := s.onDom d fun c => { c with myVoteSent := true }
      if s.isRoot d then
        if ok ∧ counted = j.participants then s.settle d true 0 none else s.settle d false (fail.getD 0x25) none
      else
        s.sendControl d 0x03 j.parentPort s.clk.rackTime (s.barrierPayload d 1 (bit01 ok) (fail.getD 0) (counted - 1))
    else s

/-- END has completed: the participant votes, or a job of one commits (R404). -/
def State.endCompleted (s : State) (d : Nat) : State :=
  (s.onDom d fun c => { c with state := .voting, endTime := s.clk.rackTime, myVoteSent := false }).voteUp d

/-! ## Fatal halts (R50, R79, R431-R433) -/

/-- Enter HALTED. Requests keep being taken while FW_HALTED is 0; no EPOCH_END of an epoch cut short is posted (R432). -/
def State.enterHalted (s : State) : State :=
  let s := s.onAon fun a => { a with power := .halted }
  s.onKol fun k => { k with epochs := k.epochs.map fun e => { e with mute := true } }

/-- The abort protocol of an immediate halt: ABORT with FATAL_ALARM, ROLLED to ROOT without a rollback (R432). -/
def State.haltDomain (s : State) (d : Nat) : State :=
  if (s.domAt d).state.live then
    let s := s.abortEpoch d 0x29 none
    (s.onDom d fun c => { c with state := .rolled }).sendRolled d
  else s

/-- Requests that Kolate holds, in the order in which it took them. -/
def Kolate.holding (k : Kolate) : List Req := k.waiting ++ (k.cleaning.map Cleaning.req).toList ++ k.held.toList

/-- Run entries for later epochs are discarded; every request that Kolate holds completes HALTED, an EPOCH_RUN or RUN_PREFIX with its reserved
slot freed (R80, R114; notes/assumptions/33). -/
def State.dropQueues (s : State) : State :=
  let s := { s with seqs := s.seqs.map (fun (q : Sequencer) => { q with runq := [] }) }
  let s := s.onKol fun k => { k with epochs := k.epochs.filter fun e => e.released, stalled := false }
  s.kol.holding.foldl (fun s r => s.complete r 0x11 0 0 0 0) s

/-- A fatal alarm that halts at once (codes 0x03 to 0x05): before the ready message it only latches (R107). -/
def State.fatalNow (s : State) (code : Nat) (loc : Option SramLoc) : State :=
  let s := s.latchFatal code loc
  if s.aon.power.serves then ((List.range s.cfg.nSeq).foldl State.haltDomain s).enterHalted.dropQueues else s

/-- Every port is dropped and every pair enters bypass, without a cell sent (R50, R108). -/
def State.dropAllPorts (s : State) : State :=
  let s := (List.range s.cfg.nPort).foldl (fun s p =>
    (s.portDown p 0x09).onPort p fun q => { q with phyLpbk := false }) s
  (List.range s.cfg.nPair).foldl State.assertBypass s

/-- Is an epoch left that an epoch-boundary halt waits for? A stopped epoch does not hold it up (R433; notes/assumptions/30). -/
def State.epochLeft (s : State) : Bool := s.seqs.any fun q => q.run.isSome && !q.stopped

/-- A halt at the epoch boundary is pending from now on (R433): no new epoch is released. -/
def State.boundaryHaltAt (s : State) (code : Nat) : State :=
  s.onAon fun a => { a with boundaryHalt := a.boundaryHalt ||| BitVec.ofNat 32 (2 ^ (code - 1)) }

/-- The boundary is reached: FW_FATAL latches there, the block enters HALTED (R128, R433). -/
def State.takeBoundaryHalt (s : State) : State :=
  if s.aon.boundaryHalt ≠ 0 ∧ !s.epochLeft then
    let s := if s.aon.boundaryHalt.getLsbD 6 then s.latchFatal 0x07 none else s
    let s := s.onAon fun a => { a with boundaryHalt := 0 }
    if s.aon.power.serves then s.enterHalted.dropQueues else s
  else s

/-! ## Start-up failures (R99, R104, R438) -/

/-- Start-up ends in FAILED with a reason: PHASE 0xFF, every PHY_EN 0, every pair in bypass (R108). -/
def State.startEnd (s : State) (reason : Nat) : State :=
  let s := s.onBoot fun b => { b with phase := 0xFF, reason := BitVec.ofNat 8 reason, secReq := false }
  let s := s.onAon fun a => { a with power := .failed }
  let s := { s with ports := s.ports.map fun (p : Port) => { p with phyEn := false } }
  (List.range s.cfg.nPair).foldl State.assertBypass s

/-- Start-up ends with a fatal reason, which triggers the snapshot with 0x80 + code (R438). -/
def State.startFail (s : State) (reason : Nat) (loc : Option SramLoc) : State := (s.startEnd reason).snapTrigger (0x80 + reason) loc

/-- Start-up stops with a reason that is not fatal (FW_IMAGE, FW_AUTH, FW_START): STARTING, PHASE 0xFF (R103). -/
def State.startStop (s : State) (reason : Nat) : State :=
  s.onBoot fun b => { b with phase := 0xFF, reason := BitVec.ofNat 8 reason }

end Sys2Proof.Machine
end

