-- ==== Sys2Proof/Machine/Errors.lean ====
section
/-! DEFINITION. Firmware halts (04 R128), and errors in words of the block's memories (17 R421, R423, R427, R430). -/

namespace Sys2Proof.Machine

/-! ## Firmware halts (R128) -/

/-- Codes of the table "Firmware halt reasons". -/
def fwHaltCode : FwHalt → Nat
  | .doubleFault => 1
  | .spillExhausted => 2
  | .illegalInstruction => 3
  | .memoryUncorrectable => 4
  | .watchdog => 5
  | .assertion => 6

/-- The FW_FATAL entry: program counter and trap cause are free values. -/
def State.fatalEntry (s : State) (reason : Nat) : W4 :=
  cplEntry 0xFFFF 0x8F 0 reason s.kol.fwPc (word s.clk.rackTime) s.kol.trapCause

/-- Reasons that stop the core while W7 is current: a trap or call made there, or an overflow that finds the spill area full (R128). -/
def haltsInTrap (reason : Nat) : Bool := reason == 1 || reason == 2

/-- The record and, where mailbox 0 has a slot, the completion; FW_HALTED. -/
def State.recordFatal (s : State) (reason : Nat) : State :=
  let (pc, s) := s.fresh
  let (cause, s) := s.fresh
  let s := s.onKol fun k => { k with fwPc := pc, trapCause := cause }
  let e := s.fatalEntry reason
  let s := if (s.mbxAt 0).inFlight < (s.mbxAt 0).entries then s.onMbx 0 fun b => b.store e else s
  s.onKol fun k => { k with fatalRec := e, fwHalted := true, held := none, waiting := [], cleaning := none, inTrap := k.inTrap || haltsInTrap reason
                            epochs := k.epochs.map fun x => { x with mute := true } }

/-- A firmware halt: in start-up it ends start-up, later the block halts at the epoch boundary, at once when no epoch runs. -/
def State.firmwareHalt (s : State) (reason : Nat) : State :=
  let s := s.recordFatal reason
  match s.aon.power with
  | .starting => s.startFail 0x07 none
  | .running | .maintenance => (s.dropQueues.boundaryHaltAt 0x07).takeBoundaryHalt
  | _ => s

/-- May the control core halt: it runs, or phase 0x06 starts it (R101, R128)? -/
def State.coreRuns (s : State) : Bool := (s.kol.running || (s.aon.power == .starting && s.boot.phase == 6)) && !s.kol.fwHalted

/-- Set a key of an ascending list of pairs. -/
def setPair : List (Nat × Nat) → Nat → Nat → List (Nat × Nat)
  | [], k, v => [(k, v)]
  | x :: l, k, v => if k < x.1 then (k, v) :: x :: l else if k = x.1 then (k, v) :: l else x :: setPair l k v

/-- An event of a memory word (table "Event codes"): CE, PATROL_ZEROED. -/
def State.memEvent (s : State) (code : Nat) (l : SramLoc) : State :=
  s.event code (l.mem.toNat + l.inst.toNat % 256 * 256) none (l.mem.toNat + l.word.toNat % 2 ^ 40 * 256)

/-- A corrected word counts in its memory and posts CE. -/
def State.correctedWord (s : State) (l : SramLoc) : State :=
  let m := l.mem.toNat
  let s := s.onGln fun g =>
    { g with ceCount := setPair g.ceCount m (((g.ceCount.find? fun x => x.1 == m).map Prod.snd).getD 0 + 1) }
  s.memEvent 0x0001 l

/-- A word rewritten as zero (R421, R431). -/
def State.zeroedWord (s : State) (l : SramLoc) : State := (s.memEvent 0x0002 l).warn 2

/-- The fatal alarm SRAM_UE. -/
def State.sramUe (s : State) (l : SramLoc) : State := s.fatalNow 0x03 (some l)

/-- An uncorrectable word of a command memory bank. -/
def State.cmdUe (s : State) (l : SramLoc) (bank a : Nat) : State :=
  let q := 8 * a / s.cfg.segBytes
  if (s.seqAt q).activeBank = bank then s.sramUe l
  else
    let s := { s with cmdMem := s.cmdMem.clear (262144 * bank + 8 * a) 8 }
    (s.onSeq q fun x => { x with load := .empty, session := none, imgLen := x.imgLen.set bank 0 }).zeroedWord l

/-- An uncorrectable word of the ledger: entries' words come first, then one checkpoint word for each. -/
def State.ledgerUe (s : State) (l : SramLoc) (a : Nat) : State :=
  let e := if a < 524288 then a / 4 else a - 524288
  if (s.entry e).kind = 0 then
    (if a < 524288 then { s with ledger := s.ledger.clear (8 * a) 8 }
      else { s with ckpt := s.ckpt.filter fun x => x.1 != e }).zeroedWord l
  else s.sramUe l

/-- An uncorrectable word of the table store. -/
def State.tableUe (s : State) (l : SramLoc) (a : Nat) : State :=
  if s.liveDoms.any fun d => (partTables (s.partAt d).words).testBit (a / 320) then s.sramUe l
  else { s with tables := s.tables.clear (8 * a) 8 }.zeroedWord l

/-- The place in a newest-first list of the record in a slot of a ring of 4096, when `tail` records have been written. -/
def ringPlace (tail slot : Nat) : Nat := (tail + 4095 - slot) % 4096

/-- An uncorrectable word of the gleaner's buffers: event ring, trace buffer, snapshot. The entry that holds it reads as zero. -/
def State.gleanerUe (s : State) (a : Nat) : State :=
  s.onGln fun g =>
    let g := { g with ue := sat32 g.ue }
    if a < 16384 then { g with events := g.events.set (ringPlace g.evtTail.toNat (a / 4)) W4.zero }
    else if a < 24576 then { g with trace := g.trace.set (ringPlace g.traceTail.toNat ((a - 16384) / 2)) (0, 0) }
    else { g with snap := g.snap.set (a - 24576) 0 }

/-- An uncorrectable word of a mailbox window: the mailbox is reset as by MBX_RESET, with the event MBX_UE. -/
def State.mailboxUe (s : State) (m : Nat) : State := (s.resetMbx m).event 0x000C (9 + m * 256) none m

/-- The host reads a word of a mailbox window whose code finds `find`: an uncorrectable word reads as zero, with OK (R421). No row of the
table is such a read. -/
def State.mailboxRead (s : State) (m a : Nat) (find : PatrolFind) : Word × State :=
  match find with
  | .uncorrectable => (0, s.mailboxUe m)
  | _ => ((s.mbxAt m).mem.read64 a, s)

/-- What an uncorrectable word of a patrolled memory causes (table "Block memories and their faults"). -/
def State.uncorrectable (s : State) (l : SramLoc) : State :=
  let a := l.word.toNat
  match l.mem.toNat with
  | 1 => s.cmdUe l 0 a
  | 2 => s.cmdUe l 1 a
  | 3 => s.ledgerUe l a
  | 4 => s.tableUe l a
  | 5 | 6 => s.sramUe l
  | 7 | 8 => if s.coreRuns then s.firmwareHalt 4 else s
  | 9 => s.mailboxUe (a / 1024)
  | 10 => s.gleanerUe a
  | _ => s

/-- An uncorrectable word is counted once in a cycle, whether the patrol or another access finds it first (R423): what it causes depends on
the memory alone. -/
def State.uncorrectableOnce (s : State) (l : SramLoc) : State :=
  let seen := if s.gln.found.1 = s.clk.localTime then s.gln.found.2 else []
  if seen.contains l then s
  else (s.onGln fun g => { g with found := (s.clk.localTime, l :: seen) }).uncorrectable l

/-- What a word's code finds, for a patrolled memory. -/
def State.foundWord (s : State) (l : SramLoc) : PatrolFind → State
  | .clean => s
  | .corrected => s.correctedWord l
  | .uncorrectable => s.uncorrectableOnce l

/-! ## Errors in words that a command's accesses meet (R421, R427, R430) -/

/-- A core that leaves a position: a spare becomes FREE, the position's own core FENCED. -/
def Cores.retire (nActive : Nat) (c : Cores) (k : Nat) : Cores :=
  { c with phys := c.phys.modify k fun p => { p with state := if nActive ≤ k then .free else .fenced } }

/-- The shadow of a position becomes k, or ends; the one before retires. -/
def Cores.setShadow (nActive : Nat) (c : Cores) (g : Nat) (k : Option Nat) : Cores :=
  if c.shadow.getD g none = k then c
  else
    let c := match c.shadow.getD g none with
      | some old => if c.serve.getD g g = old then c else Cores.retire nActive c old
      | none => c
    let c := { c with shadow := c.shadow.set g k }
    match k with
    | some n => { c with phys := c.phys.modify n fun p => { p with state := .shadowing } }
    | none => c

/-- A corrected word of a core's memory: the core's count; at CE_LIMIT the warning and an event (R427). -/
def State.coreCorrected (s : State) (l : SramLoc) : State :=
  let k := l.inst.toNat
  let s := (s.correctedWord l).onCores fun c => { c with phys := c.phys.modify k fun p => { p with corrected := sat16 p.corrected } }
  let n := ((s.cores.phys[k]?).map fun p => p.corrected.toNat).getD 0
  if n = s.win.ceLimit.toNat then (s.warn 0).event 0x0003 k none n else s

/-- May a halt of domain d's epoch be detected now: the epoch runs or votes, or has aborted in this cycle (R211)? -/
def State.mayHalt (s : State) (d : Nat) : Bool :=
  let c := s.domAt d
  c.state.live || (c.state == .aborting && c.abortTime == s.clk.rackTime)

/-- An uncorrectable word of a core's memory: CORE_MEMORY of a serving core; a shadowing spare becomes FENCED (R210, R430). -/
def State.coreUe (s : State) (q idx off : Nat) (l : SramLoc) : State :=
  let k := l.inst.toNat
  match (s.cores.phys[k]?).map PhysCore.state with
  | some .serving =>
    match s.cores.posOf k with
    | some g =>
      if s.mayHalt q then s.runtimeHalt q { reason := 6, stream := 5, idx := idx, off := off, core := some g, detail := 0, stamp := 0 } else s
    | none => s
  | some .shadowing =>
    let s := match s.cores.shadow.findIdx? (· == some k) with
      | some g => s.onCores fun c => Cores.setShadow s.cfg.nActive c g none
      | none => s
    (s.onCores fun c => { c with phys := c.phys.modify k fun p => { p with state := .fenced } }).event 0x0006 k none l.mem.toNat
  | _ => s

/-- A word with an error that an access of a command meets. -/
def State.takeHit (s : State) (q idx off : Nat) (h : SramHit) : State :=
  if h.loc.mem.toNat < 0x10 then s.foundWord h.loc h.find
  else
    match h.find with
    | .clean => s
    | .corrected => s.coreCorrected h.loc
    | .uncorrectable => s.coreUe q idx off h.loc

/-- A difference between a position's outputs and its shadow's: the first of each command is reported (R428, R429). -/
def State.takeDiff (s : State) (q idx : Nat) (d : ShadowDiff) : State :=
  let seen := match (s.seqAt q).run with
    | some r => r.flight.any fun f => f.idx == idx && f.diffed
    | none => true
  if seen || !(s.cores.shadow.getD d.pos none).isSome then s
  else
    let s := s.onRun q fun r => { r with flight := r.flight.map fun f => if f.idx = idx then { f with diffed := true } else f }
    (s.warn 1).event 0x0005 (s.cores.serve.getD d.pos d.pos) (some q)
      (idx % 65536 + d.kind.toNat * 2 ^ 16 + d.byte.toNat * 2 ^ 20 + d.line.toNat * 2 ^ 32)

end Sys2Proof.Machine
end

