-- ==== Sys2Proof/Machine/Execute.lean ====
section
/-! DEFINITION. What a COMPUTE command's cores produce (06, 08-14): the slot chain on every element of a share, conversion at OUT,
scale notes, predicate values, and the writes that result. -/

namespace Sys2Proof

/-- An output element: OUT index, SCATTER's row index (0 otherwise), encoded bits, value and flags, and whether it is NaN
(`some false`) or infinite (`some true`) before its final encoding (R236). -/
structure OutEl where
  idx : List Nat
  row : Int
  bits : Nat
  e : El
  special : Option Bool
deriving DecidableEq, Repr

/-- What one core produces. `halt` names the row and line of a PROT_WINDOW halt (R303). -/
structure CoreOut where
  rank : Nat
  outs : List OutEl
  scales : List (List Nat × Nat)
  note : Option (List Nat)
  pred : Option Bool
  exc : Fl
  halt : Option (List Nat × Nat)
deriving DecidableEq, Repr

/-- The format in which the chain delivers values to FUNC, and to CONV or OUT (R248). -/
def Cmd.winFmt (c : Cmd) : Fmt :=
  match c.win with
  | some w => if w.op = 4 ∨ w.op = 5 then .int32 else cfFmt w.af
  | none => c.compFmt c.inA

/-- FUNC's working format (R261). -/
def Cmd.funcFmt (c : Cmd) : Fmt :=
  match c.win, c.alu with
  | some w, _ => if w.af = 1 then .wx32 else .fp32
  | none, some a => if a.cf = 1 then .wx32 else .fp32
  | none, none => .fp32

def Cmd.delivFmt (c : Cmd) : Fmt := if c.func.isSome then c.funcFmt else c.winFmt

/-- OUT's element format; none when the destination is none. -/
def Cmd.outFmt (c : Cmd) : Option Fmt :=
  match c.out with
  | some o => if o.dst = 1 then (c.desc o.dsel).map Desc.format else if o.dst = 0 then none else Fmt.ofCode o.sfmt
  | none => none

/-- Is the command a move of fine scales (R219)? -/
def Cmd.rawMove (c : Cmd) : Bool := (c.inFmt c.inA).isScale

/-- The seed of a SEED_ENTRY (R228). -/
def Env.seed (e : Env) (entry : Nat) : BitVec 32 := BitVec.ofNat 32 (e.entry entry).seed

/-- A rounding mode with the draw of linear index l at a stage (R226, R227). -/
def Env.rnd (e : Env) (field seed stage : Nat) (l : Int) : Rnd :=
  rndOf field (if field = 2 then srBits (e.seed seed) (l % 2 ^ 80).toNat stage else 0)

/-- The ALU slot's result for index i; l is the element's linear index for a stochastic draw (R172, R244). -/
def aluAt (e : Env) (c : Cmd) (m : Mems) (b : Box) (g : Nat) (i : List Nat) (l : Int) : El :=
  let a := operandA e c m b g i
  match c.alu with
  | none => a
  | some s =>
    let f := c.compFmt c.inA
    let imm := decodeElem f s.imm
    let y := if s.bsrc then { v := imm : El } else (operandB e c m b g i).getD { v := .zero }
    aluEl s.op s.swap f ⟨e.rnd s.rnd s.seed 0 l, c.strict⟩ a y imm

/-- The chain up to WIN for an element-wise command. -/
def elemAt (e : Env) (c : Cmd) (m : Mems) (b : Box) (g : Nat) (i : List Nat) (l : Int) : WOut :=
  let a := aluAt e c m b g i l
  match c.win with
  | none => { e := a }
  | some w => { e := winElem w c.strict (c.compFmt c.inA) (c.compFmt c.inB) a
                  (if c.hasB && c.alu.isNone then operandB e c m b g i else none) }

/-- The outputs of one row of a reduction (R250, R280). -/
def rowAt (e : Env) (c : Cmd) (m : Mems) (b : Box) (g : Nat) (w : WinSlot) (row : List Nat) : List WOut :=
  let red : Box := (List.range 4).map fun d =>
    if c.redDims.contains d then (0, c.space.getD d 1) else (row.getD d 0, row.getD d 0 + 1)
  let is := (List.range red.count).map red.nth
  winReduce w c.strict (c.compFmt c.inA) (is.map fun i => aluAt e c m b g i (linIdx c.space i))

/-- The linear index of an output element (R172): of OUT's element, with SCATTER's row index in place of its component (R302); of the
iteration space where OUT's destination is none and no WIN operation gives a shape of its own (R237). -/
def Cmd.outL (c : Cmd) (o : List Nat) (row : Int) : Int :=
  match c.perm with
  | some p =>
    if p.op = 2 then linIdx c.outShape (setIdx o p.dimP 0) + row * ((c.outShape.take p.dimP).foldl (· * ·) 1 : Nat)
    else if (c.out.map OutSlot.dst).getD 0 = 0 then linIdx (if c.reduces then c.outShape else c.space) (if c.reduces then o else c.srcIdx o)
    else linIdx c.outShape o
  | none => linIdx c.outShape o

/-- WIN-stage outputs of a core, in ascending linear index of the output shape; `lin` gives an output's linear index. -/
def winOuts (e : Env) (c : Cmd) (m : Mems) (b : Box) (g : Nat) (lin : List Nat → Int) : List (List Nat × WOut) :=
  let ob := c.outBox b
  let os := (List.range ob.count).map ob.nth
  match c.win with
  | some w =>
    if c.reduces then
      let low := c.redDims.headD 0
      let rows := (os.filter fun o => o.getD low 0 == 0).map fun o => (o, rowAt e c m b g w o)
      os.filterMap fun o =>
        (rows.find? fun r => r.1 == setIdx o low 0).bind fun r => (r.2[o.getD low 0]?).map fun x => (o, x)
    else os.map fun o => (o, elemAt e c m b g (c.srcIdx o) (lin o))
  | none => os.map fun o => (o, elemAt e c m b g (c.srcIdx o) (lin o))

/-- FUNC on a WIN-stage output; LN_STATS' element 0 passes (R291). -/
def funcAt (e : Env) (c : Cmd) (o : List Nat) (x : WOut) : WOut :=
  match c.func with
  | none => x
  | some f =>
    let isMean := (c.win.map fun w => w.op == 8).getD false && o.getD (c.redDims.headD 0) 0 == 0
    if isMean then x
    else { x with e := funcEl f c.hdr.mode c.funcFmt (e.tabRec f.tidx) c.winFmt x.e }

/-- Is a value NaN or infinite? -/
def specialOf (vs : List Val) : Option Bool := (vs.find? Val.special).map Val.isInf

/-- An output without CONV: rounded to OUT's format by round to nearest, unless WIN fixed its bits (R161). -/
def plainOut (c : Cmd) (row : Int) (o : List Nat) (x : WOut) : OutEl :=
  match c.outFmt with
  | none => { idx := o, row := row, bits := 0, e := x.e, special := specialOf [x.e.v] }
  | some f =>
    match x.raw with
    | some r => { idx := o, row := row, bits := r, e := x.e, special := specialOf [x.e.v] }
    | none =>
      let y := roundEl f .rne c.strict (c.delivFmt == f) x.e
      { idx := o, row := row, bits := encodeElem f y.v, e := y, special := specialOf [x.e.v, y.v] }

/-- An output through CONV with SCALE 0b00 or 0b01 (R230). -/
def convOut (e : Env) (c : Cmd) (s : ConvSlot) (row : Int) (o : List Nat) (l : Int) (x : El) : OutEl :=
  match c.outFmt with
  | none => { idx := o, row := row, bits := 0, e := x, special := specialOf [x.v] }
  | some f =>
    let u := if s.scale = 0 then x else coarseEl s.imm c.strict x
    let y := roundEl f (e.rnd s.rnd s.seed 1 l) c.strict (if s.scale = 0 then c.delivFmt == f else f == .fp32) u
    { idx := o, row := row, bits := encodeElem f y.v, e := y, special := specialOf [x.v, u.v, y.v] }

/-- Consecutive outputs of one bushel along dimension 0 (R168). The first argument bounds their number. -/
def bushelRuns (size : Nat) : Nat → List (List Nat × El) → List (List (List Nat × El))
  | 0, _ => []
  | n + 1, l =>
    match l with
    | [] => []
    | x :: _ =>
      let key (y : List Nat × El) := y.1.set 0 (y.1.getD 0 0 / size)
      let run := l.takeWhile fun y => key y == key x
      run :: bushelRuns size n (l.drop run.length)

/-- One bushel through CONV with SCALE 0b10: outputs, and the companion's element (R230, R231). -/
def bushelOut (e : Env) (c : Cmd) (s : ConvSlot) (f comp : Fmt) (size : Nat) (lin : List Nat → Int) (xs : List (List Nat × El)) :
    List OutEl × (List Nat × Nat) × Held :=
  let us := xs.map fun x => coarseEl s.imm c.strict x.2
  let (code, held) := chooseScale f comp (us.map El.v)
  let rnds := xs.map fun x => e.rnd s.rnd s.seed 1 (lin x.1)
  let ys := fineEls f c.strict (decodeElem comp code) (us.zip rnds)
  let outs := (xs.zip (us.zip ys)).map fun (x, u, y) =>
    ({ idx := x.1, row := 0, bits := encodeElem f y.v, e := y, special := specialOf [x.2.v, u.v, y.v] } : OutEl)
  let o := (xs.headD ([], { v := .zero })).1
  (outs, (o.set 0 (o.getD 0 0 / size), code), held)

/-- The first row of a GATHER or SCATTER with a line outside every window or a bit outside the address space, and its first such line
(R303). -/
def badRow (e : Env) (sp : Mem) (d x : Desc) (p : PermSlot) (b : Box) : Option (List Nat × Nat) :=
  let rows := ((List.range b.count).map b.nth).filter fun i => i.getD 0 0 == (b.getD 0 (0, 0)).1
  rows.findSome? fun i =>
    let bit := d.bitAddrAt (setIdx i 0 0) p.dimP (rowIndex sp x i)
    let n := (d.sizeAt 0 * d.width + 4095) / 4096
    ((List.range n).map fun k => bit / 4096 + (k : Int)).find? (fun l => decide (l < 0 ∨ 2 ^ 31 ≤ l) || !inWindow e.part l.toNat)
      |>.map fun l => (setIdx i 0 0, (l % 2 ^ 32).toNat)

/-- Does an index's row come before a halting row in order? -/
def rowBefore (b : Box) (i halt : List Nat) : Bool := decide (b.rankOf (setIdx i 0 ((b.getD 0 (0, 0)).1)) < b.rankOf (setIdx halt 0 ((b.getD 0 (0, 0)).1)))

/-- One core's work on its share (R160). A note's record covers the elements that reach CONV, one for each output (R233; DESIGN CHOICE,
notes/assumptions/103). -/
def coreRun (e : Env) (c : Cmd) (m : Mems) (rank : Nat) : CoreOut :=
  let b := c.share e.nCores rank
  let g := (e.pos rank).idx
  let empty : CoreOut := { rank := rank, outs := [], scales := [], note := none, pred := none, exc := {}, halt := none }
  if b.count = 0 then empty
  else
    let halt := match c.perm, c.indexDesc with
      | some p, some x =>
        if p.op = 1 then c.descA.bind fun d => badRow e m.sp d x p b
        else if p.op = 2 then c.descOut.bind fun d => badRow e m.sp d x p b
        else none
      | _, _ => none
    let scatRow (o : List Nat) : Int :=
      match c.indexDesc with
      | some x => if c.permIs 2 then rowIndex m.sp x o else 0
      | none => 0
    let done (o : List Nat) : Bool := halt.all fun h => rowBefore b o h.1
    if c.rawMove then
      let ob := c.outBox b
      { empty with
        outs := (((List.range ob.count).map ob.nth).filter done).map fun o =>
          { idx := o, row := scatRow o, bits := rawScaleA c m (c.srcIdx o), e := { v := .zero }, special := none }
        halt := halt }
    else
    let lin (o : List Nat) : Int := c.outL o (scatRow o)
    let ws : List (List Nat × WOut) := (winOuts e c m b g lin).filter fun x => done x.1
    let preds : List (Bool × Fl) := match c.win with
      | some w => if w.pset then ws.map fun x => predOf w c.strict x.2.e.v else []
      | none => []
    let fs : List (List Nat × WOut) := ws.map fun x => (x.1, funcAt e c x.1 x.2)
    let conv : List OutEl × List (List Nat × Nat) × Nat × Nat := match c.conv with
      | none => (fs.map fun x => plainOut c (scatRow x.1) x.1 x.2, [], 0, 0)
      | some s =>
        match (if s.scale = 2 then c.descOut.bind fun d => (c.companion d).map fun k => (d, k) else none) with
        | some (d, k) =>
          let rs := (bushelRuns d.bushel (fs.length + 1) (fs.map fun x => (x.1, x.2.e))).map
            (bushelOut e c s d.format k.format d.bushel lin)
          (rs.flatMap (·.1), rs.map (·.2.1), (rs.filter fun r => r.2.2 == .high).length, (rs.filter fun r => r.2.2 == .low).length)
        | none => (fs.map fun x => convOut e c s (scatRow x.1) x.1 (lin x.1) x.2.e, [], 0, 0)
    let (outs, scales, high, low) := conv
    let note := c.noteDesc.map fun _ =>
      let comp := c.descOut.bind fun d => (c.companion d).map Desc.format
      let scaled := (c.conv.map fun s => s.scale == 2).getD false
      noteWords (fs.map fun x => x.2.e.v) c.outFmt (if scaled then comp else none) high low
    let comb := (c.win.map WinSlot.pcomb).getD false
    { rank := rank, outs := outs, scales := scales, note := if halt.isSome then none else note
      pred := if preds.isEmpty then none else some (if comb then preds.all (·.1) else preds.any (·.1))
      exc := preds.foldl (fun f p => f.or p.2) {}, halt := halt }

/-! ## Writes -/

/-- A write of w bits at a bit address. -/
structure BitWrite where
  bit : Nat
  w : Nat
  val : Nat
deriving DecidableEq, Repr

/-- Bytes that a bit write touches. -/
def BitWrite.bytes (x : BitWrite) : List Nat := (List.range ((x.bit % 8 + x.w + 7) / 8)).map (x.bit / 8 + ·)

/-- One group of writes: every touched byte is written whole, bits of no element zero (R218). -/
def Mem.writeBits (m : Mem) (ws : List BitWrite) : Mem :=
  let m := (ws.flatMap BitWrite.bytes).foldl (fun m a => m.write a 0) m
  ws.foldl (fun m x =>
    let v := x.val % 2 ^ x.w * 2 ^ (x.bit % 8)
    ((List.range x.bytes.length).zip x.bytes).foldl (fun m (k, a) => m.write a (m.read a ||| BitVec.ofNat 8 (v / 256 ^ k))) m) m

/-- The write of one output into a plain descriptor OUT (R165, R302). -/
def outWrite (c : Cmd) (d : Desc) (o : OutEl) : BitWrite :=
  let bit := match c.perm with
    | some p => if p.op = 2 then d.bitAddrAt o.idx p.dimP o.row else d.bitAddr o.idx
    | none => d.bitAddr o.idx
  ⟨bit.toNat, d.width, o.bits⟩

/-- Scratchpad writes of a plain descriptor OUT and its companion: groups in order (R165, R302). -/
def spWrites (c : Cmd) (d : Desc) (co : CoreOut) : List (List BitWrite) :=
  let comp := match c.companion d with
    | some k => if co.scales.isEmpty then [] else [co.scales.map fun (i, v) => ({ bit := (k.bitAddr i).toNat, w := k.width, val := v } : BitWrite)]
    | none => []
  if c.permIs 2 then (chunksOf (d.sizeAt 0) (co.outs.map (outWrite c d))) ++ comp else (co.outs.map (outWrite c d)) :: comp

/-- Scale-note writes of a core (R233). -/
def noteWrites (c : Cmd) (co : CoreOut) : List BitWrite :=
  match c.noteDesc, co.note with
  | some d, some ws =>
    if c.hdr.split = 4 ∧ co.rank ≠ 0 then []
    else
      let r := if c.hdr.split = 4 then 0 else co.rank
      ((List.range 8).zip ws).map fun (k, w) => ({ bit := (d.bitAddr [k, r, 0, 0]).toNat, w := 32, val := w } : BitWrite)
  | _, _ => []

/-- Sheaf writes of a core: elements in ascending order from the start of the sheaf (R170). -/
def sheafWrites (g k : Nat) (f : Fmt) (co : CoreOut) : List BitWrite :=
  let w := if f.bits = 6 then 8 else f.bits
  ((List.range co.outs.length).zip co.outs).map fun (t, o) => ({ bit := (65536 * g + 4096 * k) * 8 + t * w, w := w, val := o.bits } : BitWrite)

/-- A context append of a core: writes, and its outputs with the granary's flags (R236, R340-R343, R346). TOPK's index words are encoded
as the FP32 elements that leave the core. -/
def appendCore (e : Env) (c : Cmd) (d : Desc) (co : CoreOut) : List BitWrite × List OutEl :=
  let key (o : OutEl) := (o.idx.getD 1 0, o.idx.getD 2 0)
  let keys : List (Nat × Nat) := (co.outs.map key).foldl (fun l k => if l.contains k then l else l ++ [k]) []
  let rs : List (List BitWrite × List OutEl) := keys.map fun (i1, i2) =>
    let en := e.entry (d.entry + i2)
    let row : List OutEl := co.outs.filter fun o => key o == (i1, i2)
    let i0 := (row.headD ({ idx := [], row := 0, bits := 0, e := { v := .zero }, special := none } : OutEl)).idx.getD 0 0
    if e.appendRows (d.entry + i2) (d.sizeAt 1) ≤ i1 then
      (([] : List BitWrite), row.map fun (o : OutEl) => { o with e := { o.e with fl := o.e.fl.or { sat := true } } })
    else
      let p := en.cursor + i1
      let leaves (o : OutEl) : El := { o.e with v := decodeElem d.format o.bits }
      let enc := encodeRow en c.strict p i0 (row.map leaves)
      let us : List El := row.map fun o => coarseEl en.coarse c.strict (leaves o)
      let data := ((List.range enc.codes.length).zip enc.codes).map fun (k, v) =>
        (⟨en.dataAddr p * 8 + (i0 + k) * en.tierBits, en.tierBits, v⟩ : BitWrite)
      let scl := ((List.range enc.scales.length).zip enc.scales).map fun (k, v) =>
        (⟨(en.scaleAddr p + i0 / en.scaleDiv + k) * 8, 8, v⟩ : BitWrite)
      (data ++ scl, (row.zip (us.zip enc.els)).map fun (x : OutEl × El × El) =>
        { x.1 with e := x.2.2, special := match x.1.special with | some s => some s | none => specialOf [x.2.1.v] })
  (rs.flatMap (·.1), rs.flatMap (·.2))

/-! ## Prologue streams (R316-R319) -/

/-- A core's outputs after the coupler's prologue stages. -/
def prologueOuts (ch : Chain) (o : OutSlot) (sheafByte : Nat → Nat → Nat) (co : CoreOut) : List OutEl :=
  if o.pkind = 2 ∨ ch.proN = 0 then co.outs
  else
    ((List.range co.outs.length).zip co.outs).map fun (k, x) =>
      let (u, y) := prologueEl ch ((Fmt.ofCode o.sfmt).getD .fp32) sheafByte k x.bits x.e.fl
      { x with bits := encodeElem ((Fmt.ofCode ch.proFmt).getD .fp32) y.v, e := y
               special := match x.special with | some s => some s | none => specialOf [u.v, y.v] }

/-- Pack elements of width w into a number from bit 0 up (R165). -/
def packBits (w : Nat) : List Nat → Nat
  | [] => 0
  | x :: xs => x % 2 ^ w + 2 ^ w * packBits w xs

/-- The 64-byte lane of beat b of a packed stream (R319). -/
def laneOf (stream b : Nat) : Bytes := leBytes 64 (stream / 2 ^ (512 * b))

end Sys2Proof
end

