-- ==== Sys2Proof/Machine/Sends.lean ====
section
/-! DEFINITION. What a domain's network channels send and deliver: the slot that a cell takes, sending with tag groups (05 R144, R145; 15 R356),
delivery into shadow regions (16 R391, R394, R395), reductions in flight (R396-R399), and the dated effects of commands (06 R26). -/

namespace Sys2Proof

/-! ## Slots of patterns (R390) -/

/-- The transfer and the cell of a pattern that a slot belongs to. -/
def Circuit.findSlot (c : Circuit) (p : Pattern) (j0 j : Nat) : Option (Nat × Nat) :=
  (List.range c.transfers).findSome? fun t =>
    let f := c.slot p j0 t 0
    let k := (j - f) / max p.period 1
    if f ≤ j ∧ (j - f) % max p.period 1 = 0 ∧ k < p.cells then some (t, k) else none

/-- Is cell k of a pattern of `cells` cells with tag groups of g a tag cell (R144)? -/
def isTagCell (g cells k : Nat) : Bool := g != 0 && decide (1 < cells) && (k % (g + 1) == g || k + 1 == cells)

/-- The number among data cells of cell k, a data cell. -/
def dataIndex (g k : Nat) : Nat := if g = 0 then k else k - k / (g + 1)

/-- COUNT of data cell n of a stream of `total` elements of w bits: elements whose last bit lies in the cell (R356). -/
def cellCount (w total n : Nat) : Nat := min (1792 * (n + 1) / w) total - min (1792 * n / w) total

/-- The 224 payload bytes of data cell n of a stream held as a number (R356). -/
def cellBytes (stream n : Nat) : Bytes := leBytes 224 (stream / 2 ^ (1792 * n))

/-- The channel that a circuit's inbound cells carry: a local entry's, else that of the cells it sends on (notes/assumptions/73). -/
def Circuit.inChannel (c : Circuit) (logical : Nat) (dst : Nat) : Nat :=
  if c.role = 2 ∧ c.xdeliv ∧ dst = logical then c.loc
  else if c.role = 3 ∧ c.lterm ∧ c.dst ≠ logical then c.loc
  else c.dstChannel

/-- The SP_WR grants of a cell's lines in the cycle model, as RACK_TIMEs (R394); none where the model has no such arrival. -/
def Env.cellGrants (e : Env) (entry t n : Nat) : List (Nat × Nat) :=
  let home := (e.entry entry).home
  match e.rankAt home with
  | some k =>
    match (arrivalPuts e.cfg (e.pos k) (e.arrivalsAt home)).find? fun a => a.1.entry == entry && a.1.t == t && a.1.n == n with
    | some a => a.2.map fun x => (x.1, e.start + x.2)
    | none => []
  | none => []

namespace Machine

/-- A cell of a circuit: the circuit's index in the job, the circuit, the transfer and the cell of its pattern. -/
structure SlotUse where
  idx : Nat
  circ : Circuit
  t : Nat
  k : Nat
deriving DecidableEq, Repr

/-- Circuits of domain d's running job with their indices. -/
def State.circuitsIdx (s : State) (d : Nat) : List (Nat × Circuit) :=
  match (s.domAt d).activeJob with
  | some j => (List.range j.circs.length).zip j.circs
  | none => []

/-- The first slot of domain d's epoch (R390). -/
def State.firstSlot (s : State) (d : Nat) : Nat := slotAfter (((s.seqAt d).run.map Run.start).getD 0)

/-- The domain whose epoch runs or votes and to which the port is assigned. -/
def State.chanDom (s : State) (p : Nat) : Option Nat := (s.portDomain p).filter fun d => (s.domAt d).state.live

/-- Inbound cells of domain d's circuits in a slot of a port. -/
def State.usesOf (s : State) (d p slot : Nat) : List SlotUse :=
  (s.circuitsIdx d).filterMap fun (i, c) =>
    if c.ins.contains p then (c.findSlot c.inPat (s.firstSlot d) slot).map fun (t, k) => ⟨i, c, t, k⟩ else none

/-- Is the slot a control slot of the port's domain (R392)? -/
def State.controlUse (s : State) (d p slot : Nat) : Bool :=
  slot % 128 == 126 && (match (s.domAt d).activeJob with | some j => j.jobPorts.testBit p | none => false)

/-- The element width of an entry. -/
def State.entryWidth (s : State) (e : Nat) : Nat := ((Fmt.ofCode (s.entry e).efmt).getD .fp32).bits

/-! ## Sending (R144, R145, R356) -/

/-- The key stream of a session key applied to bytes from an offset of a group. -/
def groupStream (key : BitVec 256) (iv : Bytes) (off : Nat) (data : Bytes) : Bytes :=
  bytesOf ((gcmCtr (aesKeys (natsOf (keyBytes key))) (natsOf iv) (List.replicate off 0 ++ natsOf data)).drop off)

/-- The tag of a group. -/
def groupTag (key : BitVec 256) (iv headers cipher : Bytes) : Bytes :=
  bytesOf (gcmTag (aesKeys (natsOf (keyBytes key))) (natsOf iv) (natsOf headers) (natsOf cipher))

/-- The header of a scheduled cell on a circuit's outbound port. -/
def State.chanHdr (s : State) (d : Nat) (c : Circuit) (src : BitVec 16) (type seq efmt count : Nat) : CellHdr :=
  { dst := BitVec.ofNat 16 c.dst, src := src, channel := BitVec.ofNat 17 c.dstChannel
    tenant := BitVec.ofNat 3 (s.tenantOf d), seq := BitVec.ofNat 16 seq, epoch := (s.domAt d).epoch
    type := BitVec.ofNat 5 type, efmt := BitVec.ofNat 4 efmt, count := BitVec.ofNat 11 count }

/-- The slot of cell k of transfer t of a circuit's outbound pattern. -/
def State.outSlot (s : State) (d : Nat) (c : Circuit) (t k : Nat) : Nat := c.slot c.outPat (s.firstSlot d) t k

/-- Hand a scheduled cell of domain d to its outbound port; nothing leaves on a port that does not carry the domain's cells. -/
def State.emit (s : State) (d p slot : Nat) (h : CellHdr) (payload : Bytes) : State :=
  if s.carriesFor d p then s.send { port := p, slot := some slot, hdr := h, payload := padPayload payload } else s

/-- The open outbound group of a circuit, or a new one, which takes the transmit counter of the port and the domain's key (R145). -/
def State.openOut (s : State) (d i p : Nat) : State × TagGroup :=
  match (s.domAt d).outGroups.find? fun g => g.circuit == i with
  | some g => (s, g)
  | none =>
    (s.onPort p fun q => { q with txCtr := q.txCtr.modify d (· + 1) }, ⟨p, i, (s.portAt p).txCtr.getD d 0, [], [], 0⟩)

/-- Send data cell n of transfer t on circuit i of domain d; on a protected port it is encrypted in its tag group, and the group's tag cell
follows it in the circuit's next slot (R144, R145). -/
def State.sendData (s : State) (d i : Nat) (c : Circuit) (src : BitVec 16) (t n efmt count : Nat) (payload : Bytes) : State :=
  let p := c.outPort
  let g := c.gOut s.cfg
  let nd := (Circuit.dataOf c.outPat.cells g).getD c.outPat.cells
  let k := Circuit.cellOf g n
  let h := s.chanHdr d c src 0x01 (t * nd + n) efmt count
  if s.protectedDom p = some d ∧ g ≠ 0 then
    let (s, grp) := s.openOut d i p
    let key := (s.partAt d).key
    let iv := groupIv s.coll.logicalId.toNat p (partKeyGen (s.wordsOf d)) grp.ctr.toNat
    let x := groupStream key iv (224 * grp.cells) (padPayload payload)
    let grp := { grp with headers := grp.headers ++ h.bytes, cipher := grp.cipher ++ x, cells := grp.cells + 1 }
    let s := s.emit d p (s.outSlot d c t k) h x
    let rest := (s.domAt d).outGroups.filter fun y => y.circuit != i
    if grp.cells = g ∨ n + 1 = nd then
      let s := s.onDom d fun y => { y with outGroups := rest }
      s.emit d p (s.outSlot d c t (k + 1)) (s.chanHdr d c s.coll.logicalId 0x02 0 0 0)
        (groupTag key iv grp.headers grp.cipher ++ leBytes 8 grp.ctr.toNat)
    else s.onDom d fun y => { y with outGroups := rest ++ [grp] }
  else s.emit d p (s.outSlot d c t k) h payload

/-- Send the channel barrier of transfer t on a circuit with a payload (R400). -/
def State.sendBarrier (s : State) (d : Nat) (c : Circuit) (src : BitVec 16) (t : Nat) (payload : Bytes) : State :=
  s.emit d c.outPort (s.outSlot d c t 0) (s.chanHdr d c src 0x03 t 0 0) payload

/-- Send a channel barrier of this chip's own. -/
def State.sendOwnBarrier (s : State) (d : Nat) (c : Circuit) (t : Nat) : State :=
  s.sendBarrier d c s.coll.logicalId t (s.barrierPayload d 0 0 0 0)

/-! ## The agenda -/

/-- Insert an effect after those of its cycle. -/
def datedInsert (x : Dated) : List Dated → List Dated
  | [] => [x]
  | y :: l => if x.cycle < y.cycle then x :: y :: l else y :: datedInsert x l

/-- Domain d's epoch brings an effect about in RACK_TIME `t`. -/
def State.later (s : State) (d t : Nat) (a : Act) : State := { s with agenda := datedInsert ⟨t, d, a⟩ s.agenda }

/-! ## Delivery (R391, R394, R395) -/

/-- Count n in an entry's tally (R181): the count's cycle is kept for the waits of the same cycle (R178). -/
def State.countTally (s : State) (d e n : Nat) : State :=
  let now := s.clk.rackTime
  let s := s.onRun d fun r => { r with bumps := (e, now, n) :: r.bumps.filter fun x => decide (now < x.2.1 + 16) }
  s.setEntry e ((s.entry e).setTally ((s.entry e).tally + n))

/-- The bytes that data cell n of transfer t brings into an entry's shadow region, line by line (R391). -/
def State.shadowRuns (s : State) (e t n : Nat) (payload : Bytes) : List (Nat × List Host.Cell) :=
  let en := s.entry e
  let bits := en.count * s.entryWidth e
  let base := en.shadowLine * 512 + t * 512 * ((bits + 4095) / 4096) + 224 * n
  let bs := payload.take (min 224 ((bits + 7) / 8 - 224 * n))
  (byteRuns ((List.range bs.length).map (base + ·))).map fun r => (r.1, r.2.map fun a => (a, bs.getD (a - base) 0))

/-- The home core of an entry writes a cell's lines at their grants and then counts the cell (R394); a line outside the domain's windows is not
written (R135). -/
def State.deliver (s : State) (d e t n : Nat) (payload : Bytes) : State :=
  match (s.seqAt d).run with
  | none => s
  | some r =>
    let env := s.runEnv d r
    let gs := env.cellGrants e t n
    let pos := (s.entry e).home % s.cfg.nActive
    let at_ (l : Nat) : Nat := max s.clk.rackTime (((gs.find? fun x => x.1 == l).map (·.2)).getD 0)
    let s := (s.shadowRuns e t n payload).foldl (fun s x =>
      s.later d (at_ x.1) (if inWindow env.part x.1 then .store pos x.1 x.2 true else .outside 0 0 pos 4 x.1)) s
    s.later d (gs.foldl (fun m x => max m x.2) s.clk.rackTime) (.count e)

/-- A class O cell takes its place in its port's queue until its lines are written (R395). -/
def State.enqueue (s : State) (d p i e t n : Nat) (payload : Bytes) : State :=
  s.onPort p fun q =>
    { q with queue := q.queue ++ [⟨(s.domAt d).epoch, i, e, s.clk.rackTime, s.shadowRuns e t n payload⟩] }

/-- Deliver data cell n of transfer t of circuit i: through the queue of a class O port, or by the cycle model. -/
def State.deliverVia (s : State) (d i : Nat) (c : Circuit) (e t n : Nat) (payload : Bytes) : State :=
  match c.ins.find? fun p => s.cfg.portClass p == 4 with
  | some p => s.enqueue d p i e t n payload
  | none => s.deliver d e t n payload

/-- Count a channel barrier in an entry's tally; one that came on class O is written with that. -/
def State.deliverBarrier (s : State) (d i : Nat) (c : Circuit) (e : Nat) : State :=
  let s := s.countTally d e 1
  if c.ins.any fun p => s.cfg.portClass p == 4 then s.bumpKey d (writtenKey i) else s

/-! ## Reduction in flight (R396-R399) -/

/-- Places of a REDUCE's terms: 0 for the local term, 1 to 3 for IN_PORT, IN2 and IN3 (R397). -/
def reduceSrcs (c : Circuit) : List Nat :=
  (if c.lterm then [0] else []) ++ ((List.range 3).filter fun k => c.inPorts.getD k 0x3F != 0x3F).map (· + 1)

/-- The cell of a source that holds element k. -/
def Partial.cellAt (x : Partial) (src k : Nat) : Option Term :=
  match x.terms.find? fun t => t.src == src with
  | none => none
  | some f =>
    let w := ((Fmt.ofCode f.efmt).getD .fp32).bits
    x.terms.find? fun t => t.src == src && t.cell == k * w / 1792

/-- The element k of a source as its format's bits. -/
def Term.bitsAt (t : Term) (k : Nat) : Fmt × Nat :=
  let f := (Fmt.ofCode t.efmt).getD .fp32
  (f, leNat t.data / 2 ^ (k * f.bits % 1792) % 2 ^ f.bits)

/-- Elements of a transfer as far as they are known: an entry's COUNT, else from the last inbound cell. -/
def State.reduceTotal (s : State) (c : Circuit) (x : Partial) : Option Nat :=
  match (c.deliversTo s.coll.logicalId.toNat).or c.sendsFrom with
  | some e => some (s.entry e).count
  | none =>
    let last := (Circuit.dataOf c.inPat.cells (c.gIn s.cfg)).getD 1 - 1
    (x.terms.find? fun t => t.src != 0 && t.cell == last).map fun t => last * 1792 / ((Fmt.ofCode t.efmt).getD .fp32).bits + t.count

/-- The elements of outbound cell m, when every term of each is there. -/
def State.reduceReady (s : State) (c : Circuit) (x : Partial) (m : Nat) : Option (List Nat) :=
  let per := 1792 / c.accFmt.bits
  let hi := match s.reduceTotal c x with
    | some n => min n (per * (m + 1))
    | none => per * (m + 1)
  let ks := (List.range (hi - per * m)).map (per * m + ·)
  if !ks.isEmpty && ks.all (fun k => (reduceSrcs c).all fun src => (x.cellAt src k).isSome) then some ks else none

/-- The reduced element k: its terms rounded to ACC on arrival, added as one block (R397). -/
def reduceElem (c : Circuit) (x : Partial) (k : Nat) : El :=
  let terms := (reduceSrcs c).filterMap fun src => (x.cellAt src k).map fun t =>
    let (f, b) := t.bitsAt k
    entryEl f c.accFmt false b none
  sumEls c.accFmt false terms

/-- Counts of reduced elements into COLL_STATUS; the first special element of a delivered transfer (R398). -/
def addCollStatus (w : W4) (delivered : Bool) (els : List (Nat × El)) : W4 :=
  let sat := (els.filter fun e => e.2.fl.sat).length
  let flush := (els.filter fun e => e.2.fl.flush).length
  let first := if delivered then els.find? fun e => e.2.v.special else none
  let w := { w with w0 := word (min (2 ^ 40 - 1) (field w.w0 0 40 + sat)), w1 := word (min (2 ^ 40 - 1) (field w.w1 0 40 + flush)) }
  match first with
  | some (k, e) =>
    if field w.w3 16 1 = 1 ∧ w.w2.toNat ≤ k then w
    else { w with w2 := word k, w3 := word (2 ^ 16 + (if e.v.isInf then 2 ^ 17 else 0)) }
  | none => w

/-- One outbound cell of a REDUCE that has become complete: sent on, or delivered. -/
def State.reduceOut (s : State) (d i : Nat) (c : Circuit) (x : Partial) (m : Nat) (ks : List Nat) : State :=
  let els := ks.map fun k => (k, reduceElem c x k)
  let w := c.accFmt.bits
  let payload := leBytes 224 (packBits w (els.map fun e => encodeElem c.accFmt e.2.v))
  let target := c.deliversTo s.coll.logicalId.toNat
  let s := s.onDom d fun y => { y with status := addCollStatus y.status target.isSome els }
  match target with
  | some e => s.deliverVia d i c e x.transfer m payload
  | none => s.sendData d i c s.coll.logicalId x.transfer m c.accFmt.code ks.length payload

/-- Outbound data cells of a REDUCE's transfer. -/
def State.reduceCells (s : State) (c : Circuit) : Nat :=
  match c.deliversTo s.coll.logicalId.toNat with
  | some e => dataCells (s.entry e).count c.accFmt.bits
  | none => (Circuit.dataOf c.outPat.cells (c.gOut s.cfg)).getD c.outPat.cells

/-- A cell's terms join their transfer; outbound cells that they complete leave or are delivered. -/
def State.addTerm (s : State) (d i : Nat) (c : Circuit) (t : Nat) (term : Term) : State :=
  let same (x : Partial) : Bool := x.circuit == i && x.transfer == t
  let old := ((s.domAt d).reduce.find? same).getD ⟨i, t, []⟩
  let new : Partial := { old with terms := old.terms ++ [term] }
  let s := s.onDom d fun y => { y with reduce := y.reduce.filter (fun x => !same x) ++ [new] }
  (List.range (s.reduceCells c)).foldl (fun s m =>
    match s.reduceReady c old m, s.reduceReady c new m with
    | none, some ks => s.reduceOut d i c new m ks
    | _, _ => s) s

/-- A channel barrier reaches a REDUCE: with the last source's, it goes on, or counts (R400). -/
def State.addBarrier (s : State) (d i : Nat) (c : Circuit) (t src : Nat) : State :=
  let same (x : Partial) : Bool := x.circuit == i && x.transfer == t
  let old := ((s.domAt d).reduce.find? same).getD ⟨i, t, []⟩
  let new : Partial := { old with terms := old.terms ++ [⟨src, 0, 0, 0, []⟩] }
  let s := s.onDom d fun y => { y with reduce := y.reduce.filter (fun x => !same x) ++ [new] }
  let full (x : Partial) : Bool := (reduceSrcs c).all fun k => x.terms.any fun y => y.src == k
  if full new && !full old then
    match c.deliversTo s.coll.logicalId.toNat with
    | some e => s.deliverBarrier d i c e
    | none => s.sendOwnBarrier d c t
  else s

/-! ## Sends of commands (R26, R394) -/

/-- A command sends one transfer of an entry: each cell is handed at its send point to every ORIGIN circuit of the entry, and to every REDUCE
that takes its local term from it at the send point of its first element. `owned` says which cells this die's cores hold. -/
def State.sendTransfer (s : State) (e : Env) (entry t stream : Nat) (owned : Nat → Bool) : State :=
  let d := e.seq
  let en := s.entry entry
  let w := s.entryWidth entry
  let ns := (List.range (dataCells en.count w)).filter owned
  (s.circuitsIdx d).foldl (fun s (i, c) =>
    if c.sendsFrom = some entry ∧ t < c.transfers then
      if en.count = 0 then s.later d (e.sendSlot c t 0 - 64) (.barrier i t)
      else ns.foldl (fun s n =>
        let count := cellCount w en.count n
        if c.role = 0 then s.later d (e.sendSlot c t n - 64) (.cell i t n en.efmt count (cellBytes stream n))
        else s.later d (e.start + e.sendPoint c w t (1792 * n / w)) (.term i t ⟨0, n, count, en.efmt, cellBytes stream n⟩)) s
    else s) s

/-- What a send point brings (R394). -/
def State.takeSend (s : State) (d : Nat) (a : Act) : State :=
  let circ (i : Nat) : Option Circuit := ((s.circuitsIdx d).find? fun x => x.1 == i).map (·.2)
  match a with
  | .cell i t n efmt count pay => match circ i with
    | some c => s.sendData d i c s.coll.logicalId t n efmt count pay
    | none => s
  | .term i t x => match circ i with
    | some c => s.addTerm d i c t x
    | none => s
  | .barrier i t => match circ i with
    | some c => if c.role = 0 then s.sendOwnBarrier d c t else s.addBarrier d i c t 0
    | none => s
  | _ => s

end Machine
end Sys2Proof
end

