-- ==== Sys2Proof/Machine/Time.lean ====
section
/-! DEFINITION. Time: what falls due as cycles pass takes effect in its own cycle (06 R60, R178; 07 R199, R210; 16 R394, R395), and the clock runs
(03 R82, R88). -/

namespace Sys2Proof.Machine

/-! ## What falls due (notes/assumptions/11) -/

/-- SP_WR accepts a line (R60). What an arrival overwrites is kept, so that a rollback can restore it (R410). -/
def State.storeLine (s : State) (d : Nat) (cells : List Host.Cell) (arrival : Bool) : State :=
  let s := if arrival then s.onRun d fun r => { r with undo := (cells.map fun c => (c.1, s.sp.read c.1)) ++ r.undo } else s
  { s with sp := s.sp.overlay cells }

/-- A row or a line outside the domain's windows halts its core (R135, R303). -/
def State.leftWindow (s : State) (d idx off pos stream line : Nat) : State :=
  if s.mayHalt d then
    s.runtimeHalt d { reason := 3, stream := stream, idx := idx, off := off, core := some pos, detail := line, stamp := 0 }
  else s

/-- An effect of a domain's epoch comes about. -/
def State.takeAct (s : State) (d : Nat) (a : Act) : State :=
  match a with
  | .store _ _ cells arrival => s.storeLine d cells arrival
  | .count e => s.countTally d e 1
  | .hit idx off h => s.takeHit d idx off h
  | .differ idx x => s.takeDiff d idx x
  | .outside idx off pos stream line => s.leftWindow d idx off pos stream line
  | a => s.takeSend d a

/-! ## Class O cells that wait (R395, R404) -/

/-- The next line that a class O port's queue writes, as RACK_TIME: the first grant of the home core that nothing else uses. A home core outside
the domain's group has no modelled grants, and takes the line at once. -/
def State.queueDue (s : State) (p : Nat) : Option Nat :=
  match (s.portAt p).queue with
  | [] => none
  | w :: _ =>
    match s.portDomain p with
    | none => none
    | some d =>
      match (s.seqAt d).run with
      | none => none
      | some r =>
        if !(s.domAt d).state.live || w.epoch != (s.domAt d).epoch then none
        else
          let e := s.runEnv d r
          let home := (s.entry w.entry).home
          match e.rankAt home, w.lines with
          | some k, (line, _) :: _ =>
            let used := ((arrivalGrants s.cfg (e.pos k) (e.arrivalsAt home)).map fun g => (g, g + 1)) ++ ((r.timing.pos[k]?).map PosT.wr).getD []
            some (r.start + grantUnused s.cfg used (e.pos k) line (used.length + 1) (w.since - r.start))
          | _, _ => some w.since

/-- The queue's first line is written; with a cell's last line the cell counts, and the participant may vote (R395, R404). -/
def State.queueWrite (s : State) (p t : Nat) : State :=
  match (s.portAt p).queue, s.portDomain p with
  | w :: ws, some d =>
    let home := (s.entry w.entry).home
    let s := match (s.seqAt d).run with
      | some r => match (s.runEnv d r).rankAt home with
        | some k => s.onRun d fun r =>
            { r with timing := { r.timing with pos := r.timing.pos.modify k fun z => { z with wr := (t - r.start, t - r.start + 1) :: z.wr } } }
        | none => s
      | none => s
    let s := match w.lines with
      | (_, cells) :: _ => s.storeLine d cells true
      | [] => s
    match w.lines.drop 1 with
    | [] =>
      let rest := ws.map fun x => { x with since := max x.since (t + 1) }
      (((s.onPort p fun q => { q with queue := rest }).countTally d w.entry 1).bumpKey d (writtenKey w.circuit)).voteUp d
    | ls => s.onPort p fun q => { q with queue := { w with since := t + 1, lines := ls } :: ws }
  | _, _ => s

/-- The port whose queue writes next, and when. -/
def State.nextQueue (s : State) : Option (Nat × Nat) :=
  (List.range s.cfg.nPort).foldl (fun m p =>
    match s.queueDue p, m with
    | some t, some x => if t < x.2 then some (p, t) else m
    | some t, none => some (p, t)
    | none, m => m) none

/-! ## Cycles pass -/

/-- Does nothing wait for a later cycle? -/
def State.quiet (s : State) : Bool := s.agenda.isEmpty && s.ports.all fun q => q.queue.isEmpty

/-- The next thing that falls due: its RACK_TIME, and the port of a queue, or none for the agenda's first entry. -/
def State.nextDue (s : State) : Option (Nat × Option Nat) :=
  let a := s.agenda.head?.map fun x => (x.cycle, (none : Option Nat))
  match (if s.ports.all fun q => q.queue.isEmpty then none else s.nextQueue), a with
  | some (p, t), some (c, _) => if t < c then some (t, some p) else a
  | some (p, t), none => some (t, some p)
  | none, a => a

/-- What falls due next takes effect. -/
def State.takeDue (s : State) (t : Nat) (port : Option Nat) : State :=
  match port with
  | some p => s.queueWrite p t
  | none =>
    match s.agenda with
    | x :: rest => State.takeAct { s with agenda := rest } x.seq x.act
    | [] => s

/-- RACK_TIME runs to t, and what falls due up to then takes effect in its cycle; the first argument bounds its number. -/
def State.runTo : Nat → State → Nat → State
  | 0, s, t => s.clock (t - s.clk.rackTime)
  | n + 1, s, t =>
    match s.nextDue with
    | some (c, p) =>
      if c ≤ t then State.runTo n ((s.clock (c - s.clk.rackTime)).takeDue c p) t else s.clock (t - s.clk.rackTime)
    | none => s.clock (t - s.clk.rackTime)

/-- How many things can fall due: a term that completes a reduced cell brings at most that cell's lines and its count. -/
def State.dueBound (s : State) : Nat :=
  16 * (s.agenda.length + 1) + (s.ports.map fun q => (q.queue.map fun w => w.lines.length + 1).sum).sum

/-- n CK_V cycles pass, while the dividers run. -/
def State.pass (s : State) (n : Nat) : State :=
  if s.clk.dividers then (if s.quiet then s.clock n else State.runTo s.dueBound s (s.clk.rackTime + n)) else s

/-- RACK_TIME advances to t, if it is later (notes/assumptions/2). -/
def State.until (s : State) (t : Nat) : State := s.pass (t - s.clk.rackTime)

/-- Local time advances to t, if it is later. -/
def State.untilLocal (s : State) (t : Nat) : State := s.pass (t - s.clk.localTime)

end Sys2Proof.Machine
end

