-- ==== Sys2Proof/Machine/Channels.lean ====
section
/-! DEFINITION. Received cells of network channels: losses and what a relay sends in their place (15 R358, R370; 16 R406), the checks on received
cells (R370, 05 R138), decryption and tags (R145, R146), and what an accepted cell does (R26, R362, R391). -/

namespace Sys2Proof.Machine

/-! ## Losses (R358, R370, R406) -/

/-- The cell of a RELAY's outbound pattern that cell k of its inbound pattern becomes: a tag cell has one where both sides carry tags
(R358, R390). -/
def Circuit.relayCell (cfg : Cfg) (c : Circuit) (k : Nat) : Option Nat :=
  ((c.relayPairs cfg).find? fun x => x.1 == k).map (·.2)

/-- The POISON cell that a relaying chip sends in place of a lost one (R358). -/
def State.relayPoison (s : State) (d : Nat) (u : SlotUse) : State :=
  match Circuit.relayCell s.cfg u.circ u.k with
  | some k =>
    if u.circ.role = 2 then
      s.emit d u.circ.outPort (s.outSlot d u.circ u.t k) (s.chanHdr d u.circ s.coll.logicalId 0x06 0 0 0) []
    else s
  | none => s

/-- A cell of a port counts in MISSING. -/
def State.countMissing (s : State) (p : Nat) : State := s.onPort p fun q => { q with missing := sat16 q.missing }

/-- Slots whose cells have been accounted for, so that none counts twice. -/
def State.markSlot (s : State) (d p slot : Nat) : State :=
  s.onDom d fun c => { c with cellIdx := c.cellIdx ++ [(p, slot)] }

/-- Has a slot's cell been accounted for? -/
def State.slotMarked (s : State) (d p slot : Nat) : Bool := (s.domAt d).cellIdx.contains (p, slot)

/-- The abort reason of a missing cell: a tag slot's is TAG_FAIL (R146, R409). -/
def missingReason (cfg : Cfg) (u : SlotUse) : Nat := if isTagCell (u.circ.gIn cfg) u.circ.inPat.cells u.k then 0x24 else 0x23

/-- A missing cell on a channel slot; a missing tag cell counts as a poisoned one (R146). -/
def State.slotMissing (s : State) (d p slot : Nat) (u : SlotUse) : State :=
  let s := s.markSlot d p slot
  let k := missingReason s.cfg u
  let s := if k = 0x24 then s.onPort p fun q => { q with poisoned := sat16 q.poisoned } else s.countMissing p
  s.abortEpoch d k none

/-- A poisoned cell on a channel slot or a control slot. -/
def State.slotPoisoned (s : State) (d p slot : Nat) : State :=
  let s := (s.usesOf d p slot).foldl (fun s u => s.relayPoison d u) (s.markSlot d p slot)
  s.abortEpoch d 0x22 none

/-! ## Receive checks (R370, R138) -/

/-- Result of the receive checks: passed, missing, or a tenant mismatch. -/
inductive RxCheck where
  | pass
  | missing
  | tenant
deriving DecidableEq, Repr

/-- Does a DATA cell n of circuit c hold the count that R356 gives for its format? Where the block knows no COUNT of the transfer, the last cell
may hold fewer elements than a full one. -/
def State.countFits (s : State) (c : Circuit) (h : CellHdr) (n : Nat) : Bool :=
  let logical := s.coll.logicalId.toNat
  let w := ((Fmt.ofCode h.efmt.toNat).getD .fp32).bits
  let known := if c.role = 3 then (c.deliversTo logical).or c.sendsFrom else c.deliversTo logical
  match known with
  | some e => h.count.toNat == cellCount w (s.entry e).count n
  | none =>
    let full := cellCount w (1792 * (n + 1)) n
    if n + 1 < (Circuit.dataOf c.inPat.cells (c.gIn s.cfg)).getD c.inPat.cells then h.count.toNat == full
    else decide (1 ≤ h.count.toNat ∧ h.count.toNat ≤ full)

/-- Is a DATA cell's EFMT its entry's, or one that a REDUCE accepts (R370, R396)? -/
def State.formatFits (s : State) (c : Circuit) (h : CellHdr) : Bool :=
  match Fmt.ofCode h.efmt.toNat with
  | none => false
  | some f =>
    if c.role = 3 then c.accepts f
    else match c.deliversTo s.coll.logicalId.toNat with
      | some e => h.efmt.toNat == (s.entry e).efmt
      | none => true

/-- The checks of R370 from the second on, for the cell `n` of transfer `t`; `chan` says whether check 4 applies, `data` whether the cell is a
DATA cell, `seq` the expected index if one is checked. -/
def State.rxCheck (s : State) (d : Nat) (u : SlotUse) (h : CellHdr) (chan data : Bool) (n : Nat) (seq : Option Nat) : RxCheck :=
  let c := u.circ
  let logical := s.coll.logicalId.toNat
  let ws := s.wordsOf d
  let cut := c.role = 2 ∨ (c.role = 3 ∧ (c.deliversTo logical).isNone)
  if h.epoch ≠ (s.domAt d).epoch then .missing
  else if h.dst.toNat ≠ logical ∧ !(c.role = 2 ∧ h.dst.toNat = c.dst) then .missing
  else if chan ∧ h.channel.toNat ≠ c.inChannel logical h.dst.toNat then .missing
  else if h.tenant.toNat ≠ s.tenantOf d ∨ (!cut ∧ !inLedger ws h.channel.toNat) then .tenant
  else if seq.any fun x => h.seq.toNat != x % 65536 then .missing
  else if data ∧ !(s.formatFits c h && s.countFits c h n) then .missing
  else .pass

/-- A failed check: the cell is discarded and counts as missing on its channel (R138, R370). -/
def State.rxFail (s : State) (d p slot : Nat) (u : SlotUse) (x : RxCheck) : State :=
  match x with
  | .tenant =>
    let s := s.onPort p fun q => { q with tenantMismatch := sat16 q.tenantMismatch }
    (s.markSlot d p slot).abortEpoch d (missingReason s.cfg u) none
  | _ => s.slotMissing d p slot u

/-! ## Decryption (R145, R146) -/

/-- A received data cell of circuit i in clear; on a protected port it joins its tag group, which takes the receive counter of the port and the domain's key. -/
def State.openData (s : State) (d i p g : Nat) (h : CellHdr) (payload : Bytes) : State × Bytes :=
  if s.protectedDom p = some d ∧ g ≠ 0 then
    let have_ := (s.domAt d).groups.find? fun y => y.circuit == i && y.port == p
    let (s, grp) : State × TagGroup := match have_ with
      | some y => (s, y)
      | none => (s.onPort p fun q => { q with rxCtr := q.rxCtr.modify d (· + 1) }, ⟨p, i, (s.portAt p).rxCtr.getD d 0, [], [], 0⟩)
    let q := s.portAt p
    let iv := groupIv q.neighLogical.toNat q.neighPort.toNat (partKeyGen (s.wordsOf d)) grp.ctr.toNat
    let x := groupStream (s.partAt d).key iv (224 * grp.cells) payload
    let grp := { grp with headers := grp.headers ++ h.bytes, cipher := grp.cipher ++ payload, cells := grp.cells + 1 }
    (s.onDom d fun y => { y with groups := y.groups.filter (fun z => !(z.circuit == i && z.port == p)) ++ [grp] }, x)
  else (s, payload)

/-- The tag cell of circuit i's group on a port: does it confirm the group (R146)? -/
def State.tagHolds (s : State) (d : Nat) (grp : TagGroup) (payload : Bytes) : Bool :=
  let q := s.portAt grp.port
  let iv := groupIv q.neighLogical.toNat q.neighPort.toNat (partKeyGen (s.wordsOf d)) grp.ctr.toNat
  payload.take 16 == groupTag (s.partAt d).key iv grp.headers grp.cipher && payNum payload 16 8 == grp.ctr.toNat

/-- A data cell that has passed its checks: delivered, relayed or reduced (R26, R370). -/
def State.acceptData (s : State) (d p : Nat) (u : SlotUse) (h : CellHdr) (n : Nat) (payload : Bytes) : State :=
  let c := u.circ
  let (s, clear) := s.openData d u.idx p (c.gIn s.cfg) h payload
  match c.role with
  | 1 => s.deliverVia d u.idx c c.dstChannel u.t n clear
  | 2 =>
    let s := if c.xdeliv then s.deliverVia d u.idx c c.loc u.t n clear else s
    s.sendData d u.idx c h.src u.t n h.efmt.toNat h.count.toNat clear
  | 3 =>
    let src := 1 + ((List.range 3).find? fun k => c.inPorts.getD k 0x3F == p).getD 0
    s.addTerm d u.idx c u.t ⟨src, n, h.count.toNat, h.efmt.toNat, clear⟩
  | _ => s

end Sys2Proof.Machine
end

