-- ==== Sys2Proof/Machine/Reach.lean ====
section
/-! DEFINITION. What a descriptor reaches: bit ranges, lines, and a program's footprint as a removal of resources meets it (05 R134-R137,
06 R165, 14 R348). -/

namespace Sys2Proof

/-- One more dimension of n elements with a stride in bits: a dense dimension widens the range, another one repeats it. -/
def spreadSpan (spans : List (Int × Int)) (n : Nat) (st : Int) : List (Int × Int) :=
  match spans with
  | [(lo, hi)] =>
    if n ≤ 1 then spans
    else
      let d := st * ((n : Int) - 1)
      if st.natAbs ≤ (hi - lo).toNat then [(lo + min 0 d, hi + max 0 d)]
      else (List.range n).map fun (i : Nat) => (lo + st * (i : Int), hi + st * (i : Int))
  | _ => if n ≤ 1 then spans else (List.range n).flatMap fun (i : Nat) => spans.map fun r => (r.1 + st * (i : Int), r.2 + st * (i : Int))

/-- The bit ranges that a box of a descriptor's indices reaches (R165). -/
def Desc.spansOf (d : Desc) (b : Box) : List (Int × Int) :=
  if b.count = 0 then []
  else
    let base := d.bitAddr (b.map Prod.fst)
    (List.range 4).foldl (fun sp k =>
      let r := b.getD k (0, 1)
      spreadSpan sp (r.2 - r.1) (d.strideAt k * d.width)) [(base, base + d.width)]

/-- The whole of a descriptor's sizes as a box. -/
def Desc.box (d : Desc) : Box := (List.range 4).map fun k => (0, d.sizeAt k)

/-- Bit ranges of a descriptor. -/
def Desc.spans (d : Desc) : List (Int × Int) := d.spansOf d.box

/-- Lines of a bit range as a half-open range of line numbers. -/
def lineRange (r : Int × Int) : Int × Int := (r.1 / 4096, (r.2 + 4095) / 4096)

/-- Do windows together hold the bytes from x up to hi? The first number bounds the windows followed. -/
def coveredBy (ws : List (Nat × Nat)) (hi : Nat) : Nat → Nat → Bool
  | 0, x => decide (hi ≤ x)
  | n + 1, x =>
    if hi ≤ x then true
    else
      match (ws.filter fun w => decide (w.1 ≤ x ∧ x < w.2)).map Prod.snd |>.max? with
      | some y => coveredBy ws hi n y
      | none => false

/-- Is every line of a half-open range of lines inside some window? Windows begin and end on lines (R132). -/
def linesCovered (ws : List (Nat × Nat)) (r : Int × Int) : Bool :=
  decide (0 ≤ r.1) && coveredBy ws (r.2.toNat * 512) 5 (r.1.toNat * 512)

/-- Scratchpad descriptors of a command whose lines the verifier fixes: those of plain streams, companions, notes and index lists; a
gathered source or scattered target is found from data (R134). -/
def Cmd.fixedDescs (c : Cmd) : List Desc :=
  let plain (d : Option Desc) := (d.filter fun d => d.target == 0).toList
  let comp (d : Option Desc) := (d.filter fun d => d.target == 0).bind c.companion |>.toList
  (if c.permIs 1 then [] else plain c.descA) ++ comp c.descA ++ plain c.descB ++ comp c.descB ++ c.indexDesc.toList
    ++ (if c.permIs 2 then [] else plain c.descOut) ++ comp c.descOut ++ c.noteDesc.toList

/-- Does a command reach lines that data choose? -/
def Cmd.dataRows (c : Cmd) : Bool := c.permIs 1 || c.permIs 2

namespace Machine

/-- Line ranges of an entry: the regions of a context, the first transfer's landing and shadow regions of a channel (R333, R391). -/
def entryLines (l : Mem) (e : Nat) : List (Int × Int) :=
  let x := Entry.ofMem l e
  if x.kind = 1 then (entryRegions x).map fun r => ((r.1 : Int), (r.2 : Int) + 1)
  else if x.kind = 2 ∧ x.count ≠ 0 then
    let n := (x.count * ((Fmt.ofCode x.efmt).getD .fp32).bits + 4095) / 4096
    ([x.landLine, x.shadowLine].filter (· != 0)).map fun (a : Nat) => ((a : Int), (a : Int) + (n : Int))
  else []

/-- What a PART_SET takes from a domain: the record before, and after (zero when the domain is deleted). -/
structure Removal where
  old : List Word
  new : List Word
deriving DecidableEq, Repr

/-- Indices of a mask that leave it. -/
def maskGone (old new : Nat) : List Nat := (List.range 64).filter fun i => old.testBit i && !new.testBit i

def Removal.pens (r : Removal) : List Nat :=
  ((List.range (partPens r.old)).map (partFirstPen r.old + ·)).filter fun p =>
    !decide (partFirstPen r.new ≤ p ∧ p < partFirstPen r.new + partPens r.new)
def Removal.tables (r : Removal) : List Nat := maskGone (partTables r.old) (partTables r.new)
def Removal.ports (r : Removal) : List Nat := maskGone (partPorts r.old) (partPorts r.new)
def Removal.mbxs (r : Removal) : List Nat := maskGone (partMbxs r.old) (partMbxs r.new)

/-- Parts of a range that another does not cover. -/
def rangeMinus (a b : Nat × Nat) : List (Nat × Nat) :=
  [(a.1, min a.2 b.1), (max a.1 b.2, a.2)].filter fun r => decide (r.1 < r.2)

/-- Ledger entries that leave, as half-open ranges. -/
def Removal.ledger (r : Removal) : List (Nat × Nat) :=
  let (b, n) := partLedger r.old
  let (b', n') := partLedger r.new
  if n' = 0 then (if n = 0 then [] else [(b, b + n)]) else rangeMinus (b, b + n) (b', b' + n')

/-- Bytes that leave every window, as half-open ranges. -/
def Removal.bytes (r : Removal) : List (Nat × Nat) :=
  (partWindows r.old).flatMap fun w => (partWindows r.new).foldl (fun rs n => rs.flatMap fun x => if n.2 ≤ x.1 ∨ x.2 ≤ n.1 then [x] else rangeMinus x n) [w]

/-- Is the session key removed or changed? -/
def Removal.key (r : Removal) : Bool := partKeyGen r.old != 0 && r.old.drop 8 != r.new.drop 8

/-- Does anything leave? -/
def Removal.any (r : Removal) : Bool :=
  !r.pens.isEmpty || !r.tables.isEmpty || !r.ports.isEmpty || !r.mbxs.isEmpty || !r.ledger.isEmpty || !r.bytes.isEmpty || r.key

/-- Circuits of a job that a command's entries use. -/
def cmdCircuits (j : Option Job) (c : Cmd) : List Circuit :=
  match j with
  | none => []
  | some j => j.circs.filter fun x => (x.role == 0 || x.role == 3 || x.role == 2) && inRanges c.entries x.loc
      || (x.role == 1 || x.role == 3) && inRanges c.entries x.dstChannel

/-- Does a removal lie in a command's footprint (R134, R136)? -/
def Removal.hits (r : Removal) (cfg : Cfg) (l : Mem) (j : Option Job) (c : Cmd) : Bool :=
  let ports := (cmdCircuits j c).flatMap fun x => x.ins ++ (if x.hasOut then [x.outPort] else [])
  let gone := r.bytes
  let meets (x : Int × Int) : Bool := gone.any fun g => decide (x.1 * 512 < (g.2 : Int) ∧ (g.1 : Int) < x.2 * 512)
  let named := c.entries.flatMap fun (e, n) => (List.range n).map (e + ·)
  !r.pens.isEmpty || c.tables.any r.tables.contains || ports.any r.ports.contains
    || named.any (fun e => r.ledger.any fun g => decide (g.1 ≤ e ∧ e < g.2))
    || (!gone.isEmpty && (c.dataRows || c.fixedDescs.any (fun d => d.spans.any fun x => meets (lineRange x))
          || named.any fun e => (entryLines l e).any meets))
    || (r.key && ports.any fun p => decide (3 ≤ cfg.portClass p))

end Machine
end Sys2Proof
end

