-- ==== Sys2Proof/Machine/LedgerOps.lean ====
section
/-! DEFINITION. Writing ledger entries: the checks that LEDGER_SET and the GRANARY window apply, and the unarming that a change of
static fields causes (14 R333, R336-R338). -/

namespace Sys2Proof.Machine

/-- A context entry's regions as half-open byte ranges (R333). -/
def entrySpans (e : Entry) : List (Nat × Nat) :=
  [(e.dataLine * 512, e.dataLine * 512 + e.dataBytes), (e.scaleLine * 512, e.scaleLine * 512 + e.scaleBytes)]

/-- Do two lists of ranges share a byte? -/
def spansMeet (a b : List (Nat × Nat)) : Bool := a.any fun x => b.any fun y => decide (x.1 < y.2 ∧ y.1 < x.2)

/-- Field limits of an entry (R336, BAD_ARG); a free entry is exempt from the TENANT rule. -/
def State.entryBadArg (s : State) (i : Nat) (x : Entry) : Bool :=
  x.reservedSet
    || (x.kind == 1 && (decide (23 < x.capl) || !posNormalFp32 x.coarse || decide (x.cursor < x.head)
          || decide (x.head + x.cap < x.cursor) || decide (2 ^ 23 - 1 < x.cursor)))
    || (x.kind != 0 && s.entryDomain i != some x.tenant)

/-- Does a context entry's region break R333, leave the windows, or meet another context entry of the domain (R336, BAD_RANGE)? `s`
holds the set as written. -/
def State.spansBad (s : State) (i : Nat) (x : Entry) (ws : List Word) : Bool :=
  let n := s.cfg.nSlice
  let spans := entrySpans x
  spans.any (fun r => decide (r.1 / 512 % n ≠ 0 ∨ (r.2 - r.1) % (512 * n) ≠ 0 ∨ 2 ^ 40 < r.2) || !coveredBy (partWindows ws) r.2 5 r.1)
    || (s.listedEntries [partLedger ws]).any fun j => j != i && (s.entry j).kind == 1 && spansMeet spans (entrySpans (s.entry j))

/-- Does an entry, as written, break a range rule? -/
def State.entryBadRange (s : State) (i : Nat) (x : Entry) : Bool :=
  match x.kind, s.entryDomain i with
  | 1, some d => s.spansBad i x (s.partAt d).words
  | 2, some d =>
    let ws := (s.partAt d).words
    !decide (partFirstPen ws ≤ x.home / 16 ∧ x.home / 16 < partFirstPen ws + partPens ws)
  | _, _ => false

/-- The checks of R336 from BAD_ARG to BAD_RANGE over a set of entries: a Ronno code, 0 when all hold. -/
def State.ledgerCheck (s : State) (ws : List (Nat × Entry)) : Nat :=
  if ws.any (fun x => s.entryBadArg x.1 x.2) then 0x02
  else
    let t := ws.foldl (fun t x => t.setEntry x.1 x.2) s
    if ws.any (fun x => t.entryBadRange x.1 x.2) then 0x07 else 0

/-- Entries of a set whose static fields change. -/
def State.staticChanges (s : State) (ws : List (Nat × Entry)) : List Nat :=
  (ws.filter fun x => decide (x.2.statics ≠ (s.entry x.1).statics)).map Prod.fst

/-- Does a write of an entry update HEAD or CURSOR of a context entry while its domain runs an epoch (R351)? -/
def State.movesSpan (s : State) (i : Nat) (x : Entry) : Bool :=
  let old := s.entry i
  old.kind == 1 && x.kind == 1 && (x.head != old.head || x.cursor != old.cursor)
    && (s.entryDomain i).any fun d => (s.seqAt d).run.isSome

/-- Write one entry, its checkpoint first where the write moves its span (R346, R351). -/
def State.writeEntry (s : State) (i : Nat) (x : Entry) : State := (if s.movesSpan i x then s.checkpoint i else s).setEntry i x

/-- Write a set of entries: a change of static fields unarms every armed bank whose program names the entry (R337). -/
def State.writeEntries (s : State) (ws : List (Nat × Entry)) : State :=
  let ch := s.staticChanges ws
  let t := ws.foldl (fun t x => t.writeEntry x.1 x.2) s
  t.unarmIf fun _ c => ch.any (inRanges c.entries)

end Sys2Proof.Machine
end

