-- ==== Sys2Proof/Machine/RegMap.lean ====
section
/-! DEFINITION. The register window: which register an address names, who may reach it, the response codes, and what a read returns
(R51-R55, R80, R99, R126, R131, R442-R455). -/

namespace Sys2Proof.Machine

/-- Response codes (table "Register port response codes"). -/
def rspOk : BitVec 3 := 0
def rspUnmapped : BitVec 3 := 1
def rspDenied : BitVec 3 := 2
def rspMisaligned : BitVec 3 := 3
def rspSlave : BitVec 3 := 4
def rspNotReady : BitVec 3 := 5
def rspHalted : BitVec 3 := 6

/-- Address ranges of the window (R442) with their index. -/
inductive Region where
  | identity
  | startup
  | caps
  | params
  | mailbox (m off : Nat)
  | partRec (d w : Nat)
  | partLive
  | seqState (q off : Nat)
  | rackTime
  | port (p w : Nat)
  | fingerprint (d : Nat)
  | epochState (d : Nat)
  | collStatus (d w : Nat)
  | rackState
  | logicalId
  | maintStatus
  | gleaner (off : Nat)
  | expert (id off : Nat)
  | nowhere
deriving DecidableEq, Repr

/-- The range that an address lies in. -/
def regionOf (a : Nat) : Region :=
  if a < 0x80 then .identity
  else if a < 0xB0 then .startup
  else if 0x100 ≤ a ∧ a < 0x1F0 then .caps
  else if 0x400 ≤ a ∧ a < 0x680 then .params
  else if 0x1000 ≤ a ∧ a < 0x21000 then .mailbox ((a - 0x1000) / 0x2000) ((a - 0x1000) % 0x2000)
  else if 0x21000 ≤ a ∧ a < 0x21400 then .partRec ((a - 0x21000) / 0x80) ((a - 0x21000) % 0x80 / 8)
  else if a = 0x21400 then .partLive
  else if 0x22000 ≤ a ∧ a < 0x23000 then .seqState ((a - 0x22000) / 0x200) ((a - 0x22000) % 0x200)
  else if a = 0x23000 then .rackTime
  else if 0x30000 ≤ a ∧ a < 0x30600 then .port ((a - 0x30000) / 0x20) ((a - 0x30000) % 0x20 / 8)
  else if 0x40000 ≤ a ∧ a < 0x40040 then .fingerprint ((a - 0x40000) / 8)
  else if 0x40040 ≤ a ∧ a < 0x40080 then .epochState ((a - 0x40040) / 8)
  else if 0x40080 ≤ a ∧ a < 0x40180 then .collStatus ((a - 0x40080) / 0x20) ((a - 0x40080) % 0x20 / 8)
  else if a = 0x40180 then .rackState
  else if a = 0x40188 then .logicalId
  else if a = 0x40190 then .maintStatus
  else if 0x50000 ≤ a ∧ a < 0x91000 then .gleaner (a - 0x50000)
  else if 0x100000 ≤ a ∧ a < 0x1B0000 then .expert ((a - 0x100000) / 0x10000 + 1) (a % 0x10000)
  else .nowhere

/-! ## Reads -/

/-- Start-up registers (R99); write-only registers read zero (R16). -/
def State.startupReg (s : State) (a : Nat) : Option Word :=
  match a with
  | 0x80 => some s.bootStatus
  | 0x88 => some s.boot.imageAddr
  | 0x90 => some s.boot.imageLen
  | 0x98 => some 0
  | 0xA0 => some s.resetCauseWord
  | 0xA8 => some 0
  | _ => none

/-- OWNER of a mailbox (R110, R111). -/
def Mailbox.idWord (b : Mailbox) (m : Nat) : Word := word (m + b.owner.toNat * 2 ^ 8 + b.entries * 2 ^ 16)

/-- A mailbox window's word (R111). -/
def State.mailboxReg (s : State) (m off : Nat) : Option Word :=
  let b := s.mbxAt m
  if off < 0x100 then
    match off with
    | 0x00 => some (b.idWord m)
    | 0x08 => some (b.reqTail.setWidth 64)
    | 0x10 => some (b.reqHead.setWidth 64)
    | 0x18 => some (b.cplTail.setWidth 64)
    | 0x20 => some (b.cplHead.setWidth 64)
    | 0x28 => some (word (bit01 (b.cplTail != b.cplHead) + bit01 b.overrun * 2 + bit01 b.resetBusy * 4 + bit01 s.kol.fwHalted * 8))
    | 0x30 => some (word (bit01 b.irqEn))
    | 0x38 => some 0
    | _ => if m = 0 ∧ 0x40 ≤ off ∧ off < 0x60 then some (s.kol.fatalRec.get ((off - 0x40) / 8)) else none
  else if off < 0x400 then none
  else some (b.mem.read64 off)

/-- Sequencer state registers (R450). -/
def State.seqReg (s : State) (q off : Nat) : Option Word :=
  let x := s.seqAt q
  if s.cfg.nSeq ≤ q then none
  else if off < 0x20 then some (x.status.get (off / 8))
  else if off < 0x40 then some (x.halt.get ((off - 0x20) / 8))
  else if off = 0x40 then some x.flags
  else if off = 0x48 then some (x.preds.setWidth 64)
  else if off = 0x50 then some x.stateWord
  else if 0x80 ≤ off ∧ off < 0x180 then some ((x.tallies.getD ((off - 0x80) / 8) 0).setWidth 64)
  else none

/-- Slot j of a ring of 4096 kept newest first, with `tail` entries written. -/
def ringSlot {α : Type} (l : List α) (tail j : Nat) : Option α := l[(tail + 4096 - 1 - j) % 4096]?

/-- Gleaner and alarm registers (R439) of this die. -/
def State.gleanerReg (s : State) (off : Nat) : Option Word :=
  let g := s.gln
  match off with
  | 0x000 => some (s.aon.fatal.setWidth 64)
  | 0x008 => some (g.warn.setWidth 64)
  | 0x010 => some (g.irqEn)
  | 0x018 => some (s.aon.firstFatal.setWidth 64)
  | 0x300 => some (g.evtHead.setWidth 64)
  | 0x308 => some (g.evtTail.setWidth 64)
  | 0x310 => some (word (g.ringDrops.toNat + g.sourceDrops.toNat * 2 ^ 32))
  | 0x318 => some g.traceCtl
  | 0x320 => some (g.traceTail.setWidth 64)
  | 0x328 => some (g.traceShed.setWidth 64)
  | 0x330 => some (word (bit01 g.snapValid + g.snapMissed.toNat * 2 ^ 16))
  | 0x338 => some 0
  | 0x340 => some (word (g.thermHot.toNat + g.thermSensor.toNat * 2 ^ 8))
  | 0x348 => some g.thermLimits
  | 0x350 => some (g.ue.setWidth 64)
  | 0x358 => some g.die
  | _ =>
    if 0x20 ≤ off ∧ off < 0x120 then some ((s.aon.fatalCount.getD ((off - 0x20) / 8) 0).setWidth 64)
    else if 0x120 ≤ off ∧ off < 0x220 then some ((g.warnCount.getD ((off - 0x120) / 8) 0).setWidth 64)
    else if 0x10000 ≤ off ∧ off < 0x30000 then
      some (((ringSlot g.events g.evtTail.toNat ((off - 0x10000) / 32)).map fun e => e.get (off % 32 / 8)).getD 0)
    else if 0x30000 ≤ off ∧ off < 0x40000 then
      some (((ringSlot g.trace g.traceTail.toNat ((off - 0x30000) / 16)).map fun e => if off % 16 < 8 then e.1 else e.2).getD 0)
    else if 0x40000 ≤ off ∧ off < 0x41000 then some (g.snap.getD ((off - 0x40000) / 8) 0)
    else none

/-- CORE_HEALTH is indexed across all dies of a part (R439). -/
def State.healthIndex (s : State) (off : Nat) : Option (Nat × Nat) :=
  let n := s.cfg.nActive + s.cfg.nSpare
  let c := (off - 0x400) / 8
  if 0x400 ≤ off ∧ c < n * (s.boot.straps.fedDies.toNat + 1) ∧ off < 0x10000 then some (c / n, c % n) else none

/-- Chain validity bits (R330). -/
def State.chainValidWord (s : State) : Word :=
  word ((List.range 64).foldl (fun n i =>
    if i / 8 < s.cfg.nSeq ∧ (Chain.ofMem s.coup.chains (i / 8) (i % 8)).valid then n + 2 ^ i else n) 0)

/-- The word that CIRC_WORD or ROUTE_WORD shows: of the active or the pending job of the selected domain (R420). -/
def State.selJob (s : State) (sel : Word) : Option Job :=
  let c := s.domAt (field sel 0 3)
  if field sel 24 1 = 1 then c.activeJob else c.pendingJob

/-- The stochastic generator's probe (R455). -/
def State.srResult (s : State) : Word :=
  word (srBits (BitVec.ofNat 32 s.win.srSeed.toNat) (s.win.srLHi.toNat % 65536 * 2 ^ 64 + s.win.srLLo.toNat) (s.win.srStage.toNat % 65536))

/-- Byte address of the word that CMD_SEL selects (R453). -/
def State.cmdAddr (s : State) : Nat := field s.win.cmdSel 24 1 * 262144 + field s.win.cmdSel 3 15 * 8

/-- Byte address of the word that TBL_SEL selects (R454). -/
def State.tblAddr (s : State) : Nat := field s.win.tblSel 0 5 * 2560 + field s.win.tblSel 8 9 * 8

/-- LEDGER_SEL names this die's ledger (R338). -/
def State.ledgerHere (s : State) : Bool := field s.win.ledgerSel 32 3 == s.boot.straps.dieId.toNat

/-- CKPT_WORD of the selected entry (R338, R351). -/
def State.ckptWord (s : State) : Word :=
  match s.ckpt.find? fun x => x.1 == field s.win.ledgerSel 0 17 with
  | some x => word (x.2.1 + x.2.2 * 2 ^ 32 + 2 ^ 63)
  | none => 0

/-- Slot contents of a sequencer's group (R454). -/
def Sequencer.slotWord (q : Sequencer) : Word :=
  word ((List.range 4).foldl (fun n k =>
    match q.slots.getD k none with
    | some t => n + t % 32 * 2 ^ (5 * k) + 2 ^ (20 + k)
    | none => n) 0)

/-- Expert window registers by capability ID and offset; none where the window's table does not decode the offset (R451-R455). -/
def State.expertReg (s : State) (id off : Nat) : Option Word :=
  let w := s.win
  match id with
  | 1 =>
    match off with
    | 0x00 => some s.kol.coreState
    | 0x08 => some s.kol.fwPc
    | 0x10 => some s.kol.trapCause
    | 0x18 => some s.wdogLeft
    | 0x20 => some (word (min s.kol.stalls (2 ^ 32 - 1)))
    | 0x28 => some (word s.kol.turn)
    | _ => none
  | 2 =>
    match off with
    | 0x00 => some w.cmdSel
    | 0x08 => some (s.cmdMem.read64 s.cmdAddr)
    | 0x10 => some w.seqErr
    | _ => none
  | 3 =>
    let g := off / 8
    if g < s.cfg.nActive * (s.boot.straps.fedDies.toNat + 1) then
      some (if g / s.cfg.nActive = s.boot.straps.dieId.toNat then s.cores.posMap (g % s.cfg.nActive) else 0)
    else match off with
      | 0x2000 => some w.ceLimit
      | 0x2008 => some w.vaErr
      | _ => none
  | 4 =>
    match off with
    | 0x00 => some w.tblSel
    | 0x08 => some (s.tables.read64 s.tblAddr)
    | 0x10 => some w.feErr
    | _ => if 0x100 ≤ off ∧ (off - 0x100) / 8 < s.cfg.nSeq then some (s.seqAt ((off - 0x100) / 8)).slotWord else none
  | 5 =>
    match off with
    | 0x00 => some w.srSeed
    | 0x08 => some w.srLLo
    | 0x10 => some w.srLHi
    | 0x18 => some w.srStage
    | 0x20 => some s.srResult
    | _ => none
  | 8 =>
    match off with
    | 0x00 => some (s.coup.owner.setWidth 64)
    | 0x08 => some (s.coup.genState s.clk.rackTime)
    | 0x10 => some s.chainValidWord
    | _ =>
      if 0x100 ≤ off ∧ (off - 0x100) / 0x20 < s.cfg.nSeq then
        some ((s.coup.epiStatus.getD ((off - 0x100) / 0x20) W4.zero).get (off % 0x20 / 8))
      else if 0x1000 ≤ off ∧ (off - 0x1000) / 0x200 < s.cfg.nSeq then some (s.coup.chains.read64 (off - 0x1000))
      else none
  | 9 =>
    if off / 8 < s.cfg.nPort then some (s.portAt (off / 8)).ctl
    else match off with
      | 0x200 => some (word ((List.range s.cfg.nPair).foldl (fun n i => n + bit01 (s.pairHeld.getD i false) * 2 ^ i) 0))
      | 0x208 => some w.linkErr
      | _ => none
  | 10 =>
    match off with
    | 0x00 => some w.circSel
    | 0x40 => some w.routeSel
    | 0x48 => some (((s.selJob w.routeSel).map fun j => j.routes.getD (field w.routeSel 8 7) 0).getD 0)
    | 0x80 => some w.collErr
    | _ =>
      if 0x08 ≤ off ∧ off < 0x28 then
        some (((s.selJob w.circSel).map fun j => j.circuits.getD (4 * field w.circSel 8 11 + (off - 8) / 8) 0).getD 0)
      else none
  | 11 =>
    match off with
    | 0x00 => some w.ledgerSel
    | 0x40 => some (if s.ledgerHere then s.ckptWord else 0)
    | 0x48 => some w.granErr
    | _ =>
      if 0x08 ≤ off ∧ off < 0x28 then
        some (if s.ledgerHere then s.ledger.read64 (32 * field w.ledgerSel 0 17 + (off - 8)) else 0)
      else none
  | _ => none

/-- The word at an address as the warden reads it; none where no register is decoded. -/
def State.readWord (s : State) (a : Nat) : Option Word :=
  match regionOf a with
  | .identity => s.identity a
  | .startup => s.startupReg a
  | .caps => capWord ((a - 0x100) / 8)
  | .params => some (s.paramWord a)
  | .mailbox m off => s.mailboxReg m off
  | .partRec d w => if s.cfg.nSeq ≤ d then some 0 else some (if (s.partAt d).live then (s.partAt d).words.getD w 0 else 0)
  | .partLive => some (word ((List.range s.cfg.nSeq).foldl (fun n d =>
      n + bit01 (s.partAt d).live * 2 ^ d + bit01 (s.partAt d).pending * 2 ^ (8 + d)) 0))
  | .seqState q off => s.seqReg q off
  | .rackTime => some (word s.clk.rackTime)
  | .port p w => if s.cfg.nPort ≤ p then none else some (s.portStatus p w)
  | .fingerprint d => some (if (s.partAt d).live then (s.domAt d).fingerprint else 0)
  | .epochState d => some (if d < s.cfg.nSeq then (s.domAt d).stateWord else 0)
  | .collStatus d w => some (if d < s.cfg.nSeq then (s.domAt d).status.get w else 0)
  | .rackState => some s.rackState
  | .logicalId => some (s.coll.logicalId.setWidth 64)
  | .maintStatus => some (word (s.coll.unrouted.toNat + s.coll.hopDropped.toNat * 2 ^ 32))
  | .gleaner off =>
    match s.healthIndex off with
    | some (die, k) => some (if die = s.boot.straps.dieId.toNat then s.cores.health k else 0)
    | none => s.gleanerReg off
  | .expert id off => s.expertReg id off
  | .nowhere => none

/-! ## Rights and codes -/

/-- Does a requester name a live domain (R131)? -/
def State.liveSrc (s : State) (src : Nat) : Bool := decide (src < s.cfg.nSeq) && (s.partAt src).live

/-- May the requester make this access (R131)? -/
def State.allowed (s : State) (src : Nat) (wr : Bool) (r : Region) : Bool :=
  let warden := src == 8
  let live := s.liveSrc src
  match r with
  | .identity | .caps | .params => !wr
  | .startup => !wr || warden
  | .mailbox m _ =>
    let o := (s.mbxAt m).owner.toNat
    if warden then !wr || o == 8 || o == 0xF else live && o == src
  | .partRec d _ => !wr && (warden || (live && d == src))
  | .partLive | .rackTime | .rackState | .logicalId => !wr && (warden || live)
  | .seqState q _ => !wr && (warden || (live && q == src))
  | .fingerprint d | .epochState d | .collStatus d _ => !wr && (warden || (live && d == src))
  | .maintStatus => !wr && warden
  | .port _ _ | .gleaner _ => warden
  | .expert id _ => warden && (if id = 1 then !wr else s.win.unlocked.contains id)
  | .nowhere => true

/-- Accesses that a HALTED block serves (R80). -/
def haltedServes (wr : Bool) (r : Region) : Bool :=
  match r with
  | .expert _ _ => false
  | .startup | .mailbox _ _ | .gleaner _ => true
  | .nowhere => false
  | _ => !wr

/-- Does a window answer DENIED at every offset, decoded or not: a locked window, and the CONTROL window to writes and to every requester
but the warden (R451, R452)? An unlocked window's undecoded offsets are UNMAPPED to everybody (R55, R451). -/
def State.hidden (s : State) (src : Nat) (wr : Bool) (r : Region) : Bool :=
  match r with
  | .expert id _ => if id = 1 then wr || src != 8 else !s.win.unlocked.contains id
  | _ => false

/-- Is a register of the identity block decoded at the address? -/
def State.identityAt (s : State) (a : Nat) : Bool := regionOf a == .identity && (s.identity a).isSome

/-- The response code of an access, in the order of R55. -/
def State.rspCode (s : State) (src : Nat) (wr : Bool) (a : Nat) : BitVec 3 :=
  let r := regionOf a
  if a % 8 ≠ 0 then rspMisaligned
  else if s.boot.straps.fedDies ≠ 0 ∧ !s.boot.straps.fedMaster ∧ !s.identityAt a then rspSlave
  else if !s.boot.ready ∧ !s.identityAt a ∧ r ≠ .startup then rspNotReady
  else if s.aon.power = .halted ∧ !haltedServes wr r then rspHalted
  else if (s.readWord a).isNone ∧ !s.hidden src wr r then rspUnmapped
  else if !s.allowed src wr r then rspDenied
  else rspOk

/-- Does the register port answer (R56, R79, R93)? -/
def State.regUp (s : State) : Bool :=
  s.clk.regReady && (match s.aon.power with | .off | .standby => false | _ => true)

/-- A response on the register port. -/
def State.respond (s : State) (code : BitVec 3) (data : Word) : State :=
  { s with rp := { s.rp with valid := true, code := code, data := data } }

/-! ## Coherent records (R445) -/

/-- The address of word 0 of the four-word record that an address lies in, and the word's number. -/
def recordAt (a : Nat) : Option (Nat × Nat) :=
  match regionOf a with
  | .seqState _ off => if off < 0x40 then some (a - a % 0x20, a % 0x20 / 8) else none
  | .collStatus _ w => some (a - 8 * w, w)
  | .expert 8 off => if 0x100 ≤ off ∧ off < 0x200 then some (a - a % 0x20, a % 0x20 / 8) else none
  | _ => none

/-- The word that a requester sees at a decoded address: a tenant's key words are zero (R131), words 1 to 3 of a record come from the
shadow that it tags (R445), and another die's gleaner answers with a value that this model leaves free. -/
def State.viewWord (s : State) (src : Nat) (a : Nat) : Word :=
  let live := (s.readWord a).getD 0
  match regionOf a with
  | .partRec _ w => if src ≠ 8 ∧ 8 ≤ w then 0 else live
  | _ =>
    match recordAt a with
    | some (base, w) =>
      match (s.rp.shadows[src]?) with
      | some sh => if w ≠ 0 ∧ sh.tag = some base then sh.words.get w else live
      | none => live
    | none => live

/-- A read of word 0 of a record fills the requester's shadow (R445). -/
def State.fillShadow (s : State) (src : Nat) (a : Nat) : State :=
  match recordAt a with
  | some (base, 0) =>
    let g (k : Nat) := (s.readWord (base + 8 * k)).getD 0
    { s with rp := { s.rp with shadows := s.rp.shadows.set src ⟨some base, ⟨g 0, g 1, g 2, g 3⟩⟩ } }
  | _ => s

/-- The die whose register an address names: the one that GLN_DIE or LEDGER_SEL selects, or that of the core or position (R338, R439, R440);
this die for every other register. -/
def State.dieOf (s : State) (a : Nat) : Nat :=
  let own := s.boot.straps.dieId.toNat
  match regionOf a with
  | .gleaner off =>
    match s.healthIndex off with
    | some (die, _) => die
    | none => if off = 0x358 then own else s.gln.die.toNat % 8
  | .port _ _ => s.gln.die.toNat % 8
  | .expert 3 off => if off / 8 < s.cfg.nActive * (s.boot.straps.fedDies.toNat + 1) then off / 8 / s.cfg.nActive else own
  | .expert 11 off => if 0x08 ≤ off ∧ off ≤ 0x40 then field s.win.ledgerSel 32 3 else own
  | _ => own

/-- Is the register another die's? What it holds is free here (notes/assumptions/21). -/
def State.otherDie (s : State) (a : Nat) : Bool := s.dieOf a != s.boot.straps.dieId.toNat

/-- Is the register FW_PC of a control core that executes? Its program counter is sampled (R444, R452), and a free value here. -/
def State.livePc (s : State) (a : Nat) : Bool :=
  match regionOf a with
  | .expert 1 0x08 => s.kol.works && !s.kol.stalled
  | _ => false

/-- Accesses that advance a selector: CMD_DATA advances WORD of CMD_SEL, TBL_DATA that of TBL_SEL (R453, R454). -/
def State.advanceSel (s : State) (a : Nat) : State :=
  match regionOf a with
  | .expert 2 0x08 =>
    let w := (field s.win.cmdSel 3 15 + 1) % 32768
    s.onWin fun x => { x with cmdSel := word (w * 8 + field x.cmdSel 24 1 * 2 ^ 24) }
  | .expert 4 0x08 =>
    let w := (field s.win.tblSel 8 9 + 1) % 320
    s.onWin fun x => { x with tblSel := word (field x.tblSel 0 5 + w * 256) }
  | _ => s

/-- A register read (R54, R443-R445); one of another die's register goes over the federation path (R33). -/
def State.regRead (s : State) (src a : Nat) : State :=
  let code := s.rspCode src false a
  if code = rspOk then
    if s.otherDie a ∨ s.livePc a then
      let (v, t) := s.fresh
      (if s.otherDie a then t.fedSend (s.dieOf a) (.read a (field s.win.ledgerSel 0 17)) else t).respond rspOk v
    else
      let v := s.viewWord src a
      ((s.fillShadow src a).advanceSel a).respond rspOk v
  else s.respond code 0

end Sys2Proof.Machine
end

