-- ==== Sys2Proof/Machine/Startup.lean ====
section
/-! DEFINITION. Power, reset and start-up (02 R46-R50, R56, R73-R78; 03 R92-R109; 05 R140-R143, R149; 17 R438). -/

namespace Sys2Proof.Machine

/-! ## Resets -/

/-- What outlasts every reset of the block: the surroundings' scratchpad, the count of free values and the queue. -/
def State.keepOutside (s t : State) : State := { t with sp := s.sp, free := s.free, pending := s.pending }

/-- The main domain cleared while cold reset is asserted; the island, the snapshot's power-on loss apart, is kept (R95, R96). -/
def State.mainCleared (s : State) (a : Aon) : State :=
  s.keepOutside { State.initial s.cfg with aon := a, tap := s.tap }

/-- A class strap check's verdict on a port (R69): absent ports and mismatched straps are held down. -/
def State.checkStrap (s : State) (p : Nat) : State :=
  if s.strap p = 0 then s.setPort p .absent 0x01 else if s.strapValid p then s else s.setPort p .absent 0x02

/-- Are the federation straps within the rules of R78? -/
def State.fedStrapsOk (s : State) : Bool :=
  let st := s.boot.straps
  if st.fedDies = 0 then st.dieId == 0 && st.fedMaster
  else s.cfg.fedDiesOk (st.fedDies.toNat + 1) && decide (st.dieId.toNat ≤ st.fedDies.toNat) && (st.fedMaster == (st.dieId == 0))

/-- Is the die part of a federated part (R33)? -/
def State.federated (s : State) : Bool := s.boot.straps.fedDies != 0

/-! ## The ready message (R107, R124) -/

/-- RUNNING, or MAINTENANCE when debug was opened or no keys are programmed (R105, R143). -/
def State.readyState (s : State) : Power := if s.boot.debugOpened || !s.boot.keysProgrammed then .maintenance else .running

/-- DETAIL of READY. -/
def State.readyDetail (s : State) : Nat :=
  bit01 (s.readyState == .maintenance) + 2 * bit01 s.boot.debugOpened + 4 * bit01 (s.aon.fatal != 0) + s.boot.fenced % 256 * 256
    + s.portsDown % 256 * 65536

/-- Phase 0x09: the ready message as completion 0 of mailbox 0, the state after start-up, and the identity refresh. A slave's mailboxes
serve nobody (R33). -/
def State.ready (s : State) : State :=
  let s := s.onBoot fun b => { b with phase := 9 }
  let c := cplEntry 0xFFFF 0x80 0 s.readyDetail blockVersion (s.kol.version.setWidth 64) (word s.clk.rackTime)
  let s := if s.slave then s else s.post 0 c
  let s := s.onBoot fun b => { b with ready := true }
  ((s.onAon fun a => { a with power := s.readyState }).identityRefresh).applyIdentities

/-- Is a port still training? -/
def State.trainingLeft (s : State) : Bool := s.ports.any fun p => p.state == .training

/-- Phase 0x08 ends when no port is training any more. -/
def State.endPhase8 (s : State) : State := if s.boot.phase = 8 ∧ !s.trainingLeft then s.ready else s

/-- Does start-up train a port: a valid strap, ENABLE at 1, and not already trained (R98)? -/
def State.wantsTraining (s : State) (p : Nat) : Bool := s.strapValid p && (s.portAt p).ctl.getLsbD 0 && !s.carries p

/-- Phase 0x08: every port with a valid strap and ENABLE that is not trained begins training; a ring pair first leaves bypass, unless it is
absent or held in bypass (R98, R106). -/
def State.startPhase8 (s : State) : State :=
  let s := s.onBoot fun b => { b with phase := 8, since := s.clk.localTime }
  let s := ((List.range s.cfg.nPort).filter fun p => (s.cfg.pairOf p).isNone && s.wantsTraining p).foldl State.startTraining s
  let s := ((List.range s.cfg.nPair).filter fun i =>
    let (a, b) := s.cfg.pairPorts i
    !s.pairAbsent i && !(s.pairHeld.getD i false) && s.wantsTraining a && s.wantsTraining b).foldl State.releaseBypass s
  s.endPhase8

/-- Phase 0x07: the class P ports to the other dies train first, those that a warm reset left trained apart; an unfederated part goes on at
once (R34, R98, R101). -/
def State.startPhase7 (s : State) : State :=
  let s := s.onBoot fun b => { b with phase := 7, since := s.clk.localTime }
  if s.federated then
    ((List.range (s.boot.straps.fedDies.toNat + 1)).filter fun e => e ≠ s.boot.straps.dieId.toNat && s.wantsTraining e).foldl
      State.startTraining s
  else s.startPhase8

/-! ## Fuses (R105, R140, R141) -/

/-- Phase 0x04: fuse reads, or in their place the erase of an opened debug state (R105, R150). -/
def State.startPhase4 (s : State) : State :=
  let s := s.onBoot fun b => { b with phase := 4, since := s.clk.localTime, fuseIndex := 0, secReq := false }
  if s.aon.debug = .closed then s.onBoot fun b => { b with secReq := true }
  else
    let s := (s.onBoot fun b => { b with erased := true }).onAon fun a => { a with secLock := true }
    if s.slave then s.startPhase7 else s.onBoot fun b => { b with phase := 5, since := s.clk.localTime }

/-- The local time of the CK_C cycle after the next: SEC_RD_REQ falls in the cycle after an acknowledgement, and rises again one cycle
later (R73; notes/assumptions/96). -/
def State.nextSecReq (s : State) : Nat := (s.clk.localTime / 2 + 2) * 2

/-- Place a fuse word in a 256-bit key whose first word has index base. -/
def setKeyWord (k : BitVec 256) (i : Nat) (w : Word) : BitVec 256 :=
  k &&& ~~~((0xFFFFFFFFFFFFFFFF : BitVec 256) <<< (64 * i)) ||| (w.setWidth 256 <<< (64 * i))

/-- Number of 1 bits of a word. -/
def popCount (w : Word) : Nat := ((List.range 64).filter w.getLsbD).length

/-- A fuse word is taken (table "Fuse words"); words 12 to 31 are ignored. -/
def Boot.fuse (b : Boot) (i : Nat) (w : Word) : Boot :=
  if i < 4 then { b with drk := setKeyWord b.drk i w }
  else if i < 8 then { b with fak := setKeyWord b.fak (i - 4) w }
  else if i = 8 then { b with serial := b.serial &&& ~~~0xFFFFFFFFFFFFFFFF ||| w.setWidth 128 }
  else if i = 9 then { b with serial := b.serial &&& 0xFFFFFFFFFFFFFFFF ||| (w.setWidth 128 <<< 64) }
  else if i = 10 then { b with secVersion := popCount w }
  else if i = 11 then { b with keysProgrammed := w.getLsbD 0 }
  else b

/-- After word 31: device keys are derived when keys are programmed; a serial without keys is not shown (R141, R143, R446). -/
def Boot.fusesDone (b : Boot) : Boot :=
  if b.keysProgrammed then { b with hasKeys := true, dik := deriveKey b.drk 1, dwk := deriveKey b.drk 2 }
  else { b with hasKeys := false, drk := 0, fak := 0, serial := 0 }

/-! ## The Kolate image (R103, R149) -/

/-- The registers' check before the fetch. -/
def Boot.imageRegsOk (b : Boot) : Bool :=
  b.imageAddr.toNat % 512 == 0 && b.imageLen.toNat % 512 == 0 && decide (4096 ≤ b.imageLen.toNat ∧ b.imageLen.toNat ≤ 524288)

/-- The lowest-numbered unfenced core, through whose stream unit the image is fetched (R103). -/
def Cores.lowestUnfenced (c : Cores) : Nat :=
  ((List.range c.phys.length).find? fun k => (c.phys[k]?.map PhysCore.state) != some .fenced).getD 0

/-- The image as it stands in the scratchpad at BOOT_IMAGE_ADDR, fetched line by line on SP_RD_A (R103). -/
def State.fetchedImage (s : State) : Bytes := s.sp.readBytes s.boot.imageAddr.toNat s.boot.imageLen.toNat

/-- A BOOT_GO write by the warden (R100, R103): ignored outside the phases that accept it. -/
def State.bootGo (s : State) : State :=
  let b := s.boot
  if b.phase = 5 ∨ (b.phase = 0xFF ∧ (b.reason = 5 ∨ b.reason = 6 ∨ b.reason = 9)) then
    let s := s.onBoot fun b => { b with attempts := min 255 (b.attempts + 1), phase := 6, since := s.clk.localTime
                                        fetchCore := s.cores.lowestUnfenced }
    if b.imageRegsOk then s else s.startStop 5
  else s

/-- Authentication of an image, in the order of R149. -/
def Boot.authentic (b : Boot) (image : Bytes) : Bool :=
  decide (leNat (image.take 4) = 0x4B4F4C54) && decide (leNat ((image.drop 36).take 4) = b.imageLen.toNat)
    && decide (b.secVersion ≤ (image.getD 4 0).toNat)
    && (gcmDecrypt (keyBytes b.fak) ((image.drop 8).take 12) (image.take 20 ++ List.replicate 16 0 ++ image.drop 36) []
          ((image.drop 20).take 16)).isSome

/-- Does start-up run the image without authentication (R105, R143)? -/
def State.unauthenticated (s : State) : Bool := s.boot.debugOpened || !s.boot.keysProgrammed

/-! ## Warm reset (R96-R98) -/

/-- A port after a warm reset: training and calibration stay; UP becomes MAINT_ONLY with UNCHECKED; counts clear. -/
def Port.warm (p : Port) : Port :=
  let p := { p with corrCells := 0, corrSymbols := 0, poisoned := 0, missing := 0, replays := 0, tenantMismatch := 0, queue := [],
                     txCtr := p.txCtr.map fun _ => 0, rxCtr := p.rxCtr.map fun _ => 0 }
  match p.state with
  | .up => { p with state := .maintOnly, reason := 0x12, unchecked := true }
  | _ => p

/-- The state after a warm reset, at the start of phase 0x04. What R96 to R98, R148, R381 and R438 keep stays; of the state that no rule names
for a warm reset, the image registers, ATTEMPTS, REASON and the rack synchronisation stay, and all other registers take their reset values:
DESIGN CHOICE (notes/assumptions/29). DEBUG_OPENED reads 1 once the debug state is OPEN or ERASE_PENDING (R105, R151). -/
def State.warmCleared (s : State) : State :=
  let i := State.initial s.cfg
  let t : State := { i with
    aon := { s.aon with power := .starting, resetCause := .warm, resetReason := s.aon.firstFatal, boundaryHalt := 0 }
    clk := s.clk
    boot := { i.boot with straps := s.boot.straps, phase := 4, reason := s.boot.reason, attempts := s.boot.attempts
                          fenced := s.boot.fenced, debugOpened := s.boot.debugOpened || s.aon.debug != .closed, imageAddr := s.boot.imageAddr
                          imageLen := s.boot.imageLen }
    cores := { s.cores with sheaves := [], silos := [] }
    keyHigh := s.keyHigh
    ports := s.ports.map Port.warm
    pairHeld := s.pairHeld
    coll := { i.coll with syncNum := s.coll.syncNum, syncSeen := s.coll.syncSeen, syncLate := s.coll.syncLate, syncTarget := s.coll.syncTarget, tx := s.coll.tx }
    gln := { i.gln with snap := s.gln.snap, snapValid := s.gln.snapValid, snapMissed := s.gln.snapMissed }
    tap := s.tap }
  s.keepOutside t

/-- A valid WARM_RESET: running epochs abort on every participant as for a fatal alarm, work stops, start-up re-enters phase 0x04. -/
def State.warmReset (s : State) : State :=
  ((List.range s.cfg.nSeq).foldl State.haltDomain s).warmCleared.startPhase4

/-! ## The commands -/

/-- Has cold reset been released? -/
def State.released (s : State) : Bool := match s.aon.power with | .off | .standby => false | _ => true

/-- POWER_ON (R92): AON_PG rises. -/
def execPowerOn (s : State) : Res :=
  match s.aon.power with
  | .off => .next (s.keepOutside (State.initial s.cfg))
  | _ => .next s

/-- POWER_OFF (R57, R74, R92, R93): AON_PG falls. -/
def execPowerOff (s : State) : Res :=
  let i := State.initial s.cfg
  .next (s.keepOutside { i with aon := { i.aon with power := .off } })

/-- COLD_RESET_RELEASE (R47, R82, R88, R94, R105): the dividers start, the straps are sampled, phase 0x01 begins. -/
def execColdResetRelease (straps : Straps) (s : State) : Res :=
  match s.aon.power with
  | .standby =>
    let s := s.onAon fun a => { a with power := .starting }
    let s := { s with clk := { Clk.initial with dividers := true } }
    .next (s.onBoot fun b => { b with straps := straps, phase := 1, debugOpened := s.aon.debug != .closed })
  | _ => .next s

/-- MAIN_RESET_ASSERT (R95, R96, R99): RST_N or MAIN_PG falls; a supply that falls while the pin holds the reset is the cause. -/
def execMainResetAssert (pin : ResetPin) (s : State) : Res :=
  if s.released then
    .next (s.mainCleared { s.aon with power := .standby, bypass := List.replicate s.cfg.nPair true
                                      resetCause := (match pin with | .rstN => .coldPin | _ => .coldSupply)
                                      resetReason := s.aon.firstFatal, firstAt := none, boundaryHalt := 0 })
  else if s.aon.power = .standby ∧ s.aon.resetCause = .coldPin ∧ pin ≠ .rstN then .next (s.onAon fun a => { a with resetCause := .coldSupply })
  else .next s

/-- Scheduled work of a sequencer stops without an abort: nothing in flight completes, no line, cell or beat goes out any more, and lines on
their way are not awaited (R50, R79). -/
def State.stopWork (s : State) (d : Nat) : State :=
  if (s.seqAt d).run.isSome then
    let s := (s.onRun d fun r => { r with flight := [], stamps := [] }).dropWork d
    if s.coup.owner.toNat = d then s.onCoup fun c => { c with beats := c.beats.filter fun b => decide (b.cycle ≤ s.clk.rackTime) } else s
  else s

/-- The halt of CLOCK_LOSS and REF_LOSS: every port drops, scheduled work stops, nothing is sent (R50, R108, R432). -/
def State.linkLossHalt (s : State) : State :=
  let s := s.dropAllPorts
  if s.aon.power.serves then ((List.range s.cfg.nSeq).foldl State.stopWork s).enterHalted.dropQueues else s

/-- CLOCK_LOSS (R50): before the ready message start-up ends in FAILED with REASON unchanged (notes/assumptions/31). -/
def execClockLoss (s : State) : Res :=
  if s.released then
    let t := (s.latchFatal 0x01 none).linkLossHalt
    match s.aon.power with
    | .starting => .next ((t.onAon fun a => { a with power := .failed }).onBoot fun b => { b with phase := 0xFF, secReq := false })
    | _ => .next t
  else .next s

/-- REF_LOSS (R85, R104): the fatal alarm, and the halt; before the ready message the end of start-up (notes/assumptions/35). -/
def execRefLoss (s : State) : Res :=
  match s.aon.power with
  | .starting => .next ((s.startEnd 0x01).latchFatal 0x02 none)
  | .running | .maintenance | .halted | .failed => .next ((s.latchFatal 0x02 none).linkLossHalt)
  | _ => .next s

/-- TEST_RESET (R96): only the test access port controller. -/
def execTestReset (s : State) : Res := .next { s with tap := Tap.initial }

/-- REGISTER_PORT_READY (R56): 64 CK_C cycles after the release of cold reset. -/
def execRegisterPortReady (s : State) : Res :=
  if s.released ∧ !s.clk.regReady then
    let s := s.untilLocal 128
    .next { s with clk := { s.clk with regReady := true } }
  else .next s

/-- REFERENCE_CHECK_DONE (R69, R78, R101): phase 0x01 ends after 16 reference cycles, phase 0x02 checks the straps in 32 CK_C cycles. -/
def execReferenceCheckDone (s : State) : Res :=
  if s.aon.power = .starting ∧ s.boot.phase = 1 then
    let s := s.untilLocal 320
    let s := s.onBoot fun b => { b with phase := 2 }
    if s.fedStrapsOk then
      let s := (List.range s.cfg.nPort).foldl State.checkStrap s
      .next (s.onBoot fun b => { b with phase := 3, since := s.clk.localTime })
    else .next (s.startFail 0x02 none)
  else .next s

/-- Memories whose failure is a central failure of R102: command memory, ledger, table store, control core memories. -/
def centralMem (l : SramLoc) : Bool := [1, 2, 3, 4, 7, 8].contains l.mem.toNat

/-- Core memories (R421). -/
def coreMem (l : SramLoc) : Bool := decide (0x10 ≤ l.mem.toNat ∧ l.mem.toNat ≤ 0x13)

/-- The lowest-numbered free spare takes the place of an active core that self-test has fenced (R102, R424). -/
def Cores.bistReplace (nActive : Nat) (c : Cores) (k : Nat) : Cores :=
  let spare := (List.range c.phys.length).find? fun i => nActive ≤ i && (c.phys[i]?.map PhysCore.state) == some .free
  match (List.range c.serve.length).find? fun g => c.serve.getD g 0 == k, spare with
  | some g, some i => { c with serve := c.serve.set g i, phys := c.phys.modify i fun p => { p with state := .serving } }
  | _, _ => c

/-- Failing cores of a self-test report, in ascending number. -/
def bistCores (n : Nat) (failed : List SramLoc) : List Nat :=
  (List.range n).filter fun k => failed.any fun l => coreMem l && l.inst.toNat == k

/-- Every failing core is fenced, then the failing active cores are replaced in ascending number: DESIGN CHOICE, since R102 gives no order
among several (notes/assumptions/97). -/
def Cores.bistFence (nActive : Nat) (c : Cores) (ks : List Nat) : Cores :=
  let c := ks.foldl (fun (c : Cores) k => { c with phys := c.phys.modify k fun p => { p with state := .fenced, byBist := true } }) c
  ks.foldl (Cores.bistReplace nActive) c

/-- BIST_DONE (R102, R424, R438). -/
def execBistDone (failed : List SramLoc) (s : State) : Res :=
  if s.aon.power = .starting ∧ s.boot.phase = 3 then
    match failed.find? centralMem with
    | some l => .next (s.startFail 0x03 (some l))
    | none =>
      let ks := bistCores (s.cfg.nActive + s.cfg.nSpare) failed
      if s.cfg.nSpare < ks.length then .next (s.startFail 0x03 (failed.find? coreMem))
      else
        let s := s.onCores fun c => c.bistFence s.cfg.nActive ks
        .next ((s.onBoot fun b => { b with fenced := ks.length }).startPhase4)
  else .next s

/-- BIST_TIMEOUT (R104): 1,600,000 CK_V cycles have passed. -/
def execBistTimeout (loc : SramLoc) (s : State) : Res :=
  if s.aon.power = .starting ∧ s.boot.phase = 3 then .next ((s.untilLocal (s.boot.since + 1600000)).startFail 0x08 (some loc)) else .next s

/-- FUSE_READ_ACK (R73, R140): an acknowledgement comes while SEC_RD_REQ is 1; a word that is answered with SEC_RD_ERR holds a free value (notes/assumptions/32). -/
def execFuseReadAck (data : Word) (err : Bool) (s : State) : Res :=
  if s.aon.power = .starting ∧ s.boot.phase = 4 ∧ s.boot.secReq then
    let s := s.untilLocal s.boot.since
    let (w, s) := if err then s.fresh else (data, s)
    let i := s.boot.fuseIndex
    let s := s.onBoot fun b => b.fuse i w
    if i < 31 then .next (s.onBoot fun b => { b with fuseIndex := i + 1, since := s.nextSecReq })
    else
      let s := s.onBoot fun b => { b.fusesDone with secReq := false }
      if s.slave then .next s.startPhase7 else .next (s.onBoot fun b => { b with phase := 5, since := s.clk.localTime })
  else .next s

/-- SEC_TIMEOUT (R73, R104): 1024 CK_C cycles without an answer. -/
def execSecTimeout (s : State) : Res :=
  if s.aon.power = .starting ∧ s.boot.phase = 4 ∧ s.boot.secReq then .next ((s.untilLocal (s.boot.since + 2048)).startFail 0x04 none)
  else .next s

/-- IMAGE_AUTHENTICATED (R101, R103, R149): the image that stands in the scratchpad, with what other clients have put there before the fetch,
is checked; Kolate starts, or start-up stops with FW_AUTH. -/
def execImageAuthenticated (given : List Host.Cell) (s : State) : Res :=
  if s.aon.power = .starting ∧ s.boot.phase = 6 then
    let s := { s with sp := s.sp.overlay given }
    let image := s.fetchedImage
    if s.unauthenticated ∨ s.boot.authentic image then
      let s := s.onKol fun k => { k with running := true, imem := image, version := Config.kolateVersion image, wdogSince := s.clk.localTime }
      .next s.startPhase7
    else .next (s.startStop 0x06)
  else .next s

/-- FW_START_TIMEOUT (R104): 1,600,000 CK_C cycles after BOOT_GO. -/
def execFwStartTimeout (s : State) : Res :=
  if s.aon.power = .starting ∧ s.boot.phase = 6 then
    let s := s.untilLocal (s.boot.since + 3200000)
    .next ((s.onKol fun k => { k with running := false, imem := [] }).startStop 0x09)
  else .next s

/-- Class P ports to the other dies of the part (R34). -/
def State.fedPorts (s : State) : List Nat :=
  (List.range (s.boot.straps.fedDies.toNat + 1)).filter fun e => e != s.boot.straps.dieId.toNat

/-- Does the die behind port Pe report an equal configuration (R365)? -/
def State.fedEqual (s : State) (e : Nat) : Bool :=
  match (s.portAt e).partner with
  | some x => x.part == s.cfg.partNumber && x.silo.toNat == s.cfg.siloKib && x.fed.toNat % 8 == s.boot.straps.fedDies.toNat
      && x.fed.toNat / 16 % 8 == e
  | none => false

/-- FEDERATION_CHECK_DONE (R7, R101): every die has reported; an unequal report ends start-up with FED_CONFIG. -/
def execFederationCheckDone (s : State) : Res :=
  if s.aon.power = .starting ∧ s.boot.phase = 7 ∧ s.federated ∧ s.fedPorts.all (fun e => (s.portAt e).partner.isSome) then
    if s.fedPorts.all s.fedEqual then .next s.startPhase8 else .next (s.startFail 0x02 none)
  else .next s

/-- FEDERATION_TIMEOUT (R101, R104): 1 ms from this die's entry into phase 0x07, on a slave too, which R101 lets wait there for the master
without saying from when its limit runs (DESIGN CHOICE, notes/assumptions/98). -/
def execFederationTimeout (s : State) : Res :=
  if s.aon.power = .starting ∧ s.boot.phase = 7 then .next ((s.untilLocal (s.boot.since + 1600000)).startFail 0x02 none) else .next s

end Sys2Proof.Machine
end

