-- ==== Sys2Proof/Machine/RegWrite.lean ====
section
/-! DEFINITION. Register writes: what each register does with a written word, and the commands of the register port (02 R54, 03 R97, R100,
04 R111-R115, 07 R190, 10 R271, 13 R311, 14 R338, 15 R382, 16 R420, 17 R439, R440, 18 R443-R455). -/

namespace Sys2Proof.Machine

/-! ## Cores (R424-R430, R440) -/

/-- The core serving a position becomes k; the one before retires. A scrubbed core's sheaves are zero, so the position's are. -/
def Cores.setServe (nActive : Nat) (c : Cores) (g k : Nat) : Cores :=
  let old := c.serve.getD g g
  if old = k then c
  else
    let c := Cores.retire nActive c old
    { c with serve := c.serve.set g k, phys := c.phys.modify k fun p => { p with state := .serving }
             sheaves := c.sheaves.clear (65536 * g) 65536 }

/-- Does the sequencer whose pens hold a global position run an epoch? -/
def State.posRuns (s : State) (g : Nat) : Bool :=
  match s.posDomain g with
  | some q => (s.seqAt q).run.isSome
  | none => false

/-- May a core take a part in position g: it exists, is not fenced, and neither serves nor shadows another position (R440)? -/
def State.coreFor (s : State) (g k : Nat) : Bool :=
  match (s.cores.phys[k]?).map PhysCore.state with
  | none | some .fenced => false
  | _ => match s.cores.posOf k with
    | some x => x == g
    | none => true

/-- A POS_MAP write to position g of this die: none where it is refused. -/
def State.writePosMap (s : State) (g : Nat) (data : Word) : Option State :=
  let k := field data 0 8
  let h := field data 8 8
  if s.posRuns (s.boot.straps.dieId.toNat * s.cfg.nActive + g) || !s.coreFor g k || (h != 0xFF && (!s.coreFor g h || h == k)) then none
  else
    let n := s.cfg.nActive
    some (s.onCores fun c =>
      let c := if c.shadow.getD g none = some k then { c with shadow := c.shadow.set g none } else c
      let c := Cores.setServe n c g k
      Cores.setShadow n c g (if h = 0xFF then none else some h))

/-! ## Small updates -/

/-- A W1C register. -/
def w1c (old data : Word) : Word := old &&& ~~~data

/-- A word with only the bits of a mask (R16: writes to reserved bits are zero-forced). -/
def masked (data : Word) (m : Nat) : Word := data &&& word m

/-- What a write does: the response code and the state. -/
abbrev WriteRes := BitVec 3 × State

/-! ## Mailboxes (R111-R115) -/

/-- A doorbell. -/
def Mailbox.setReqTail (b : Mailbox) (v : BitVec 16) : Mailbox :=
  { b with reqTail := v, overrun := b.overrun || decide (b.entries < (v - b.reqHead).toNat) }

/-- The host frees completion slots. -/
def Mailbox.setCplHead (b : Mailbox) (v : BitVec 16) : Mailbox :=
  { b with cplHead := v, overrun := b.overrun || decide (b.entries < (b.cplTail - v).toNat) }

def State.writeMailbox (s : State) (m off : Nat) (data : Word) : State :=
  match off with
  | 0x08 => s.onMbx m fun b => b.setReqTail (data.setWidth 16)
  | 0x20 => s.onMbx m fun b => b.setCplHead (data.setWidth 16)
  | 0x30 => s.onMbx m fun b => { b with irqEn := data.getLsbD 0 }
  | 0x38 => if data.getLsbD 0 then s.resetMbx m else s
  | _ =>
    if (0x400 ≤ off ∧ off < 0xC00) ∨ 0x1000 ≤ off then s.onMbx m fun b => { b with mem := b.mem.write64 off data } else s

/-! ## Gleaner and alarms (R57, R431, R438, R439) -/

/-- Fatal bits clear; ALARM_N is released with the last of them. -/
def State.clearFatal (s : State) (data : Word) : State :=
  s.onAon fun a =>
    let f := a.fatal &&& ~~~(data.setWidth 32)
    { a with fatal := f, alarmPulled := a.alarmPulled && f != 0 }

def State.writeGleaner (s : State) (off : Nat) (data : Word) : State :=
  match off with
  | 0x000 => s.clearFatal data
  | 0x008 => s.onGln fun g => { g with warn := g.warn &&& ~~~(data.setWidth 32) }
  | 0x010 => s.onGln fun g => { g with irqEn := masked data 0xFFFFFFFF }
  | 0x300 => s.onGln fun g => { g with evtHead := data.setWidth 32 }
  | 0x318 => s.onGln fun g => { g with traceCtl := masked data 0x3FF }
  | 0x338 => if data.getLsbD 0 then s.onGln fun g => { g with snapValid := false } else s
  | 0x348 => s.onGln fun g => { g with thermLimits := masked data 0xFFFF }
  | 0x358 => s.onGln fun g => { g with die := masked data 7 }
  | _ => s

/-! ## Expert windows -/

/-- A write that another die checks by its own registers: it is sent there, and whether that die takes it is a free value
(notes/assumptions/21). -/
def State.writeThere (s : State) (die : Nat) (m : FedMsg) (refused : Windows → Windows) : WriteRes :=
  let (w, s) := s.fresh
  let s := s.fedSend die m
  if w.getLsbD 0 then (rspOk, s) else (rspDenied, s.onWin refused)

/-- POS_MAP[g] of a global position (R35, R440). -/
def State.writePos (s : State) (g : Nat) (data : Word) : WriteRes :=
  let n := s.cfg.nActive
  let refused (w : Windows) : Windows := { w with vaErr := w.vaErr ||| 1 }
  if g / n = s.boot.straps.dieId.toNat then
    match s.writePosMap (g % n) data with
    | some t => (rspOk, t)
    | none => (rspDenied, s.onWin refused)
  else if s.posRuns g then (rspDenied, s.onWin refused)
  else s.writeThere (g / n) (.write (0x120000 + 8 * g) 0 data) refused

/-- CMD_DATA (R190, R453): a segment's load bank is written and becomes EMPTY, a session on it ends; an active bank is refused. -/
def State.writeCmdData (s : State) (data : Word) : WriteRes :=
  let bank := field s.win.cmdSel 24 1
  let q := field s.win.cmdSel 3 15 * 8 / s.cfg.segBytes
  if (s.seqAt q).activeBank % 2 = bank then (rspDenied, s.onWin fun w => { w with seqErr := w.seqErr ||| 1 })
  else
    let s := { s with cmdMem := s.cmdMem.write64 s.cmdAddr data }
    let s := s.onSeq q fun x => { x with load := .empty, session := none, imgLen := x.imgLen.set bank 0 }
    (rspOk, s.advanceSel 0x110008)

/-- TBL_DATA (R271, R454). -/
def State.writeTblData (s : State) (data : Word) : WriteRes :=
  if s.tableInUse (field s.win.tblSel 0 5) then (rspDenied, s.onWin fun w => { w with feErr := w.feErr ||| 1 })
  else (rspOk, ({ s with tables := s.tables.write64 s.tblAddr data } : State).advanceSel 0x130008)

/-- Defined bits of a chain record's words (R314). -/
def chainMask : Nat → Nat
  | 0 => 2 ^ 37 - 1
  | 7 => 2 ^ 54 - 1
  | _ => 2 ^ 64 - 1

/-- COUPLER_OWNER and the chain records (R311, R314): refused while any epoch runs, and copied to every die (R313). -/
def State.writeCoupler (s : State) (off : Nat) (data : Word) : WriteRes :=
  if off = 0 then
    if s.anyEpoch then (rspDenied, s)
    else
      let v : BitVec 4 := data.setWidth 4
      (rspOk, ((s.onCoup fun c => { c with owner := v }).unarmIf fun _ c => c.dst == 3).fedAll (.write 0x170000 0 (v.setWidth 64)))
  else if 0x1000 ≤ off then
    if s.anyEpoch then (rspDenied, s)
    else
      let a := off - 0x1000
      let v := masked data (chainMask (a % 64 / 8))
      let t := s.onCoup fun c => { c with chains := c.chains.write64 a v }
      (rspOk, (t.unarmIf fun q c => q == a / 512 && c.chains.contains (a % 512 / 64)).fedAll (.write (0x170000 + off) 0 v))
  else (rspOk, s)

/-- Is a port named by a circuit of a job that a live domain runs or will run? -/
def State.carriesChannel (s : State) (p : Nat) : Bool :=
  s.liveDoms.any fun d =>
    let c := s.domAt d
    ([c.activeJob, c.pendingJob].filterMap id).any fun j => j.circs.any fun x => x.ins.contains p || (x.hasOut && x.outPort == p)

/-- PORT_CTL[p] (R70, R382): ENABLE and FORCE_MAINT stand still while an epoch runs; LPBK acts only in MAINTENANCE on a port without a
channel. -/
def State.writePortCtl (s : State) (p : Nat) (data : Word) : WriteRes :=
  let old := (s.portAt p).ctl
  if s.anyEpoch ∧ field data 0 2 ≠ field old 0 2 then (rspDenied, s.onWin fun w => { w with linkErr := w.linkErr ||| 1 })
  else
    let lp := data.getLsbD 2
    let ok := s.aon.power = .maintenance ∧ !s.carriesChannel p
    let lpbk := lp && decide ok
    let s := if lp && !decide ok then s.onWin fun w => { w with linkErr := w.linkErr ||| 2 } else s
    let s := s.onPort p fun q => { q with ctl := word (field data 0 2 + 4 * bit01 lpbk), phyLpbk := lpbk }
    if data.getLsbD 0 then (rspOk, s) else (rspOk, s.pairLost p 0x0B)

/-- PAIR_BYPASS (R382): each pair whose bit changes enters or leaves bypass; an absent pair, and one with a
port that is not enabled, stays in bypass (R108, R382). -/
def State.writePairBypass (s : State) (data : Word) : WriteRes :=
  if s.anyEpoch then (rspDenied, s.onWin fun w => { w with linkErr := w.linkErr ||| 1 })
  else
    let one (s : State) (i : Nat) : State :=
      let v := data.getLsbD i
      if v = s.pairHeld.getD i false then s
      else
        let s := { s with pairHeld := s.pairHeld.set i v }
        if s.pairAbsent i then s else if v then s.pairBypass i else if s.pairEnabled i then s.releaseBypass i else s
    (rspOk, (List.range s.cfg.nPair).foldl one s)

/-- CIRC_WORD and ROUTE_WORD (R420): the pending job only; a word that it does not hold is not written. -/
def State.writeJobWord (s : State) (sel : Word) (f : Job → Job) : WriteRes :=
  if field sel 24 1 = 1 then (rspDenied, s.onWin fun w => { w with collErr := w.collErr ||| 1 })
  else if s.anyEpoch then (rspDenied, s)
  else (rspOk, s.onDom (field sel 0 3) fun c => { c with pendingJob := c.pendingJob.map f })

/-- Bits of a circuit's words, and of a ROUTES word, that are not reserved (R16, R389, R390). -/
def circMask (w : Nat) : Nat := if w = 0 then 2 ^ 61 - 1 else 2 ^ 64 - 1
def routeMask (i : Nat) : Nat := if i = 0 then 2 ^ 54 - 1 else if i < 3 then 2 ^ 48 - 1 else 0x3F3FFFFFFFFF

def State.writeCirc (s : State) (w : Nat) (data : Word) : WriteRes :=
  s.writeJobWord s.win.circSel fun j => { j with circuits := j.circuits.set (4 * field s.win.circSel 8 11 + w) (masked data (circMask w)) }

def State.writeRoute (s : State) (data : Word) : WriteRes :=
  let i := field s.win.routeSel 8 7
  s.writeJobWord s.win.routeSel fun j => { j with routes := j.routes.set i (masked data (routeMask i)) }

/-- Replace word k of an entry. -/
def setEntryWord (e : Entry) (k : Nat) (v : Nat) : Entry :=
  match k with
  | 0 => { e with w0 := v }
  | 1 => { e with w1 := v }
  | 2 => { e with w2 := v }
  | _ => { e with w3 := v }

/-- LEDGER_WORD[k] (R338): the checks of R336 but IN_USE, on the entry as it would stand; a change of a static field is refused while an
epoch runs. The ledger may be another die's. -/
def State.writeLedgerWord (s : State) (k : Nat) (data : Word) : WriteRes :=
  let i := field s.win.ledgerSel 0 17
  let refused (w : Windows) : Windows := { w with granErr := w.granErr ||| 1 }
  if !s.ledgerHere then s.writeThere (field s.win.ledgerSel 32 3) (.write (0x1A0008 + 8 * k) i data) refused
  else
    let x := setEntryWord (s.entry i) k data.toNat
    if s.ledgerCheck [(i, x)] ≠ 0 ∨ (s.anyEpoch ∧ x.statics ≠ (s.entry i).statics) then (rspDenied, s.onWin refused)
    else (rspOk, s.writeEntries [(i, x)])

/-- A write to a register of an unlocked window. -/
def State.writeExpert (s : State) (id off : Nat) (data : Word) : WriteRes :=
  let keep (f : Windows → Windows) : WriteRes := (rspOk, s.onWin f)
  match id, off with
  | 2, 0x00 => keep fun w => { w with cmdSel := masked data 0x103FFF8 }
  | 2, 0x08 => s.writeCmdData data
  | 2, 0x10 => keep fun w => { w with seqErr := w1c w.seqErr data }
  | 3, 0x2000 => keep fun w => { w with ceLimit := masked data 0xFFFF }
  | 3, 0x2008 => keep fun w => { w with vaErr := w1c w.vaErr data }
  | 3, off => s.writePos (off / 8) data
  | 4, 0x00 => keep fun w => { w with tblSel := word (field data 0 5 + min 319 (field data 8 9) * 256) }
  | 4, 0x08 => s.writeTblData data
  | 4, 0x10 => keep fun w => { w with feErr := w1c w.feErr data }
  | 5, 0x00 => keep fun w => { w with srSeed := masked data 0xFFFFFFFF }
  | 5, 0x08 => keep fun w => { w with srLLo := data }
  | 5, 0x10 => keep fun w => { w with srLHi := masked data 0xFFFF }
  | 5, 0x18 => keep fun w => { w with srStage := masked data 0xFFFF }
  | 8, off => s.writeCoupler off data
  | 9, 0x200 => s.writePairBypass data
  | 9, 0x208 => keep fun w => { w with linkErr := w1c w.linkErr data }
  | 9, off => s.writePortCtl (off / 8) data
  | 10, 0x00 => keep fun w => { w with circSel := masked data 0x107FF07 }
  | 10, 0x40 => keep fun w => { w with routeSel := masked data 0x1007F07 }
  | 10, 0x48 => s.writeRoute data
  | 10, 0x80 => keep fun w => { w with collErr := w1c w.collErr data }
  | 10, off => s.writeCirc ((off - 8) / 8) data
  | 11, 0x00 => keep fun w => { w with ledgerSel := masked data 0x70001FFFF }
  | 11, 0x40 => (rspOk, s)
  | 11, 0x48 => keep fun w => { w with granErr := w1c w.granErr data }
  | 11, off => s.writeLedgerWord ((off - 8) / 8) data
  | _, _ => (rspOk, s)

/-- A write to a start-up register (R97, R99, R100). -/
def State.writeStartup (s : State) (a : Nat) (data : Word) : WriteRes :=
  match a with
  | 0x88 => (rspOk, s.onBoot fun b => { b with imageAddr := masked data (2 ^ 40 - 1) })
  | 0x90 => (rspOk, s.onBoot fun b => { b with imageLen := masked data (2 ^ 20 - 1) })
  | 0x98 => (rspOk, if data.getLsbD 0 then s.bootGo else s)
  | 0xA8 => if field data 0 8 = 0xA5 then (rspOk, s.warmReset) else (rspDenied, s)
  | _ => (rspOk, s)

/-- The effect of a write that R55 answers with OK so far. Read-only registers ignore it (R443); a write to the gleaner registers of
another die is sent there (R33, R439). -/
def State.writeReg (s : State) (a : Nat) (data : Word) : WriteRes :=
  match regionOf a with
  | .startup => s.writeStartup a data
  | .mailbox m off => (rspOk, s.writeMailbox m off data)
  | .gleaner off => (rspOk, if s.otherDie a then s.fedSend (s.dieOf a) (.write a 0 data) else s.writeGleaner off data)
  | .expert id off => s.writeExpert id off data
  | _ => (rspOk, s)

/-- A register write (R54, R55): the response code, and the effect where it is OK; a refusal changes only its sticky error bit. -/
def State.regWrite (s : State) (src a : Nat) (data : Word) : State :=
  let code := s.rspCode src true a
  if code = rspOk then
    let (c, t) := s.writeReg a data
    t.respond c 0
  else s.respond code 0

/-! ## The commands -/

/-- A request on the register port: none is accepted while the port is down (R56). The state is that at the end of the running cycle, so the
access belongs to the next one, before its updates (R444; notes/assumptions/111). -/
def portRequest (s t : State) : Res := whenTrue s.regUp s t

/-- Addresses of the registers that have rows of their own. -/
def mbxAddr (m off : Nat) : Nat := 0x1000 + 0x2000 * m + off

/-- BOOT_GO (R100). -/
def execBootGo (src : BitVec 4) (data : Word) (s : State) : Res := portRequest s (s.regWrite src.toNat 0x98 data)
/-- WARM_RESET (R97). -/
def execWarmReset (src : BitVec 4) (data : Word) (s : State) : Res := portRequest s (s.regWrite src.toNat 0xA8 data)
/-- REGISTER_WRITE (R54). -/
def execRegisterWrite (src : BitVec 4) (addr : BitVec 24) (data : Word) (s : State) : Res :=
  portRequest s (s.regWrite src.toNat addr.toNat data)
/-- RECORD_WORD0_READ (R445): a register read; of word 0 of a record, it fills the requester's shadow. -/
def execRecordWord0Read (src : BitVec 4) (addr : BitVec 24) (s : State) : Res := portRequest s (s.regRead src.toNat addr.toNat)
/-- REQ_TAIL (R112, R115). -/
def execReqTail (src : BitVec 4) (mbox : Nat) (data : Word) (s : State) : Res :=
  portRequest s (s.regWrite src.toNat (mbxAddr mbox 0x08) data)
/-- CPL_HEAD (R113, R115). -/
def execCplHead (src : BitVec 4) (mbox : Nat) (data : Word) (s : State) : Res :=
  portRequest s (s.regWrite src.toNat (mbxAddr mbox 0x20) data)
/-- MBX_RESET (R115). -/
def execMbxReset (src : BitVec 4) (mbox : Nat) (data : Word) (s : State) : Res :=
  portRequest s (s.regWrite src.toNat (mbxAddr mbox 0x38) data)
/-- ALARM_FATAL_CLEAR (R57, R431). -/
def execAlarmFatalClear (src : BitVec 4) (data : Word) (s : State) : Res := portRequest s (s.regWrite src.toNat 0x50000 data)
/-- SNAP_RELEASE (R438). -/
def execSnapRelease (src : BitVec 4) (data : Word) (s : State) : Res := portRequest s (s.regWrite src.toNat 0x50338 data)
/-- CMD_DATA_READ (R453). -/
def execCmdDataRead (src : BitVec 4) (s : State) : Res := portRequest s (s.regRead src.toNat 0x110008)
/-- CMD_DATA_WRITE (R190, R453). -/
def execCmdDataWrite (src : BitVec 4) (data : Word) (s : State) : Res := portRequest s (s.regWrite src.toNat 0x110008 data)
/-- TBL_DATA_READ (R454). -/
def execTblDataRead (src : BitVec 4) (s : State) : Res := portRequest s (s.regRead src.toNat 0x130008)
/-- TBL_DATA_WRITE (R271, R454). -/
def execTblDataWrite (src : BitVec 4) (data : Word) (s : State) : Res := portRequest s (s.regWrite src.toNat 0x130008 data)
/-- SR_RESULT_READ (R455). -/
def execSrResultRead (src : BitVec 4) (s : State) : Res := portRequest s (s.regRead src.toNat 0x140020)
/-- POS_MAP_WRITE (R440). -/
def execPosMapWrite (src : BitVec 4) (pos : Nat) (data : Word) (s : State) : Res :=
  portRequest s (s.regWrite src.toNat (0x120000 + 8 * pos) data)
/-- COUPLER_OWNER_WRITE (R311). -/
def execCouplerOwnerWrite (src : BitVec 4) (data : Word) (s : State) : Res := portRequest s (s.regWrite src.toNat 0x170000 data)
/-- CHAIN_REC_WRITE (R311, R314). -/
def execChainRecWrite (src : BitVec 4) (seq chain w : Nat) (data : Word) (s : State) : Res :=
  portRequest s (s.regWrite src.toNat (0x171000 + 0x200 * seq + 0x40 * chain + 8 * w) data)
/-- PORT_CTL_WRITE (R382). -/
def execPortCtlWrite (src : BitVec 4) (port : Nat) (data : Word) (s : State) : Res :=
  portRequest s (s.regWrite src.toNat (0x180000 + 8 * port) data)
/-- PAIR_BYPASS_WRITE (R382). -/
def execPairBypassWrite (src : BitVec 4) (data : Word) (s : State) : Res := portRequest s (s.regWrite src.toNat 0x180200 data)
/-- LEDGER_WORD_WRITE (R338). -/
def execLedgerWordWrite (src : BitVec 4) (w : Nat) (data : Word) (s : State) : Res :=
  portRequest s (s.regWrite src.toNat (0x1A0008 + 8 * w) data)
/-- CIRC_ROUTE_WORD_WRITE (R420). -/
def execCircRouteWordWrite (src : BitVec 4) (reg : CircReg) (data : Word) (s : State) : Res :=
  portRequest s (s.regWrite src.toNat (match reg with | .circ w => 0x190008 + 8 * w | .route => 0x190048) data)

end Sys2Proof.Machine
end

