-- ==== Sys2Proof/Machine/Kolate.lean ====
section
/-! DEFINITION. Kolate takes and completes requests (04 R112-R124): the common checks of every Ronno command, and the commands that need no
more than them. -/

namespace Sys2Proof.Machine

/-! ## Ronno codes (table "Ronno completion codes") -/

def rOk : Nat := 0x00
def rBadOpcode : Nat := 0x01
def rBadArg : Nat := 0x02
def rNotPermitted : Nat := 0x03
def rBusy : Nat := 0x04
def rNotIdle : Nat := 0x05
def rBadSize : Nat := 0x06
def rBadRange : Nat := 0x07
def rNoSession : Nat := 0x08
def rVerifyFail : Nat := 0x09
def rNotArmed : Nat := 0x0A
def rNotSynced : Nat := 0x0B
def rLate : Nat := 0x0C
def rWrongState : Nat := 0x0D
def rExpertHeld : Nat := 0x0E
def rWiring : Nat := 0x0F
def rIncomplete : Nat := 0x10
def rHalted : Nat := 0x11
def rInUse : Nat := 0x12

/-! ## Requests -/

/-- Argument k of a request, 1 to 7. -/
def Req.arg (r : Req) (k : Nat) : Word := r.args.getD (k - 1) 0

/-- The request in the slot that REQ_HEAD names (R112, R117). -/
def Mailbox.headReq (b : Mailbox) (m : Nat) : Req :=
  let a := 0x400 + 64 * (b.reqHead.toNat % max b.entries 1)
  let w := b.mem.read64 a
  { mbox := m, tag := w.setWidth 16, opcode := (w >>> 16).setWidth 8, rsvd := field w 24 40 != 0
    args := (List.range 7).map fun k => b.mem.read64 (a + 8 + 8 * k) }

/-- Does a request produce two completions (R114)? -/
def Req.twice (r : Req) : Bool := r.opcode == 0x13 || r.opcode == 0x14

/-- May Kolate take a request from a mailbox: one is queued, no OVERRUN or reset, and the completion ring has room (R114, R115)? -/
def Mailbox.takeable (b : Mailbox) (m : Nat) : Bool :=
  !b.overrun && !b.resetBusy && b.reqHead != b.reqTail
    && decide (b.inFlight + b.reserved + (if (b.headReq m).twice then 2 else 1) ≤ b.entries)

/-- May Kolate take any request: it runs, executes none, and the ready message has been sent (R80, R116, R128, R129)? -/
def State.kolateFree (s : State) : Bool :=
  s.kol.running && !s.kol.fwHalted && !s.kol.stalled && s.kol.held.isNone && s.kol.cleaning.isNone && s.aon.power.afterReady && !s.slave

/-- The mailbox that the round-robin serves next: the first from MBX_TURN on with a request that may be taken (R116). A mailbox whose
EPOCH_RUN or RUN_PREFIX waits for its release is not served, since its requests run in ring order, one at a time. -/
def State.nextMbx (s : State) : Option Nat :=
  ((List.range 16).map fun k => (s.kol.turn + k) % 16).find? fun m => (s.mbxAt m).takeable m && !(s.kol.waiting.any fun r => r.mbox == m)

/-- Kolate takes a request: the slot is copied, REQ_HEAD advances, a later EPOCH_END's slot is reserved, and the watchdog is serviced
(R112, R114). -/
def State.take (s : State) (r : Req) : State :=
  let s := s.onMbx r.mbox fun b => { b with reqHead := b.reqHead + 1, reserved := b.reserved + bit01 r.twice }
  s.onKol fun k => { k with turn := (r.mbox + 1) % 16, held := some r, wdogSince := s.clk.localTime }

/-- The domain whose rights a request has; none for the warden's (R119). -/
def State.issuer (s : State) (r : Req) : Option Nat :=
  let o := (s.mbxAt r.mbox).owner.toNat
  if o = 8 ∨ o = 0xF then none else some o

/-! ## Common checks (R80, R117, R119, R123) -/

/-- Opcodes of the table "Ronno commands". -/
def opcodes : List Nat :=
  [0x01, 0x02, 0x03, 0x08, 0x09, 0x10, 0x11, 0x12, 0x13, 0x14, 0x15, 0x18, 0x19, 0x1A, 0x20, 0x21, 0x22, 0x23, 0x24, 0x25]

/-- Opcodes that only the warden may issue. -/
def wardenOnly (op : Nat) : Bool := ([0x03, 0x08, 0x09, 0x20, 0x21, 0x22, 0x23, 0x24, 0x25] : List Nat).contains op

/-- The bits that an argument may hold; every other bit is reserved (R119, R132, R213, R379, R425). -/
def argMask (op k : Nat) : Nat :=
  match op, k with
  | 0x01, 1 => 2 ^ 64 - 1
  | 0x03, 1 => 0x3F000F
  | 0x08, 1 | 0x09, 1 => 0xFFFF
  | 0x10, 1 | 0x11, 1 | 0x12, 1 => 7
  | 0x10, 2 | 0x11, 2 => 0x3FFFF
  | 0x11, 3 => 0x1FFF0FFF
  | 0x13, 1 | 0x14, 1 => 0xFFFF
  | 0x13, 2 | 0x14, 2 => 2 ^ 64 - 1
  | 0x14, 3 => 0xFFFFFFFF
  | 0x14, 4 => 0xFFF
  | 0x15, 1 => 0xFF
  | 0x18, 1 => 0x1F
  | 0x18, 2 | 0x19, 2 => 0xFFF
  | 0x19, 1 => 0xFF0001FFFF
  | 0x1A, 1 => 0xF
  | 0x1A, 2 => 0x1FFF0FFF
  | 0x20, 1 => 0x307
  | 0x20, 2 => 0xFFF
  | 0x21, 1 => 0x107
  | 0x24, 1 => 0x307
  | 0x24, 2 => 0xFFFFFF
  | 0x24, 3 => 0xFFF
  | 0x25, 1 => 0xF0307FF
  | _, _ => 0

/-- Has a request a reserved bit at 1? -/
def Req.reservedSet (r : Req) : Bool :=
  r.rsvd || (List.range 7).any fun i => (r.arg (i + 1) &&& ~~~word (argMask r.opcode.toNat (i + 1))) != 0

/-- The common checks in order: a code, 0 when the command's own checks follow. -/
def State.commonCheck (s : State) (r : Req) : Nat :=
  let op := r.opcode.toNat
  let always := op = 1 ∨ op = 2
  if s.aon.power = .halted ∧ ¬always then rHalted
  else if !opcodes.contains op then rBadOpcode
  else if (s.issuer r).isSome ∧ s.aon.power = .maintenance ∧ ¬always then rWrongState
  else if r.reservedSet then rBadArg
  else if (s.issuer r).isSome ∧ wardenOnly op then rNotPermitted
  else 0

/-- Post a completion without results, and with them. -/
def State.answer (s : State) (r : Req) (code : Nat) : State := s.complete r code 0 0 0 0

/-- A row of Kolate's: it occurs when the round-robin serves mailbox m next and the request there is one that the row names. -/
def ronno (m : Nat) (pick : State → Req → Bool) (run : Req → State → State) (s : State) : Res :=
  let r := (s.mbxAt m).headReq m
  if s.kolateFree && s.nextMbx == some m && pick s r then
    let s := s.take r
    let code := s.commonCheck r
    .next (if code = 0 then run r s else s.answer r code)
  else .next s

/-- A row of Kolate's whose command adds run entries: a request that the core has kept through a stall goes on, without its checks, once a
sequencer has taken an entry (R129, R187). -/
def ronnoEntry (m : Nat) (pick : State → Req → Bool) (run add : Req → State → State) (s : State) : Res :=
  match s.kol.held with
  | some r => whenTrue (s.kol.works && !s.kol.stalled && r.mbox == m && pick s r) s (add r s)
  | none => ronno m pick run s

/-- Rows that are told by the opcode alone. -/
def pickOp (op : Nat) (_ : State) (r : Req) : Bool := r.opcode.toNat == op

/-! ## Checks that several commands share -/

/-- Is an expert window unlocked (R126)? -/
def State.unlocked (s : State) (id : Nat) : Bool := s.win.unlocked.contains id

/-- Checks of a sequencer argument: a code, 0 when it may be named (R119, R453). -/
def State.seqCheck (s : State) (r : Req) (q : Nat) : Nat :=
  if s.cfg.nSeq ≤ q then rBadArg
  else if (s.issuer r).any (· != q) then rNotPermitted
  else if s.unlocked 2 then rExpertHeld
  else 0

/-- Checks of a sequencer mask. -/
def State.maskCheck (s : State) (r : Req) (mask : Nat) : Nat :=
  if 2 ^ s.cfg.nSeq ≤ mask then rBadArg
  else if (s.issuer r).any (fun d => mask != 2 ^ d && mask != 0) then rNotPermitted
  else if s.unlocked 2 then rExpertHeld
  else 0

/-- Sequencers of a mask in ascending order. -/
def seqsOf (mask : Nat) : List Nat := (List.range 8).filter mask.testBit

/-- Bytes of a mailbox's data area (R118). -/
def State.dataBytes (s : State) (m off n : Nat) : Bytes := (s.mbxAt m).mem.readBytes (0x1000 + off) n

/-! ## ECHO, STATUS, MBX_CONFIG, opcodes that are not defined -/

/-- ECHO. -/
def runEcho (r : Req) (s : State) : State := s.complete r rOk 0 (r.arg 1) 0 0

/-- STATUS: version, state, READY RES1, RACK_TIME. -/
def runStatus (r : Req) (s : State) : State :=
  let st := match s.aon.power with
    | .running => 0
    | .maintenance => 1
    | _ => 2
  s.complete r rOk 0 (word (s.kol.version.toNat + st * 2 ^ 32)) blockVersion (word s.clk.rackTime)

/-- MBX_CONFIG: the ring size of a mailbox at rest. The request itself is counted as taken while it is held. -/
def runMbxConfig (r : Req) (s : State) : State :=
  let m := field (r.arg 1) 0 4
  let n := field (r.arg 1) 16 6
  let b := s.mbxAt m
  if n = 0 ∨ 32 < n then s.answer r rBadSize
  else if b.reqTail ≠ b.reqHead ∨ b.cplTail ≠ b.cplHead ∨ b.reserved ≠ 0 then s.answer r rBusy
  else (s.onMbx m fun b => { b with entries := n }).answer r rOk

/-- ECHO (R119). -/
def execEcho (m : Nat) (s : State) : Res := ronno m (pickOp 0x01) runEcho s
/-- STATUS (R119). -/
def execStatus (m : Nat) (s : State) : Res := ronno m (pickOp 0x02) runStatus s
/-- MBX_CONFIG (R119). -/
def execMbxConfig (m : Nat) (s : State) : Res := ronno m (pickOp 0x03) runMbxConfig s
/-- BAD_OPCODE (R119): every opcode that the table does not list. -/
def execBadOpcode (m : Nat) (s : State) : Res :=
  ronno m (fun _ r => !opcodes.contains r.opcode.toNat) (fun r s => s.answer r rBadOpcode) s

/-! ## Load sessions (R119, R120) -/

/-- PROG_BEGIN opens a session: an armed program is discarded, the load bank is LOADING. -/
def runProgBegin (r : Req) (s : State) : State :=
  let q := field (r.arg 1) 0 3
  let n := field (r.arg 2) 0 18
  let code := s.seqCheck r q
  if code ≠ 0 then s.answer r code
  else if n % 4 ≠ 0 ∨ n = 0 ∨ s.cfg.segBytes < n then s.answer r rBadSize
  else if (s.seqAt q).session.isSome then s.answer r rBusy
  else
    (s.onSeq q fun x =>
      { x with load := .loading, session := some { len := n, present := [] }
               imgLen := x.imgLen.set (1 - x.activeBank) 0 }).answer r rOk

/-- PROG_CHUNK copies bytes of the data area into the segment of the load bank that the session writes. -/
def runProgChunk (r : Req) (s : State) : State :=
  let q := field (r.arg 1) 0 3
  let off := field (r.arg 2) 0 18
  let src := field (r.arg 3) 0 12
  let n := field (r.arg 3) 16 13
  if off % 4 ≠ 0 ∨ src % 8 ≠ 0 ∨ n % 4 ≠ 0 ∨ n < 4 ∨ 4096 < n then s.answer r rBadArg
  else
    let code := s.seqCheck r q
    if code ≠ 0 then s.answer r code
    else
      match (s.seqAt q).session with
      | none => s.answer r rNoSession
      | some x =>
        if 0x1000 < src + n ∨ x.len < off + n then s.answer r rBadRange
        else
          let bs := s.dataBytes r.mbox src n
          let x := { x with present := x.present.writeBytes off (List.replicate n 1) }
          let s := { s with cmdMem := s.cmdMem.writeBytes (s.segAddr q (1 - (s.seqAt q).activeBank) + off) bs }
          (s.onSeq q fun y => { y with session := some x }).answer r rOk

/-- PROG_BEGIN (R119, R120). -/
def execProgBegin (m : Nat) (s : State) : Res := ronno m (pickOp 0x10) runProgBegin s
/-- PROG_CHUNK (R119, R120). -/
def execProgChunk (m : Nat) (s : State) : Res := ronno m (pickOp 0x11) runProgChunk s

/-! ## Epoch requests (R121, R122, R187, R192, R195, R212) -/

/-- The conditions of R121 in order, after the start grid of R195 and an empty mask: a code. -/
def State.runCheck (s : State) (mask start : Nat) : Nat :=
  let qs := seqsOf mask
  if mask = 0 ∨ start % s.cfg.nSlice ≠ 0 then rBadArg
  else if !s.clk.rackSynced then rNotSynced
  else if qs.any (fun q => (s.seqAt q).busy) then rBusy
  else if qs.any (fun q =>
      let x := s.seqAt q
      partPens (s.partAt q).words = 0 || !(s.partAt q).live || (x.load != .armed && x.imgLen.getD x.activeBank 0 == 0)) then rNotArmed
  else if start < s.clk.rackTime + 16000 then rLate
  else 0

/-- The swap of R192 on an idle sequencer with an armed load bank. -/
def Sequencer.swapBanks (q : Sequencer) : Sequencer :=
  { q with activeBank := 1 - q.activeBank, load := .empty, imgLen := q.imgLen.set q.activeBank 0 }

/-- Add a RELEASE to a sequencer's run queue, after the swap. -/
def State.queueRelease (s : State) (r : Req) (q : Nat) (start : Nat) (epoch : BitVec 8) (stopAt : Option Nat) (snap : Nat) : State :=
  s.onSeq q fun x =>
    let x := if x.load = .armed then x.swapBanks else x
    { x with runq := x.runq ++ [.release start epoch stopAt snap r.mbox r.tag] }

/-- The run queue that a request would add to is full: the control core stalls and keeps the request until the sequencer takes an entry (R129,
R187). -/
def State.stall (s : State) : State := s.onKol fun k => { k with stalled := true, stalls := k.stalls + 1 }

/-- An accepted EPOCH_RUN or RUN_PREFIX waits for its release, which completes it; it holds its own mailbox only (R116, R187;
notes/assumptions/13). -/
def State.queueEpoch (s : State) (r : Req) (mask start : Nat) (stopAt : Option Nat) (snap : Nat) : State :=
  let qs := seqsOf mask
  if qs.any (fun q => decide (8 ≤ (s.seqAt q).runq.length)) then s.stall
  else
    let epoch : BitVec 8 := (r.arg 1 >>> 8).setWidth 8
    let s := qs.foldl (fun s q => s.queueRelease r q start epoch stopAt snap) s
    s.onKol fun k =>
      { k with held := none, waiting := k.waiting ++ [r]
               epochs := k.epochs ++ [{ mbox := r.mbox, tag := r.tag, start := start, epoch := epoch, released := false, mute := false
                                        parts := qs.map fun q => ⟨q, false, false, 0, 0⟩ }] }

/-- The run entries of an accepted EPOCH_RUN or RUN_PREFIX. -/
def State.queueRun (s : State) (r : Req) : State := s.queueEpoch r (field (r.arg 1) 0 8) (r.arg 2).toNat none 0
def State.queuePrefix (s : State) (r : Req) : State :=
  s.queueEpoch r (field (r.arg 1) 0 8) (r.arg 2).toNat (some (field (r.arg 3) 0 32)) (field (r.arg 4) 0 12)

/-- EPOCH_RUN. A pending halt at the epoch boundary releases no new epoch (R433). -/
def runEpochRun (r : Req) (s : State) : State :=
  let mask := field (r.arg 1) 0 8
  let start := (r.arg 2).toNat
  let code := s.maskCheck r mask
  if code ≠ 0 then s.answer r code
  else if s.aon.boundaryHalt ≠ 0 then s.answer r rHalted
  else
    let code := s.runCheck mask start
    if code ≠ 0 then s.answer r code else s.queueRun r

/-- RUN_PREFIX. -/
def runRunPrefix (r : Req) (s : State) : State :=
  let mask := field (r.arg 1) 0 8
  let start := (r.arg 2).toNat
  let snap := field (r.arg 4) 0 12
  let code := s.maskCheck r mask
  if code ≠ 0 then s.answer r code
  else if snap % 8 ≠ 0 ∨ 0x1000 < snap + 256 * (seqsOf mask).length then s.answer r rBadRange
  else if s.aon.boundaryHalt ≠ 0 then s.answer r rHalted
  else
    let code := s.runCheck mask start
    if code ≠ 0 then s.answer r code else s.queuePrefix r

/-- EPOCH_RUN or RUN_PREFIX completes at the release of its epoch; the control core's stall ends with the entry taken (R116, R129, R187). -/
def State.answerRelease (s : State) (start mbox : Nat) (tag : BitVec 16) : State :=
  let s := s.onKol fun k =>
    { k with stalled := false
             epochs := k.epochs.map fun e => if e.mbox = mbox ∧ e.tag = tag ∧ e.start = start then { e with released := true } else e }
  match s.kol.waiting.find? fun r => r.mbox == mbox && r.tag == tag with
  | some r => s.complete r 0 0 (word start) 0 0
  | none => s

/-- Does a sequencer still hold the RELEASE entry of a request? -/
def State.releaseQueued (s : State) (start mbox : Nat) (tag : BitVec 16) : Bool :=
  s.seqs.any fun q => q.runq.any fun e => match e with
    | .release st _ _ _ m t => st == start && m == mbox && t == tag
    | _ => false

/-- Parts of a request that end ABORTED before their release: those that `which` picks (R187, R415). -/
def EpochReq.discard (x : EpochReq) (which : Nat → Bool) (detail : Nat) (time : Nat) : EpochReq :=
  { x with parts := x.parts.map fun p =>
      if which p.seq && !p.done then { p with done := true, aborted := true, detail := BitVec.ofNat 32 detail, time := time } else p }

/-- A RELEASE entry whose time has not come is discarded on sequencers of its request: their parts end ABORTED, and the request completes when
no sequencer holds an entry of it (R187; notes/assumptions/13). -/
def State.discardRelease (s : State) (start mbox : Nat) (tag : BitVec 16) (which : Nat → Bool) (reason : Nat) : State :=
  let detail := reason + s.coll.logicalId.toNat * 65536
  let s := s.onKol fun k =>
    { k with stalled := false
             epochs := k.epochs.map fun x =>
               if x.mbox = mbox ∧ x.tag = tag ∧ x.start = start then x.discard which detail s.clk.rackTime else x }
  let s := if s.releaseQueued start mbox tag then s else s.answerRelease start mbox tag
  s.postEnds

/-- A sequencer takes an ABORT at once: it discards a RELEASE whose time has not come, or aborts the running epoch (R187). -/
def State.takeAbort (s : State) (q : Nat) : State :=
  let x := s.seqAt q
  match x.runq.find? RunEntry.isRelease with
  | some (.release start _ _ _ mbox tag) =>
    let s := s.onSeq q fun x => { x with runq := x.runq.filter fun e => !e.isRelease }
    s.discardRelease start mbox tag (· == q) 0x21
  | _ => if x.run.isSome then s.abortEpoch q 0x21 none else s

/-- EPOCH_ABORT. -/
def runEpochAbort (r : Req) (s : State) : State :=
  let mask := field (r.arg 1) 0 8
  let code := s.maskCheck r mask
  if code ≠ 0 then s.answer r code else ((seqsOf mask).foldl State.takeAbort s).answer r rOk

/-- EPOCH_RUN (R121). -/
def execEpochRun (m : Nat) (s : State) : Res := ronnoEntry m (pickOp 0x13) runEpochRun (fun r s => s.queueRun r) s
/-- RUN_PREFIX (R122, R212). -/
def execRunPrefix (m : Nat) (s : State) : Res := ronnoEntry m (pickOp 0x14) runRunPrefix (fun r s => s.queuePrefix r) s
/-- EPOCH_ABORT (R119, R187). -/
def execEpochAbort (m : Nat) (s : State) : Res := ronno m (pickOp 0x15) runEpochAbort s

/-! ## TABLE_LOAD and LEDGER_SET (R270, R271, R336) -/

/-- TABLE_LOAD writes one index, on every die, and the fingerprints that depend on it. An index in use answers IN_USE before an unlocked window answers
EXPERT_HELD: DESIGN CHOICE (notes/assumptions/109). -/
def runTableLoad (r : Req) (s : State) : State :=
  let t := field (r.arg 1) 0 5
  let off := field (r.arg 2) 0 12
  if (s.issuer r).any (fun d => !(partTables (s.partAt d).words).testBit t) then s.answer r rNotPermitted
  else if 0x600 < off then s.answer r rBadRange
  else if s.tableInUse t then s.answer r rInUse
  else if s.unlocked 4 then s.answer r rExpertHeld
  else
    let bs := s.dataBytes r.mbox off 2560
    let s := { s with tables := s.tables.writeBytes (2560 * t) bs }
    (s.refreshFps.fedAll (.table t bs)).answer r rOk

/-- Entries of a LEDGER_SET's data. -/
def State.ledgerData (s : State) (m off first count : Nat) : List (Nat × Entry) :=
  (List.range count).map fun k =>
    let w (j : Nat) := leNat (s.dataBytes m (off + 32 * k + 8 * j) 8)
    (first + k, ⟨w 0, w 1, w 2, w 3⟩)

/-- The entries of a LEDGER_SET are written on every die (R331), and fingerprints stand. -/
def State.writeEverywhere (s : State) (ws : List (Nat × Entry)) : State :=
  let t := (s.writeEntries ws).refreshFps
  if t.federated then ws.foldl (fun t x => t.fedAll (.ledger x.1 (x.2.words.map (BitVec.ofNat 64)))) t else t

/-- LEDGER_SET. -/
def runLedgerSet (r : Req) (s : State) : State :=
  let first := field (r.arg 1) 0 17
  let count := field (r.arg 1) 32 8
  let off := field (r.arg 2) 0 12
  if count = 0 ∨ 128 < count then s.answer r rBadArg
  else if 0x1000 < off + 32 * count then s.answer r rBadRange
  else if (s.issuer r).any (fun d =>
      (List.range count).any fun k => !inLedger (s.partAt d).words (first + k)) then s.answer r rNotPermitted
  else if 131072 < first + count then s.answer r rBadRange
  else
    let ws := s.ledgerData r.mbox off first count
    let code := s.ledgerCheck ws
    if code ≠ 0 then s.answer r code
    else if ws.any (fun x => s.entryInUse x.1) then s.answer r rInUse
    else if s.unlocked 11 then s.answer r rExpertHeld
    else (s.writeEverywhere ws).answer r rOk

/-- TABLE_LOAD (R270, R271). -/
def execTableLoad (m : Nat) (s : State) : Res := ronno m (pickOp 0x18) runTableLoad s
/-- LEDGER_SET (R336, R337). -/
def execLedgerSet (m : Nat) (s : State) : Res := ronno m (pickOp 0x19) runLedgerSet s

/-! ## Maintenance and breaks (R119, R213, R214) -/

/-- MAINT_ENTER; the identity refresh of R369 follows. -/
def runMaintEnter (r : Req) (s : State) : State :=
  if s.anyEpoch then s.answer r rNotIdle
  else if s.aon.power ≠ .running then s.answer r rWrongState
  else ((s.onAon fun a => { a with power := .maintenance }).identityRefresh.applyIdentities).answer r rOk

/-- MAINT_LEAVE clears breaks that have not fired; loopback ends with the state that allows it (R70). -/
def runMaintLeave (r : Req) (s : State) : State :=
  if s.anyEpoch then s.answer r rNotIdle
  else if s.aon.power ≠ .maintenance ∨ s.boot.debugOpened ∨ s.aon.debug ≠ .closed then s.answer r rWrongState
  else
    let s := s.onAon fun a => { a with power := .running }
    let s := { s with seqs := s.seqs.map (fun (q : Sequencer) => { q with brk := none })
                      ports := s.ports.map (fun (p : Port) => { p with phyLpbk := false, ctl := masked p.ctl 3 }) }
    s.identityRefresh.applyIdentities.answer r rOk

/-- BREAK_SET: the sequencer keeps the break for its next release. -/
def runBreakSet (r : Req) (s : State) : State :=
  let q := field (r.arg 1) 0 3
  let kind := field (r.arg 1) 8 2
  let v := field (r.arg 2) 0 24
  let snap := field (r.arg 3) 0 12
  if s.aon.power ≠ .maintenance then s.answer r rWrongState
  else if kind = 3 ∨ (kind = 2 ∧ 128 ≤ v) then s.answer r rBadArg
  else
    let code := s.seqCheck r q
    if code ≠ 0 then s.answer r code
    else if kind ≠ 0 ∧ (snap % 8 ≠ 0 ∨ 0xF00 < snap) then s.answer r rBadRange
    else (s.onSeq q fun x => { x with brk := if kind = 0 then none else some ⟨kind == 2, v, snap⟩ }).answer r rOk

/-- The kind of a BREAK_SET; the reserved kind goes with the clearing row. -/
def pickBreak (kinds : List Nat) (_ : State) (r : Req) : Bool := r.opcode.toNat == 0x24 && kinds.contains (field (r.arg 1) 8 2)

/-- MAINT_ENTER (R119). -/
def execMaintEnter (m : Nat) (s : State) : Res := ronno m (pickOp 0x22) runMaintEnter s
/-- MAINT_LEAVE (R119, R151, R214). -/
def execMaintLeave (m : Nat) (s : State) : Res := ronno m (pickOp 0x23) runMaintLeave s
/-- BREAK_SET that clears the break (R213). -/
def execBreakClear (m : Nat) (s : State) : Res := ronno m (pickBreak [0, 3]) runBreakSet s
/-- BREAK_SET with a count (R213). -/
def execBreakCount (m : Nat) (s : State) : Res := ronno m (pickBreak [1]) runBreakSet s
/-- BREAK_SET with a tag (R213). -/
def execBreakTag (m : Nat) (s : State) : Res := ronno m (pickBreak [2]) runBreakSet s

end Sys2Proof.Machine
end

