-- ==== Sys2Proof/Machine/Control.lean ====
section
/-! DEFINITION. The control core's register windows and halts, the halt at the epoch boundary, the thermal sensors, and the patrol of block
SRAM (04 R128; 17 R421-R423, R433, R434). -/

namespace Sys2Proof.Machine

/-! ## Register windows (R128) -/

/-- Windows that the spill area holds. -/
def spillRoom : Nat := 32

/-- Does the control core execute? -/
def Kolate.executes (k : Kolate) : Bool := k.running && !k.fwHalted && !k.stalled

/-- FIRMWARE_HALT (R128). -/
def execFirmwareHalt (reason : FwHalt) (s : State) : Res :=
  whenTrue s.coreRuns s (s.firmwareHalt (fwHaltCode reason))

/-- WATCHDOG (R128): 1,000,000 CK_C cycles without service. A stall never leads to a firmware halt (R129). -/
def execWatchdog (s : State) : Res :=
  if s.kol.executes then
    let s := s.untilLocal (s.kol.wdogSince + 2000000)
    whenTrue s.kol.executes s (s.firmwareHalt 5)
  else .next s

/-- WINDOW_OVERFLOW_TRAP (R128): a call with all seven ring windows live spills the oldest and is retried; a full spill area, or a trap
while W7 is current, stops the core. -/
def execWindowOverflowTrap (s : State) : Res :=
  let k := s.kol
  if k.executes then
    if k.inTrap then .next (s.firmwareHalt 1)
    else if spillRoom ≤ k.spill.length then .next (s.firmwareHalt 2)
    else
      let n := (k.cwp + 1) % 7
      let (cause, s) := s.fresh
      .next (s.onKol fun k => { k with spill := k.spill ++ [k.windows.getD n []], cwp := n, live := 7, trapCause := cause })
  else .next s

/-- WINDOW_UNDERFLOW_TRAP (R128): a return to a spilled window refills it; the calls and returns of Kolate are no commands, so the trap
itself says which windows are live (notes/assumptions/34). -/
def execWindowUnderflowTrap (s : State) : Res :=
  let k := s.kol
  if k.executes then
    if k.inTrap then .next (s.firmwareHalt 1)
    else
      match k.spill.getLast? with
      | none => .next s
      | some w =>
        let n := (k.cwp + 6) % 7
        let (cause, s) := s.fresh
        .next (s.onKol fun k => { k with spill := k.spill.dropLast, windows := k.windows.set n w, cwp := n, live := 1, trapCause := cause })
  else .next s

/-- EPOCH_BOUNDARY_HALT (R433). -/
def execEpochBoundaryHalt (s : State) : Res := .next s.takeBoundaryHalt

/-! ## Thermal sensors (R434, R439) -/

/-- THERM_STATUS follows the reported readings. -/
def State.reading (s : State) (sensor : BitVec 4) (v : BitVec 8) : State :=
  s.onGln fun g => if g.thermHot ≤ v ∨ g.thermSensor = sensor then { g with thermHot := v, thermSensor := sensor } else g

/-- A reading against THERM_WARN_C: a crossing raises the alarm and posts the event; a reading below it ends the crossing. -/
def State.thermWarned (s : State) (sensor : BitVec 4) (v : BitVec 8) : State :=
  let i := sensor.toNat
  if v.toNat < field (s.gln.thermLimits) 0 8 then s.onGln fun g => { g with thermAbove := g.thermAbove &&& ~~~(BitVec.ofNat 16 (2 ^ i)) }
  else if s.gln.thermAbove.getLsbD i then s
  else ((s.onGln fun g => { g with thermAbove := g.thermAbove ||| BitVec.ofNat 16 (2 ^ i) }).warn 3).event 0x000B i none (i + v.toNat * 256)

/-- The trip: the fatal alarm THERMAL, and the halt at the epoch boundary; before the ready message the alarm only latches (R107). -/
def State.thermTrip (s : State) : State :=
  let s := s.latchFatal 0x08 none
  if s.aon.power.serves then (s.boundaryHaltAt 0x08).takeBoundaryHalt else s

/-- Are the sensors sampled: the dividers run? -/
def State.samples (s : State) : Bool := s.clk.dividers

/-- THERM_WARN (R434). -/
def execThermWarn (sensor : BitVec 4) (reading : BitVec 8) (s : State) : Res :=
  whenTrue s.samples s ((s.reading sensor reading).thermWarned sensor reading)

/-- THERMAL (R434): a reading below the trip limit is no trip. -/
def execThermal (sensor : BitVec 4) (reading : BitVec 8) (s : State) : Res :=
  if s.samples then
    let t := (s.reading sensor reading).thermWarned sensor reading
    .next (if field s.gln.thermLimits 8 8 ≤ reading.toNat then t.thermTrip else t)
  else .next s

/-! ## Patrol (R421-R423) -/

/-- Words of a patrolled memory; the spec does not state the sizes of 0x05 and 0x06. -/
def patrolWords (m : Nat) : Nat :=
  match m with
  | 1 | 2 => 32768
  | 3 => 655360
  | 4 => 10240
  | 7 => 65536
  | 8 => 32768
  | 9 => 16384
  | 10 => 25088
  | _ => Config.memWords m

/-- A number kept for a memory. -/
def ofMem (l : List (Nat × Nat)) (m : Nat) : Option Nat := (l.find? fun x => x.1 == m).map Prod.snd

/-- The word address that a memory's patrol reads next. -/
def Gleaner.patrolNext (g : Gleaner) (m : Nat) : Nat := (ofMem g.patrolAddr m).getD 0

/-- The local time from which a memory's patrol may read again: 64 CK_V cycles after its last read (R422). -/
def Gleaner.patrolDue (g : Gleaner) (m : Nat) : Nat := ((ofMem g.patrolAt m).map (· + 64)).getD 0

/-- PATROL_READ (R422): a memory's patrol reads its next word. -/
def execPatrolRead (mem : BitVec 8) (find : PatrolFind) (s : State) : Res :=
  let m := mem.toNat
  if s.samples ∧ 1 ≤ m ∧ m ≤ 10 then
    let a := s.gln.patrolNext m
    let next := if a + 1 = patrolWords m then 0 else a + 1
    let s := s.untilLocal (s.gln.patrolDue m)
    let s := s.onGln fun g => { g with patrolAddr := setPair g.patrolAddr m next, patrolAt := setPair g.patrolAt m s.clk.localTime }
    .next (s.foundWord { mem := mem, inst := 0, word := BitVec.ofNat 40 a } find)
  else .next s

end Sys2Proof.Machine
end

