-- ==== Sys2Proof/Machine/Flags.lean ====
section
/-! DEFINITION. The status record of a command: saturated and flushed counts, exception flags, first special element (09). -/

namespace Sys2Proof

/-- Saturated, flushed, exceptions and first special of a list of outputs; `lin` gives an output's linear index. -/
def statusRec (strict : Bool) (lin : OutEl → Nat) (exc : Fl) (outs : List OutEl) : Machine.W4 :=
  let sat := (outs.filter fun o => o.e.fl.sat).length
  let flush := (outs.filter fun o => o.e.fl.flush).length
  let fl := outs.foldl (fun f o => f.or o.e.fl) exc
  let first := outs.foldl (fun (m : Option (Nat × Bool)) o =>
    match o.special with
    | none => m
    | some inf =>
      match m with
      | none => some (lin o, inf)
      | some x => if lin o < x.1 then some (lin o, inf) else m) none
  let (w2, w3) := match first with
    | some (l, inf) => (l % 2 ^ 64, l / 2 ^ 64 % 65536 + 65536 + (if inf then 131072 else 0))
    | none => (0, 0)
  ⟨BitVec.ofNat 64 (min sat (2 ^ 40 - 1) + (if strict then fl.exc * 2 ^ 40 else 0)), BitVec.ofNat 64 (min flush (2 ^ 40 - 1)),
    BitVec.ofNat 64 w2, BitVec.ofNat 64 w3⟩

/-- The linear index that the record takes of an output (R172, R237). -/
def Cmd.outLin (c : Cmd) (o : OutEl) : Nat := (c.outL o.idx o.row % 2 ^ 80).toNat

end Sys2Proof
end

