-- ==== Sys2Proof/Machine/Verifier.lean ====
section
/-! DEFINITION. The loader verifier's checks on one bundle (06-14, R152-R175, R204, R219-R234, R242-R251, R280-R301, R311-R320, R344-R347,
R387): each answers whether the bundle breaks it. -/

namespace Sys2Proof

/-- Verifier reason codes (table "Verifier reason codes"). -/
def vReservedEnc : Nat := 0x01
def vBundleTrunc : Nat := 0x02
def vNoEnd : Nat := 0x03
def vTrailing : Nat := 0x04
def vProtPort : Nat := 0x23
def vProtLedger : Nat := 0x21
def vProtKey : Nat := 0x24
def vTableSlot : Nat := 0x25
def vNoCores : Nat := 0x26
def vShape : Nat := 0x0C
def vSiloStage : Nat := 0x30
def vPredRace : Nat := 0x31
def vWaitUnmet : Nat := 0x32
def vCoreRace : Nat := 0x33
def vSlotClash : Nat := 0x40
def vSliceBound : Nat := 0x80

/-! ## RESERVED_ENC (R17, R159) -/

/-- An IN slot with a reserved encoding or an unused field that is set. -/
def InSlot.reservedSet (s : InSlot) : Bool :=
  s.rsvd || decide (2 < s.src) || (s.src != 1 && s.dsel != 0) || (s.src != 2 && (s.sheaf != 0 || s.sfmt != 0))
    || (s.src == 2 && decide (14 < s.sfmt))
    || (match s.wkind with
        | 0 => s.windex != 0 || s.wvalue != 0
        | 1 => decide (63 < s.windex) || decide (1 < s.wvalue)
        | 2 => decide (31 < s.windex)
        | _ => false)

/-- Operations of one operand: PASS, ABS, NEG, SQUARE, NOT (R162). -/
def unaryOp (op : Nat) : Bool := op == 0 || op == 7 || op == 8 || op == 9 || op == 13

def AluSlot.reservedSet (s : AluSlot) : Bool :=
  s.rsvd || decide (0x0F < s.op) || s.rnd == 3 || (s.rnd != 2 && s.seed != 0) || (unaryOp s.op && s.swap)

def FuncSlot.reservedSet (s : FuncSlot) (raw : Nat) : Bool :=
  bitsOf raw 31 13 != 0 || decide (4 < s.fn) || s.pre == 3 || (s.fn != 4 && (s.tslot != 0 || s.tidx != 0))

/-- Does the operation or its predicate read COND (R293-R295)? -/
def WinSlot.readsCond (s : WinSlot) : Bool := s.op == 0x0A || s.op == 0x0B || s.pset

def WinSlot.reservedSet (s : WinSlot) (raw : Nat) : Bool :=
  bitsOf raw 31 30 != 0 || decide (0x0B < s.op) || s.af == 3 || (s.op != 6 && s.k != 0)
    || (if s.readsCond then decide (5 < s.cond) else s.cond != 0) || (!s.pset && (s.pidx != 0 || s.pcomb))

/-- CONV with a reserved encoding; the coarse scale is positive, finite and normal (R220). -/
def ConvSlot.reservedSet (s : ConvSlot) (raw : Nat) : Bool :=
  bitsOf raw 31 24 != 0 || s.rnd == 3 || s.scale == 3 || (s.rnd != 2 && s.seed != 0)
    || ((s.scale == 1 || s.scale == 2) && !posNormalFp32 s.imm)

def PermSlot.reservedSet (s : PermSlot) : Bool :=
  s.rsvd || decide (3 < s.op) || (s.op != 1 && s.op != 2 && s.idesc != 0) || (s.op == 3 && (s.dimP != 0 || s.dimQ != 0))
    || (if s.op = 3 then decide (24 < s.pattern) else s.pattern != 0)

def OutSlot.reservedSet (s : OutSlot) : Bool :=
  s.rsvd || decide (3 < s.dst) || (s.dst != 1 && s.dsel != 0) || (s.dst != 2 && s.sheaf != 0)
    || (if s.dst = 2 ∨ s.dst = 3 then decide (14 < s.sfmt) else s.sfmt != 0)
    || (s.dst != 3 && (s.pkind != 0 || s.chain != 0)) || s.pkind == 3 || (s.pkind == 2 && s.chain != 0)
    || (match s.skind with
        | 0 => s.sindex != 0 || s.svalue != 0
        | 3 => decide (31 < s.sindex)
        | _ => s.svalue != 0)

/-- A descriptor with reserved bits, format or target (R163, R164); ADDR [39:17] and the strides of a channel, and BSZ with no companion
(R159). BSZ on a context has a reason of its own (R344). -/
def Desc.reservedSet (d : Desc) : Bool :=
  d.rsvd || decide (14 < d.fmt) || d.target == 3 || (d.target == 2 && (d.start != 0 || d.stride.any (· != 0)))
    || (d.target != 1 && d.scl == 0 && d.bsz)

namespace Cmd

def rawAt (c : Cmd) (i : Nat) : Nat := ((c.raw[i]?).join).getD 0

/-- The chain that a prologue command names, if it names one (R314, R316). -/
def namedChain (c : Cmd) (e : Env) : Option Chain :=
  c.out.bind fun o => if o.dst = 3 ∧ o.pkind ≠ 2 then some (Chain.ofMem e.chains e.seq o.chain) else none

/-- The ALU's compute format is integer: INT32, or NATIVE on an integer format (R162, R242). -/
def intCf (c : Cmd) (a : AluSlot) : Bool := a.cf == 2 || (a.cf == 3 && (c.inFmt c.inA).isInt)

/-- Operations that round nowhere: PASS, MIN, MAX, ABS, NEG (R247). -/
def exactOp (op : Nat) : Bool := op == 0 || op == 5 || op == 6 || op == 7 || op == 8

/-- RND of an operation that rounds nowhere is unused (R159, R247), where neither STRICT_ROUND (R158) nor the integer formats' ALU_FORM
(R221) names it. -/
def rndUnused (c : Cmd) (a : AluSlot) : Bool := a.rnd != 0 && exactOp a.op && !c.intCf a && !c.strict

/-- RESERVED_ENC but for the header (R159, R220, R300, R314, R344); a SYNC or an END divides no work and has no numeric mode. -/
def badEncoding (c : Cmd) (e : Env) : Bool :=
  c.inA.any InSlot.reservedSet || c.inB.any InSlot.reservedSet || c.alu.any AluSlot.reservedSet
    || c.func.any (fun s => s.reservedSet (c.rawAt 3)) || c.conv.any (fun s => s.reservedSet (c.rawAt 4))
    || c.win.any (fun s => s.reservedSet (c.rawAt 5)) || c.perm.any PermSlot.reservedSet || c.out.any OutSlot.reservedSet
    || c.descs.any Desc.reservedSet || (c.namedChain e).any (fun x => !x.valid)
    || (c.descOut.any fun d => d.target == 1 && d.start != 0) || c.alu.any c.rndUnused
    || ((c.hdr.kind == 1 || c.hdr.kind == 3) && (c.hdr.split != 0 || c.hdr.mode != 0))

/-! ## KIND_FORM -/

/-- The UNPACK stage of a prologue command's chain (R318). -/
def unpack (c : Cmd) (e : Env) : Option Stage := (c.namedChain e).bind fun x => x.pro.head?.filter fun s => s.op == 1

/-- A context descriptor names entries and formats that it may (R344). -/
def ctxKindBad (e : Env) (d : Desc) : Bool :=
  d.target == 1 && ((List.range (max 1 (d.sizeAt 2))).any (fun k => (e.entry (d.entry + k)).kind != 1)
    || !(d.fmt == 0 || d.fmt == 2 || d.fmt == 3))

/-- A re-tier: IN_A names entry a + i2, OUT appends to its LOWER (R347). -/
def retier (c : Cmd) (e : Env) : Bool :=
  match c.descA, c.descOut with
  | some a, some o => a.target == 1 && o.target == 1 && a.sizeAt 2 == o.sizeAt 2
      && (List.range (a.sizeAt 2)).all (fun k =>
        (e.entry (a.entry + k)).lower == o.entry + k && (e.entry (a.entry + k)).lower != a.entry + k)
  | _, _ => false

/-- KIND_FORM of a COMPUTE: R167, R301, R311, R318, R320, R344, R347. `prev` are the earlier commands of the program. -/
def computeForm (c : Cmd) (e : Env) (prev : List Cmd) : Bool :=
  let net (d : Option Desc) := d.any fun d => d.target == 2
  let named := [c.descA, c.descB, c.noteDesc, c.indexDesc] ++ c.descs.map c.companion
  let indexed := if c.permIs 1 then c.descA else if c.permIs 2 then c.descOut else none
  let stationary (x : Cmd) := x.out.any fun o => o.dst == 3 && o.pkind == 1
  named.any net
    || ((c.permIs 1 || c.permIs 2) && indexed.all (fun d => d.target != 0))
    || (c.permIs 1 && c.hdr.split == 0) || (c.permIs 2 && c.hdr.split != 4)
    || (c.dst == 3 && e.owner != e.seq)
    || ((c.unpack e).isSome && !(c.out.any fun o => o.sfmt == 0x0A || o.sfmt == 0x0B || o.sfmt == 0x0C))
    || (c.dst == 3 && !stationary c && !prev.any stationary)
    || (stationary c && (c.hdr.pen || c.zeroLen))
    || c.descs.any (ctxKindBad e)
    || (c.retier e && (c.hdr.slots != 0x81 || c.descs.any fun d => d.target == 1 && d.fmt != 0))

/-- KIND_FORM (R156). -/
def badKind (c : Cmd) (e : Env) (prev : List Cmd) : Bool :=
  match c.hdr.kind with
  | 0 => c.computeForm e prev
  | 2 => c.hdr.slots != 0 || c.hdr.ndesc != 0 || c.hdr.pen || c.hdr.split != 0 || c.hdr.mode != 0
  | _ => c.hdr.ndesc != 0 || c.alu.isSome || c.func.isSome || c.conv.isSome || c.win.isSome || c.perm.isSome || c.hasA || c.hasB
          || c.dst != 0

/-- SWAP_POS: a SWAP that END does not follow directly (R193). -/
def badSwap (c : Cmd) (rest : List Cmd) : Bool := c.hdr.kind == 2 && !(rest.head?.any fun x => x.hdr.kind == 3)

/-- NO_EFFECT (R157). -/
def noEffect (c : Cmd) : Bool := c.dst == 0 && !(c.win.any WinSlot.pset) && !(c.conv.any fun v => v.note != 0)

/-! ## ALU_FORM -/

/-- Operations that NATIVE allows (table "ALU operations"). -/
def nativeOp (op : Nat) : Bool := !(op == 3 || op == 4 || op == 9 || op == 14 || op == 15)

/-- ALU slot: R162, R221, R242, R249. -/
def aluBad (c : Cmd) (a : AluSlot) : Bool :=
  let fa := c.inFmt c.inA
  let fmts := fa :: (if c.hasB then [c.inFmt c.inB] else []) ++ c.outFmt.toList
  let scaled (d : Option Desc) := d.any fun d => d.scl != 0
  (unaryOp a.op && (a.bsrc || c.hasB))
    || (!unaryOp a.op && !a.bsrc && !c.hasB)
    || (a.op == 4 && a.bsrc)
    || (decide (10 ≤ a.op) && !c.intCf a)
    || (a.cf == 3 && (!nativeOp a.op || c.conv.isSome || c.win.isSome || c.func.isSome || fmts.any (· != fa)
          || a.imm / 2 ^ fa.bits != 0))
    || (c.intCf a && a.rnd != 0)
    || (decide (2 ≤ a.cf) && (scaled c.descA || scaled c.descB))
    || (c.win.any fun w => w.rmask != 0 && (a.op == 3 || a.op == 4 || a.op == 9) && a.cf != w.af)

/-- The normalising form of SOFTMAX. -/
def isNorm (w : WinSlot) : Bool := w.op == 7 && w.rmask == 0

/-- WIN slot: accumulator, second operand, FUNC, CONV and PSET_EN (table "WIN operations and their limits"). -/
def winBad (c : Cmd) (w : WinSlot) : Bool :=
  let ranks := w.op == 4 || w.op == 5 || w.op == 6
  (w.op == 7 && w.af != 1) || ((w.op == 8 || w.op == 9) && w.af == 2)
    || ((w.op == 0x0B || isNorm w) && (!c.hasB || c.alu.isSome))
    || (w.op == 0x0A && c.hasB && c.alu.isSome)
    || (ranks && (c.func.isSome || c.conv.isSome))
    || ((ranks || w.op == 8 || w.op == 0x0B || isNorm w) && w.pset)

/-- ALU_FORM (R160, R162, R221, R242, R249, R280). -/
def badAlu (c : Cmd) : Bool :=
  if !c.hasA then
    c.hasB || c.perm.isSome || c.alu.isSome || c.win.isSome || c.func.isSome || c.conv.isSome || !(c.isSend && c.zeroLen)
  else c.alu.any c.aluBad || c.win.any c.winBad

/-- STRICT_ROUND (R158). -/
def badStrict (c : Cmd) : Bool := c.strict && (c.alu.any (fun a => a.rnd != 0) || c.conv.any fun v => v.rnd != 0)

/-- Does WIN read IMM (table "WIN operations and their limits")? -/
def winReadsImm (c : Cmd) (w : WinSlot) : Bool :=
  match w.op with
  | 0 | 1 | 2 | 3 | 9 => w.pset
  | 7 => w.rmask != 0 && w.pset
  | 0x0A => !c.hasB
  | 0x0B => true
  | _ => false

/-- OPERAND_UNUSED (R160, R280). -/
def badUnused (c : Cmd) : Bool :=
  let aluB := c.alu.any fun a => !a.bsrc && !unaryOp a.op
  let winB := c.win.any fun w => w.op == 0x0A || w.op == 0x0B || isNorm w
  (c.hasB && !aluB && !winB)
    || (c.alu.any fun a => a.imm != 0 && !(a.bsrc || a.op == 4))
    || (c.func.any fun f => f.imm != 0 && f.pre == 0)
    || (c.conv.any fun v => v.imm != 0 && v.scale == 0)
    || (c.win.any fun w => w.imm != 0 && !c.winReadsImm w)

/-- Descriptor numbers that the bundle's fields name (R169). -/
def namedDescs (c : Cmd) : List Nat :=
  let ins := ([c.inA, c.inB].filterMap id).filterMap fun s => if s.src = 1 then some s.dsel else none
  ins ++ (c.out.toList.filterMap fun o => if o.dst = 1 then some o.dsel else none)
    ++ (c.conv.toList.filterMap fun v => if v.note = 0 then none else some (v.note - 1))
    ++ (c.perm.toList.filterMap fun p => if p.idesc = 0 then none else some (p.idesc - 1))
    ++ (c.descs.filterMap fun d => if d.scl = 0 then none else some (d.scl - 1))

/-- DESC_COUNT (R169). -/
def badCount (c : Cmd) : Bool :=
  c.namedDescs.any (fun x => decide (c.hdr.ndesc ≤ x)) || (List.range c.hdr.ndesc).any fun i => !c.namedDescs.contains i

/-! ## SHAPE_MISMATCH -/

/-- Every core's first index on dimension 0 under SPLIT on dimension 0 (R173). -/
def firsts0 (c : Cmd) (e : Env) : List Nat :=
  if c.hdr.split = 0 then (List.range e.nCores).map fun r => r * c.space.getD 0 1 / e.nCores else []

/-- Cores with a non-empty share. -/
def workers (c : Cmd) (e : Env) : List Nat := e.ranks.filter fun r => (c.share e.nCores r).count != 0

/-- The note descriptor's form (R233). -/
def noteBad (c : Cmd) (e : Env) (d : Desc) : Bool :=
  let one := c.hdr.split == 4
  let rows := if one then 1 else e.nCores
  d.target != 0 || d.fmt != 8 || d.scl != 0 || d.size != [8, rows, 1, 1] || d.strideAt 0 != 1
    || (decide (1 < rows) && decide (d.strideAt 1 < 8))
    || (if one then !(c.workers e).contains 0 else (c.workers e).length != e.nCores)

/-- WIN's limits on RMASK, N and OUT's format (R251, R280, R284, R285). -/
def winShapeBad (c : Cmd) (w : WinSlot) : Bool :=
  let n := c.redDims.foldl (fun n d => n * c.space.getD d 1) 1
  let f := c.outFmt
  ((w.op == 0x0A || w.op == 0x0B) && w.rmask != 0)
    || (w.op != 7 && decide (w.op < 0x0A) && w.rmask == 0)
    || (w.op == 6 && c.redDims.length != 1)
    || c.redDims.contains c.hdr.split
    || ((w.op == 4 || w.op == 5 || w.op == 6) && decide (2 ^ 31 < n))
    || ((w.op == 4 || w.op == 5) && f.any (· != .int32))
    || (w.op == 6 && f.any (· != cfFmt w.af))
    || (w.op == 8 && f.any fun x => !x.isFloat)
    || (c.perm.isSome && w.rmask != 0)

/-- PERM's form: R298, R300, R301. -/
def permShapeBad (c : Cmd) (e : Env) (p : PermSlot) : Bool :=
  match p.op with
  | 0 => p.dimP == p.dimQ
  | 3 => (c.firsts0 e).any fun x => x % 32 != 0
  | _ =>
    let idx := if p.op = 1 then c.descA else c.descOut
    p.dimP == 0 || p.dimQ != 0
      || (match c.indexDesc with
          | some x => x.target != 0 || x.fmt != 8 || x.scl != 0 || x.size != c.space.set 0 1
          | none => true)
      || idx.any fun d => d.addr % 512 != 0 || d.strideAt 0 != 1
            || (List.range 3).any fun k => decide (d.strideAt (k + 1) * (d.width : Int) % 4096 ≠ 0)

/-- A context descriptor's shape (R344). -/
def ctxShapeBad (e : Env) (d : Desc) : Bool :=
  let x := e.entry d.entry
  d.target == 1 && (d.sizeAt 0 != x.row || d.sizeAt 3 != 1 || d.stride.any (· != 0)
    || (List.range (d.sizeAt 2)).any fun k => (e.entry (d.entry + k)).tier != x.tier || (e.entry (d.entry + k)).rowl != x.rowl)

/-- SHAPE_MISMATCH (R171, R233, R251, R280, R297-R301, R318, R344, R387). -/
def badShape (c : Cmd) (e : Env) : Bool :=
  let s := c.space
  (c.descA.any fun d => d.size != s) || (c.descB.any fun d => d.size != s) || (c.descOut.any fun d => d.size != c.outShape)
    || c.win.any c.winShapeBad || c.perm.any (c.permShapeBad e) || c.noteDesc.any (c.noteBad e) || c.descs.any (ctxShapeBad e)
    || (c.descOut.any fun d => d.target == 2 && (e.entry d.entry).kind == 2
          && (d.count != (e.entry d.entry).count || d.fmt != (e.entry d.entry).efmt))
    || (match c.unpack e with
        | some st =>
          let b := if st.bsz then 16 else 32
          (e.ranks.any fun r => decide (4096 * b < (c.share e.nCores r).count)) || (c.firsts0 e).any fun x => x % b != 0
        | none => false)

/-! ## BUSHEL_SHAPE -/

/-- A move of fine scales: only IN_A, OUT and optionally PERM, both in one format (R219). -/
def moves (c : Cmd) : Bool := (c.hdr.slots == 0x81 || c.hdr.slots == 0xC1) && c.descA.isSome && c.outFmt == some (c.inFmt c.inA)

/-- A scaled descriptor and its companion (R168, R229). -/
def companionBad (c : Cmd) (d : Desc) : Bool :=
  if d.scl = 0 then false
  else
    match c.companion d with
    | some k => d.fmt == 0 || d.fmt == 1 || d.fmt == 8 || k.target != 0 || !k.format.isScale || k.scl != 0
        || k.size != d.size.set 0 ((d.sizeAt 0 + d.bushel - 1) / d.bushel)
    | none => true

/-- BUSHEL_SHAPE (R161, R168, R170, R219, R229, R232, R234, R297, R301, R344). -/
def badBushel (c : Cmd) (e : Env) : Bool :=
  let scaled := c.conv.any fun v => v.scale == 2
  let comps := c.descs.filterMap fun d => if d.scl = 0 then none else some (d.scl - 1)
  let isScale (f : Nat) := f == 13 || f == 14
  let outScl := c.descOut.any fun d => d.scl != 0
  let moved := c.perm.any fun p => p.op == 1 || p.op == 2 || (p.op == 0 && (p.dimP == 0 || p.dimQ == 0))
  ([c.inA, c.inB].any fun s => s.any fun s => s.src == 2 && isScale s.sfmt)
    || (c.out.any fun o => (o.dst == 2 && isScale o.sfmt) || (o.dst == 3 && isScale o.sfmt && !c.moves))
    || (c.dst == 0 && c.conv.any fun v => v.scale != 0)
    || c.descs.any c.companionBad
    || ((List.range c.descs.length).zip c.descs).any (fun (i, d) => isScale d.fmt && !comps.contains i
          && !(c.moves && ((c.inA.any fun s => s.dsel == i) || c.out.any fun o => o.dst == 1 && o.dsel == i)))
    || (outScl && !scaled)
    || (scaled && (!outScl || (match c.descOut with
          | some d => c.space.getD 0 1 % d.bushel != 0 || (c.firsts0 e).any fun x => x % d.bushel != 0
          | none => true)))
    || (moved && (outScl || scaled))
    || (c.permIs 1 && c.descA.any fun d => d.scl != 0)
    || (c.descs.any fun d => d.target == 1 && (d.scl != 0 || d.bsz))
    || (c.isAppend && c.conv.any fun v => v.scale != 0)
    || ((c.descs.any fun d => d.target == 1) && (c.firsts0 e).any fun x => x % 32 != 0)

/-! ## SHEAF_COUNT to IN_OVERLAP -/

/-- SHEAF_COUNT (R170). -/
def badSheaf (c : Cmd) (e : Env) : Bool :=
  let ins := ([c.inA, c.inB].filterMap id).filter fun s => s.src == 2
  (c.workers e).any fun r =>
    let b := c.share e.nCores r
    ins.any (fun s => b.count != sheafCount s.sfmt) || c.out.any fun o => o.dst == 2 && (c.outBox b).count != sheafCount o.sfmt

/-- SPLIT_WRITE (R173). -/
def badSplit (c : Cmd) : Bool := c.hdr.split == 5 && c.dst == 1

/-- CELL_SPLIT (R174): a share's elements are those that its cells carry, the outputs of a reduction (notes/assumptions/90). -/
def badCells (c : Cmd) (e : Env) : Bool :=
  match c.descOut with
  | some d => d.target == 2
      && ((c.workers e).dropLast.any fun r => (c.outBox (c.share e.nCores r)).count * d.width % 1792 != 0)
  | none => false

/-- The least and the greatest bit address, exclusive, of a descriptor; none when a size is 0. -/
def reachOf (d : Desc) : Option (Int × Int) :=
  if d.size.any (· == 0) then none
  else
    let ends := (d.size.zip d.stride).foldl (fun (a : Int × Int) x =>
      let m := ((x.1 : Int) - 1) * x.2
      (a.1 + min 0 m, a.2 + max 0 m)) (0, 0)
    some ((d.addr : Int) * 8 + ends.1 * d.width, (d.addr : Int) * 8 + ends.2 * d.width + d.width)

/-- ADDR_RANGE (R165); rows found from data are checked as they issue (R303). -/
def badAddr (c : Cmd) : Bool :=
  c.fixedDescs.any fun d => (reachOf d).any fun r => decide (r.1 < 0 ∨ 2 ^ 43 < r.2)

/-! ### OUT_ALIAS -/

/-- Do index differences other than zero, each below its size, reach a bit offset? Dimensions are (size, stride). -/
def reachesBy : List (Nat × Int) → Int → Bool → Bool
  | [], x, nz => x == 0 && nz
  | (n, s) :: l, x, nz =>
    if ((n, s) :: l).foldl (fun m d => m + (d.1 - 1) * d.2.natAbs) 0 < x.natAbs then false
    else
      match l with
      | [] =>
        if s = 0 then x == 0 && (nz || decide (1 < n))
        else decide (x % s = 0) && decide ((x / s).natAbs < n) && (nz || x != 0)
      | _ => (List.range (2 * n - 1)).any fun k => let k : Int := (k : Int) - ((n : Int) - 1); reachesBy l (x - k * s) (nz || k != 0)

/-- Insert a dimension by the size of its stride. -/
def dimInsert (x : Nat × Int) : List (Nat × Int) → List (Nat × Int)
  | [] => [x]
  | y :: l => if x.2.natAbs ≤ y.2.natAbs then x :: y :: l else y :: dimInsert x l

/-- Every stride steps over all that the smaller ones reach, so no two index tuples meet. -/
def strided : List (Nat × Int) → Nat → Bool
  | [], _ => true
  | (n, s) :: l, m => decide (m < s.natAbs) && strided l (m + (n - 1) * s.natAbs)

/-- Do two distinct index tuples reach one bit address (R166)? -/
def aliases (d : Desc) : Bool :=
  let ds := (d.size.zip d.stride).filter fun x => x.1 != 1
  if ds.any (fun x => x.1 == 0) then false
  else
    let s := ds.foldl (fun l x => dimInsert x l) []
    !strided s 0 && reachesBy s.reverse 0 false

/-- Scratchpad descriptors that the command writes: OUT, its companion and the scale note (R199). -/
def writeDescs (c : Cmd) : List Desc :=
  let o := c.descOut.filter fun d => d.target == 0
  o.toList ++ (c.descOut.bind c.companion).toList ++ c.noteDesc.toList

/-- OUT_ALIAS (R166). -/
def badAlias (c : Cmd) : Bool := c.writeDescs.any aliases

/-! ### IN_OVERLAP -/

/-- Bytes of a bit range. -/
def byteSpan (r : Int × Int) : Int × Int := (r.1 / 8, (r.2 + 7) / 8)

/-- Add a range to a list of disjoint ranges, the highest first. -/
def spanAdd (r : Int × Int) : List (Int × Int) → List (Int × Int)
  | [] => [r]
  | x :: l =>
    if x.2 < r.1 then r :: x :: l
    else if r.2 < x.1 then x :: spanAdd r l
    else spanAdd (min r.1 x.1, max r.2 x.2) l

/-- A list of ranges as disjoint ranges. -/
def spanUnion (l : List (Int × Int)) : List (Int × Int) := l.foldl (fun m r => if r.1 < r.2 then spanAdd r m else m) []

/-- Do two lists of disjoint ranges, the highest first, share a byte? The number bounds the steps. -/
def spansShare : Nat → List (Int × Int) → List (Int × Int) → Bool
  | 0, _, _ => false
  | n + 1, a :: l, b :: m =>
    if a.1 < b.2 && b.1 < a.2 then true
    else if b.1 < a.1 then spansShare n l (b :: m) else spansShare n (a :: l) m
  | _ + 1, _, _ => false

/-- Do two lists of disjoint ranges share a byte? -/
def spansTouch (a b : List (Int × Int)) : Bool := spansShare (a.length + b.length) a b

/-- Bytes that a descriptor reaches. -/
def bytesOf (d : Desc) : List (Int × Int) := spanUnion (d.spans.map byteSpan)

/-- Scratchpad descriptors that the command reads (R175), each with whether it is an input bit-identical with OUT or such an input's
companion. -/
def readDescs (c : Cmd) : List (Desc × Bool) :=
  let input (d : Option Desc) :=
    let same := d.any fun d => c.descOut.any fun o => o.raw == d.raw
    ((d.filter fun d => d.target == 0).toList ++ (d.bind c.companion).toList).map fun x => (x, same)
  input c.descA ++ input c.descB ++ c.indexDesc.toList.map fun x => (x, false)

/-- Pairs of a list, each with a later element. -/
def pairsAny {α : Type} (p : α → α → Bool) : List α → Bool
  | [] => false
  | x :: l => l.any (p x) || pairsAny p l

/-- Context entries that a descriptor names. -/
def ctxEntries (d : Option Desc) : List (Nat × Nat) := match d with | some d => if d.target = 1 then d.entries else [] | none => []

/-- IN_OVERLAP (R175, R344): an input may be OUT itself, with its companion, where each output depends on the input at its own index.
A gathered or scattered descriptor reaches the bytes of its own sizes and strides (notes/assumptions/90). -/
def badOverlap (c : Cmd) : Bool :=
  let same := c.perm.isNone && !c.reduces
  let meet (a b : Desc) := spansTouch (bytesOf a) (bytesOf b)
  let ws := c.writeDescs
  let entriesMeet (a b : List (Nat × Nat)) := a.any fun x => b.any fun y => decide (x.1 < y.1 + y.2 ∧ y.1 < x.1 + x.2)
  pairsAny meet ws
    || (ws.any fun w => c.readDescs.any fun r => !(same && r.2 && r.1.raw == w.raw) && meet w r.1)
    || entriesMeet (ctxEntries c.descA ++ ctxEntries c.descB) (ctxEntries c.descOut)

/-- PRED_NET (R177). -/
def badPredNet (c : Cmd) : Bool := c.hdr.pen && c.isSend

/-! ## Protection (R134) -/

/-- PROT_WINDOW: lines of plain streams, and of the regions of named contexts. -/
def badWindow (c : Cmd) (e : Env) : Bool :=
  let ws := partWindows e.part
  (c.fixedDescs.any fun d => d.spans.any fun r => !linesCovered ws (lineRange r))
    || (c.descs.any fun d => d.target == 1 && (List.range (d.sizeAt 2)).any fun k =>
          (Machine.entryLines e.ledger (d.entry + k)).any fun r => !linesCovered ws r)

/-- PROT_LEDGER: entries in the domain's range, contexts with the domain's TENANT (R134, R228, R344). -/
def badLedger (c : Cmd) (e : Env) : Bool :=
  (c.entries.any fun x => !inLedger e.part x.1 || !inLedger e.part (x.1 + x.2 - 1))
    || (c.descs.any fun d => d.target == 1 && (List.range (max 1 (d.sizeAt 2))).any fun k => (e.entry (d.entry + k)).tenant != e.seq)

/-- PROT_TABLE. -/
def badTable (c : Cmd) (e : Env) : Bool := c.func.any fun f => f.fn == 4 && !(partTables e.part).testBit f.tidx

/-- Ports of the circuits that a command uses. -/
def circuitPorts (c : Cmd) (e : Env) : List Nat :=
  (Machine.cmdCircuits e.job c).flatMap fun x => x.ins ++ (if x.hasOut then [x.outPort] else [])

/-- PROT_PORT. -/
def badPort (c : Cmd) (e : Env) : Bool := (c.circuitPorts e).any fun p => !(partPorts e.part).testBit p

/-- PROT_KEY. -/
def badKey (c : Cmd) (e : Env) : Bool := partKeyGen e.part == 0 && (c.circuitPorts e).any fun p => decide (3 ≤ e.cfg.portClass p)

/-! ## The checks of one bundle in the table's order (R204) -/

/-- The first of codes 0x05 to 0x24 that a COMPUTE breaks. -/
def operandFail (e : Env) (c : Cmd) : Option Nat :=
  if c.noEffect then some 0x07 else if c.badAlu then some 0x08 else if c.badStrict then some 0x09
  else if c.badUnused then some 0x0A else if c.badCount then some 0x0B else if c.badShape e then some vShape
  else if c.badBushel e then some 0x0D else if c.badSheaf e then some 0x0E else if c.badSplit then some 0x0F
  else if c.badCells e then some 0x10 else if c.badAddr then some 0x11 else if c.badAlias then some 0x12
  else if c.badOverlap then some 0x13 else if c.badPredNet then some 0x14 else if c.badWindow e then some 0x20
  else if c.badLedger e then some vProtLedger else if c.badTable e then some 0x22 else if c.badPort e then some vProtPort
  else if c.badKey e then some vProtKey else none

/-- The first of codes 0x01 to 0x24 that a bundle breaks; `prev` and `rest` are the commands before and after. A bundle that is no
COMPUTE has no operands but its waits. -/
def staticFail (e : Env) (prev rest : List Cmd) (c : Cmd) : Option Nat :=
  if c.badEncoding e then some vReservedEnc else if c.badKind e prev then some 0x05 else if c.badSwap rest then some 0x06
  else if c.isCompute then c.operandFail e
  else if c.badLedger e then some vProtLedger
  else none

end Cmd
end Sys2Proof
end

