-- ==== Sys2Proof/Machine/Sequencing.lean ====
section
/-! DEFINITION. Epochs run: the release of an epoch (R116, R182, R201, R272, R327, R387), the release of each command and what a COMPUTE does
(R160, R176-R183, R191, R192, R201, R209), completions (R180, R202, R212, R237, R346), and lines that come late or poisoned (R61, R62, R207). -/

namespace Sys2Proof.Machine

/-- Ranks of the group whose positions lie on this die. -/
def localRanks (e : Env) : List Nat := e.ranks.filter fun k => decide ((e.pos k).die = e.die)

/-! ## Prefixes and breaks (R122, R212, R213) -/

/-- Why the next command is never released: 1 a prefix, 2 a count break, 3 a tag break; 0 when it may be. -/
def State.stopHere (s : State) (q : Nat) (r : Run) : Nat :=
  if r.stopAt.any fun n => decide (n ≤ r.released) then 1
  else
    match r.brk with
    | some b =>
      if b.tagBreak then
        (match (s.activeProgram q).drop r.nextIdx with
          | c :: _ => if !r.ended && c.hdr.ctag == b.value then 3 else 0
          | [] => 0)
      else if b.value ≤ r.released then 2 else 0
    | none => 0

/-- How an epoch that has released END stops instead of voting: under a RUN_PREFIX or a count break (R212, R213). -/
def Run.stopAtEnd (r : Run) : Nat :=
  if r.stopAt.isSome then 1
  else match r.brk with
    | some b => if b.tagBreak then 0 else 2
    | none => 0

/-- Stop the epoch when nothing is in flight and the next command is never released. -/
def State.checkStop (s : State) (q : Nat) : State :=
  match (s.seqAt q).run with
  | some r =>
    let k := if r.ended then r.stopAtEnd else s.stopHere q r
    if r.flight.isEmpty && k != 0 && !(s.seqAt q).stopped && (s.domAt q).state == .running then s.stopEpoch q k s.clk.rackTime else s
  | none => s

/-! ## The release of an epoch -/

/-- The control tree and the collective state of a domain at a release: the pending job becomes active (R387, R398, R402). -/
def DomColl.release (c : DomColl) (epoch : BitVec 8) : DomColl :=
  { c with activeJob := c.nextJob, pendingJob := none, state := .running, epoch := epoch, reason := 0, remote := false, origin := 0
           status := W4.zero, abortSent := false, childVotes := [], myVoteSent := false, rolledFrom := [], groups := [], outGroups := []
           reduce := [], cellIdx := [], counterWait := [], counterGot := [] }

/-- A sequencer at a release: flags, tallies, predicates, table slots and the halt record are cleared (R182, R211, R272). -/
def Sequencer.release (x : Sequencer) (r : Run) : Sequencer :=
  { x with flags := 0, tallies := List.replicate 32 0, preds := 0, slots := [none, none, none, none], halt := W4.zero
           lastReleased := 0xFFFF, epochNo := r.epoch, stopped := false, brk := none, run := some r }

/-- Entries whose ledger tallies a rollback restores: those that the program names and those that the job's circuits deliver into. -/
def State.runEntries (s : State) (q : Nat) : List Nat :=
  s.listedEntries ((s.activeProgram q).flatMap Cmd.entries
    ++ (s.circuitsIdx q).filterMap fun (_, c) => (c.deliversTo s.coll.logicalId.toNat).map fun e => (e, 1))

/-- The release of an epoch from its RELEASE entry. -/
def State.releaseEpoch (s : State) (q start : Nat) (epoch : BitVec 8) (stopAt : Option Nat) (snap mbox : Nat) (tag : BitVec 16) : State :=
  let brk := (s.seqAt q).brk
  let changes := (s.domAt q).pendingJob.isSome
  let s := s.onSeq q fun x => { x with runq := x.runq.filter fun y => !y.isRelease }
  let s := s.answerRelease start mbox tag
  let s := s.onDom q fun c => c.release epoch
  let s := if changes then s.refreshFps else s
  let s := (s.zeroTallies (s.activeProgram q)).clearSheaves q
  let r : Run := { Run.initial with start := start, epoch := epoch, mbox := mbox, tag := tag, stopAt := stopAt, snap := snap, brk := brk
                                    tally0 := (s.runEntries q).map fun e => (e, (s.entry e).tally), words := s.wordsOf q }
  let r := { r with timing := Timing.start (s.runEnv q r) }
  (s.onSeq q fun x => x.release r).checkStop q

/-- EPOCH_RELEASE (R116, R201): at the start time an idle sequencer takes its RELEASE entry; none is taken while a halt at the epoch
boundary is pending (R433). -/
def execEpochRelease (q : Nat) (s : State) : Res :=
  match (s.seqAt q).runq.find? RunEntry.isRelease with
  | some (.release start epoch stopAt snap mbox tag) =>
    whenTrue ((s.seqAt q).run.isNone && s.aon.power.serves && s.aon.boundaryHalt == 0 && decide ((s.domAt q).state = .idle)) s
      ((s.until start).releaseEpoch q start epoch stopAt snap mbox tag)
  | _ => .next s

/-! ## Writes and results of a COMPUTE (R160-R183) -/

/-- The scratchpad as position g reads it for sequencer q: its own stores that SP_WR has still to accept are merged (R306, R308). -/
def State.seenBy (s : State) (q g : Nat) : Mem :=
  s.agenda.foldl (fun m x => match x.act with
    | .store pos _ cells false => if x.seq = q ∧ pos = g then m.overlay cells else m
    | _ => m) s.sp

/-- What the cores of this die produce, after the coupler's prologue stages or the granary's encoding; and the writes of appends. -/
def State.coreOuts (s : State) (e : Env) (c : Cmd) : List (CoreOut × List BitWrite) :=
  (localRanks e).map fun rank =>
    let g := (e.pos rank).idx
    let co := coreRun e c { sp := s.seenBy e.seq g, sheaves := s.cores.sheaves } rank
    if c.isAppend then
      match c.descOut with
      | some d => let (ws, outs) := appendCore e c d co; ({ co with outs := outs }, ws)
      | none => (co, [])
    else if c.dst = 3 then
      match c.out with
      | some o =>
        let byte (sheaf k : Nat) : Nat := (s.cores.sheaves.read (65536 * g + 4096 * sheaf + k)).toNat
        ({ co with outs := prologueOuts (Chain.ofMem e.chains e.seq o.chain) o byte co }, [])
      | none => (co, [])
    else (co, [])

/-- Runs of bytes with the values that a list of bit writes gives them: every touched byte whole (R218). -/
def withValues (vals : Mem) (bs : List Nat) : List Host.Cell := bs.map fun a => (a, vals.read a)

/-- The lines that SP_WR accepts from a core for one scattered row: one in each grant from the row's first on (R302, R304). -/
def rowStores (e : Env) (c : Cmd) (d : Desc) (x : CoreT) (co : CoreOut) (row : List Nat) (g0 : Nat) : List (Nat × Nat × List Host.Cell) :=
  let ws := (co.outs.filter fun o => setIdx o.idx 0 0 == row).map (outWrite c d)
  let vals := Mem.writeBits [] ws
  let runs := byteRuns (ws.flatMap BitWrite.bytes)
  let first := (runs.head?.map (·.1)).getD 0
  runs.map fun r => (grantAt e.cfg x.x first g0 + 4 * (r.1 - first), r.1, withValues vals r.2)

/-- What SP_WR accepts from a core for a command: cycle, line and bytes, descriptor targets, companions and scale notes alike (R60, R199, R218,
R233). -/
def coreStores (e : Env) (c : Cmd) (x : CoreT) (co : CoreOut) (ws : List BitWrite) : List (Nat × Nat × List Host.Cell) :=
  let scatter := c.permIs 2
  let groups := match c.descOut with
    | some d => if d.target = 1 then [ws] else if d.target = 0 ∧ !scatter then spWrites c d co else []
    | none => []
  let vals := (groups ++ [noteWrites c co]).foldl Mem.writeBits []
  let rows := match c.descOut with
    | some d => if scatter then x.spans.reverse.flatMap fun (row, g0) => rowStores e c d x co row g0 else []
    | none => []
  (x.puts.map fun (_, line, g, bs) => (g, line, withValues vals bs)) ++ rows

/-- The stores of a command: each line when SP_WR accepts it, and the sheaves, which only their own core reads. -/
def State.storeOuts (s : State) (q : Nat) (e : Env) (c : Cmd) (ct : CmdTime) (cos : List (CoreOut × List BitWrite)) : State :=
  cos.foldl (fun s (co, ws) =>
    let s := match ct.cores.find? fun x => x.x.rank == co.rank with
      | some x => (coreStores e c x co ws).foldl (fun s (g, line, cells) =>
          s.later q (e.start + g) (if inWindow e.part line then .store x.x.idx line cells false else .outside c.idx c.off x.x.idx 2 line)) s
      | none => s
    match c.out with
    | some o =>
      if o.dst = 2 then
        let bits := sheafWrites (e.pos co.rank).idx o.sheaf ((Fmt.ofCode o.sfmt).getD .fp32) co
        s.onCores fun x => { x with sheaves := x.sheaves.writeBits bits }
      else s
    | none => s) s

/-- The transfers of an entry that earlier commands of the epoch have sent. -/
def Timing.sent (t : Timing) (entry : Nat) : Nat := ((t.xfers.find? fun x => x.1 == entry).map (·.2)).getD 0

/-- A network send (R26, R174, R183): the elements in ascending L form the channel's stream. -/
def State.sendOuts (s : State) (e : Env) (t : Timing) (c : Cmd) (cos : List (CoreOut × List BitWrite)) : State :=
  match c.descOut with
  | some d =>
    if d.target = 2 then
      let els := cos.flatMap fun x => x.1.outs.map fun o => ((linIdx d.size o.idx).toNat * d.width, o.bits)
      let stream := els.foldl (fun n x => n ||| x.2 * 2 ^ x.1) 0
      let owned (n : Nat) : Bool := e.dies == 1 || els.any fun x => x.1 / 1792 == n
      s.sendTransfer e d.entry (t.sent d.entry) stream owned
    else s
  | none => s

/-- A prologue command's beats (R312, R316, R319); a stationary command opens the next generation (R320). -/
def State.presentBeats (s : State) (q : Nat) (r : Run) (e : Env) (c : Cmd) (ct : CmdTime) (cos : List (CoreOut × List BitWrite)) : State :=
  match c.out with
  | some o =>
    if o.dst = 3 then
      let ch := Chain.ofMem e.chains e.seq o.chain
      let first := r.start + ct.beats.headD ct.rel
      let s := if o.pkind = 1 then
          let n := s.coup.lastOpened + 1
          let gen : Gen :=
            { num := n, seq := q, chain := o.chain, opened := first, drained := false, closed := none, beats := 0, fin := 0, data := []
              landed := false }
          let s := s.onCoup fun x => { x with lastOpened := n, gens := x.gens ++ [gen] }
          s.onRun q fun r => { r with gens := r.gens ++ [n] }
        else s
      let w := c.proWidth e
      let lanes : List (Nat × Nat) := cos.map fun x => ((e.pos x.1.rank).idx, packBits w (x.1.outs.map (·.bits)))
      let lane (b g : Nat) : Bytes := laneOf (((lanes.find? fun x => x.1 == g).map (·.2)).getD 0) b
      let fmt := if o.pkind = 2 ∨ ch.proN = 0 then o.sfmt else ch.proFmt
      let beats : List ProBeat := ((List.range ct.beats.length).zip ct.beats).map fun (b, p) =>
        { cycle := r.start + p, kind := BitVec.ofNat 2 o.pkind, fmt := BitVec.ofNat 5 fmt, gen := s.coup.lastOpened
          data := (List.range s.cfg.nActive).flatMap (lane b) }
      s.onCoup fun x => { x with beats := x.beats ++ beats }
    else s
  | none => s

/-- Stamps of the lines that this die's cores read (R207); a gathered row's lines lie where its index puts them (R304). -/
def State.lineStamps (s : State) (e : Env) (c : Cmd) (cores : List CoreT) : List Stamp :=
  let mk (x : CoreT) (isA : Bool) (line g : Nat) : Stamp :=
    { idx := c.idx, off := c.off, pos := x.x.idx, chan := if isA then .a else .b, line := line, cycle := e.start + g + 6 }
  (cores.filter fun x => decide (x.x.die = e.die)).flatMap fun x =>
    let rows : List Stamp := match c.descA, c.indexDesc, c.perm with
      | some d, some n, some p =>
        if p.op = 1 then x.rowAt.flatMap fun (i, g0, _) =>
          let first := (d.bitAddrAt (setIdx i 0 0) p.dimP (rowIndex (s.seenBy e.seq x.x.idx) n i) / 4096).toNat
          (List.range d.rowLines).map fun k => mk x true (first + k) (grantAt e.cfg x.x first g0 + 4 * k)
        else []
      | _, _, _ => []
    (x.reads.map fun (a, line, g) => mk x a line g) ++ rows

/-- The lines outside the domain's windows that the cores' reads meet, and the rows of a GATHER or SCATTER that do not lie in them: the cycle,
position, STREAM and line of each (R135, R303). -/
def outsideReads (e : Env) (ct : CmdTime) : List (Nat × Nat × Nat × Nat) :=
  (ct.cores.filter fun x => decide (x.x.die = e.die)).flatMap fun x =>
    (x.reads.filter fun r => !inWindow e.part r.2.1).map fun (a, line, g) => (g, x.x.idx, (if a then 0 else 1), line)
def outsideRows (e : Env) (c : Cmd) (ct : CmdTime) (cos : List (CoreOut × List BitWrite)) : List (Nat × Nat × Nat × Nat) :=
  cos.filterMap fun (co, _) => co.halt.map fun (row, line) =>
    let g : Option Nat := (ct.cores.find? fun x => x.x.rank == co.rank).bind fun x =>
      if c.permIs 1 then (x.rowAt.find? fun y => y.1 == row).map (·.2.1) else (x.spans.find? fun y => y.1 == row).map (·.2)
    (g.getD ct.rel, (e.pos co.rank).idx, (if c.permIs 1 then 0 else 2), line)

/-- Have cores of other dies a share? Their results are outside this model (notes/assumptions/21). -/
def sharesElsewhere (e : Env) (c : Cmd) : Bool :=
  e.ranks.any fun k => decide ((e.pos k).die ≠ e.die) && decide ((c.share e.nCores k).count ≠ 0)

/-- The status record of a command: its first word's counts cover every core (R237, R238). -/
def State.statusOf (s : State) (e : Env) (c : Cmd) (cos : List (CoreOut × List BitWrite)) : State × W4 :=
  if sharesElsewhere e c then
    let (a, s) := s.fresh
    let (b, s) := s.fresh
    let (x, s) := s.fresh
    let (y, s) := s.fresh
    (s, ⟨a, b, x, y⟩)
  else (s, statusRec c.strict c.outLin (cos.foldl (fun f x => f.or x.1.exc) {}) (cos.flatMap fun x => x.1.outs))

/-- The value of a WIN predicate over every core with a non-empty share (R176). -/
def State.predValue (s : State) (e : Env) (c : Cmd) (cos : List (CoreOut × List BitWrite)) : State × Option (Nat × Bool) :=
  match c.win with
  | some w =>
    if w.pset then
      let ps := cos.filterMap fun x => x.1.pred
      if sharesElsewhere e c then
        let (a, s) := s.fresh
        (s, some (w.pidx, a.getLsbD 0))
      else (s, some (w.pidx, if w.pcomb then ps.all id else ps.any id))
    else (s, none)
  | none => (s, none)

/-- Rows that the cores of this die store in entry d.entry + k (R331, R346). -/
def rowsStored (e : Env) (c : Cmd) (d : Desc) (k : Nat) : Nat :=
  let boxes := (localRanks e).filterMap fun r => let b := c.share e.nCores r; if b.count = 0 then none else some (c.outBox b)
  let holds (b : Box) (dim i : Nat) : Bool := let r := b.getD dim (0, 1); decide (r.1 ≤ i ∧ i < r.2)
  ((List.range (e.appendRows (d.entry + k) (d.sizeAt 1))).filter fun i => boxes.any fun b => holds b 1 i && holds b 2 k).length

/-- Rows that a command's append stores in each entry, and the HEADs that a re-tier moves (R346, R347). -/
def appendCounts (e : Env) (c : Cmd) : List (Nat × Nat) × List (Nat × Nat) :=
  match c.descOut with
  | some d =>
    if d.target = 1 then
      let as := (List.range (d.sizeAt 2)).map fun k => (d.entry + k, rowsStored e c d k)
      match c.descA with
      | some a => (as, if c.retier e then as.zipIdx.map fun (x, k) => (a.entry + k, a.start + x.2) else [])
      | none => (as, [])
    else ([], [])
  | none => ([], [])

/-- The words with errors that a command's accesses meet, and differences of shadows, each in its own cycle (R421, R428). -/
def State.meet (s : State) (q : Nat) (c : Cmd) (inp : ComputeIn) : State :=
  let now := s.clk.rackTime
  let s := inp.hits.foldl (fun s h => s.later q (max now h.time) (.hit c.idx c.off h)) s
  inp.diffs.foldl (fun s d => s.later q (max now d.time) (.differ c.idx d)) s

/-- A zero-length OUT on a channel whose transfers have no elements is a barrier; any other one sends nothing (R183, R400). -/
def State.sendEmpty (s : State) (e : Env) (t : Timing) (c : Cmd) : State :=
  match c.descOut with
  | some d => if d.target = 2 ∧ (s.entry d.entry).count = 0 then s.sendOuts e t c [] else s
  | none => s

/-- A released COMPUTE command: what its cores do, and the command until it completes. Its operands are read here; its lines are stored, its
cells sent and its beats presented in their own cycles (notes/assumptions/11). -/
def State.computeAt (s : State) (q : Nat) (r : Run) (e : Env) (c : Cmd) (ct : CmdTime) (inp : ComputeIn) : State :=
  let fly : InFlight :=
    { idx := c.idx, off := c.off, release := ct.rel, done := ct.done, kind := 0, skipped := false, sig := c.signal, pred := none
      status := some W4.zero, appends := [], retiers := [], diffed := false }
  let put (s : State) (f : InFlight) : State := s.onRun q fun r => { r with flight := r.flight ++ [f] }
  let s := { s with sp := s.sp.overlay inp.given }
  if c.hdr.pen && (s.seqAt q).preds.getLsbD c.hdr.psel != c.hdr.psense then put s { fly with skipped := true }
  else if c.zeroLen then put (s.sendEmpty e r.timing c) fly
  else
    let cos := s.coreOuts e c
    let stamps := s.lineStamps e c ct.cores
    let s := (s.meet q c inp).storeOuts q e c ct cos
    let s := (outsideReads e ct ++ outsideRows e c ct cos).foldl (fun s (g, pos, stream, line) =>
      s.later q (e.start + g) (.outside c.idx c.off pos stream line)) s
    let s := s.sendOuts e r.timing c cos
    let s := s.presentBeats q r e c ct cos
    let (s, status) := s.statusOf e c cos
    let (s, pred) := s.predValue e c cos
    let (as, rs) := appendCounts e c
    let s := s.onRun q fun r => { r with stamps := r.stamps ++ stamps }
    put s { fly with status := some status, pred := pred, appends := as, retiers := rs }

/-! ## The release of a command (R191, R192, R201, R209) -/

/-- The next command of a running epoch, with those after it; none when the epoch releases nothing more. A block that has stopped its
scheduled work releases nothing (R50). -/
def State.nextCmd (s : State) (q : Nat) : Option (Run × Cmd × List Cmd) :=
  match (s.seqAt q).run with
  | some r =>
    if s.aon.power.serves && (s.domAt q).state == .running && !(s.seqAt q).stopped && !r.ended && s.stopHere q r == 0 then
      match (s.activeProgram q).drop r.nextIdx with
      | c :: rest => some (r, c, rest)
      | [] => none
    else none
  | none => none

/-- The value of an entry's tally in RACK_TIME `time`: what counts in that cycle or later does not count yet (R178). -/
def State.tallyAt (s : State) (r : Run) (i time : Nat) : Nat :=
  (s.entry i).tally - ((r.bumps.filter fun x => x.1 == i && decide (time ≤ x.2.1)).map fun x => x.2.2).sum

/-- Do a command's ledger-tally waits hold in a cycle (R178)? -/
def State.ledgerHolds (s : State) (r : Run) (c : Cmd) (time : Nat) : Bool :=
  c.ledgerWaits.all fun (i, v) => waitHolds 3 (s.tallyAt r i time) v

/-- A federated part's master sends the bundle in federation slots, from 240 CK_V cycles before its release (R36, R186). -/
def State.sendBundle (s : State) (q : Nat) (c : Cmd) (release : Nat) : State :=
  let dies := s.boot.straps.fedDies.toNat + 1
  if dies ≤ 1 ∨ s.slave then s
  else
    let fetch := release - 240
    let j := slotAfter (fetch + 64)
    let first := j + (7 + 8 - j % 8) % 8
    let bytes := s.cmdMem.readBytes (s.segAddr q (s.seqAt q).activeBank + c.off) c.len
    let h := { s.linkHdr 0x05 with tenant := BitVec.ofNat 3 (s.tenantOf q), epoch := (s.domAt q).epoch }
    ((List.range dies).filter (· != s.boot.straps.dieId.toNat)).foldl (fun s p =>
      (List.range ((c.len + 223) / 224)).foldl (fun s k =>
        s.send { port := p, slot := some (first + 8 * k), hdr := h, payload := padPayload ((bytes.drop (224 * k)).take 224) }) s) s

/-- A SWAP with an armed load bank: the banks swap, flags, tallies and predicates become zero, and fetch goes on at byte 0 (R192). A slave, which
has no banks, goes on with the bundles that follow (R35). -/
def State.swapProgram (s : State) (q : Nat) (e : Env) (c : Cmd) : State :=
  let swap (x : Sequencer) : Sequencer := if s.slave then { x with fed := x.fed.drop (c.off + c.len) } else x.swapBanks
  let s := s.onSeq q fun x => { swap x with flags := 0, tallies := List.replicate 32 0, preds := 0 }
  match (s.seqAt q).run with
  | some r => s.onRun q fun r' => { r' with nextIdx := 0, timing := r'.timing.regroup e (s.runEnv q r) }
  | none => s

/-- Was the load bank ARMED in the cycle before `time` (R192)? A slave leaves that to the master. -/
def State.armedBefore (s : State) (q time : Nat) : Bool :=
  s.slave || ((s.seqAt q).load == .armed && decide ((s.seqAt q).armedAt < time))

/-- Does the next command release: its flag and tally waits hold in the model, and no earlier event of the epoch is outstanding? A SWAP and
an END wait for every earlier completion (R192, R201). -/
def mayRelease (r : Run) (c : Cmd) (rel : Nat) : Bool :=
  r.flight.all (fun f => decide (rel ≤ f.done)) && ((c.hdr.kind != 2 && c.hdr.kind != 3) || r.flight.isEmpty)

/-- Has every landing and every drain of the epoch that the cycle model places before a cycle taken place (R321, R326)? The newest
generation's are not fixed while `rest` brings it more beats. -/
def State.landedBefore (s : State) (r : Run) (e : Env) (rest : List Cmd) (rel : Nat) : Bool :=
  let gs := r.gens.zip (r.timing.genList e)
  let gs := if moreBeats rest then gs.dropLast else gs
  gs.all fun (n, g) => s.coup.gens.all fun x =>
    x.num != n || ((x.landed || decide (rel ≤ g.c)) && (x.drained || decide (rel ≤ g.d)))

/-- A command is released, unless what fell due before has aborted the epoch. -/
def State.releaseCmd (s : State) (q : Nat) (r : Run) (e : Env) (c : Cmd) (t : Timing) (ct : CmdTime) (inp : ComputeIn) : State :=
  let time := r.start + ct.rel
  let s := s.until time
  match (s.seqAt q).run with
  | none => s
  | some now =>
    if (s.domAt q).state != .running then s
    else if !s.ledgerHolds now c (time - 1) then
      s.runtimeHalt q { reason := 1, stream := 5, idx := c.idx, off := c.off, core := none, detail := 0x80000000, stamp := time - 1 }
    else if c.hdr.kind == 2 && !s.armedBefore q time then
      s.runtimeHalt q { reason := 5, stream := 5, idx := c.idx, off := c.off, core := none, detail := 0, stamp := 0 }
    else
      let s := s.sendBundle q c time
      let s := s.onSeq q fun x =>
        { x with lastReleased := BitVec.ofNat 16 c.idx, slots := if c.hdr.kind = 2 then x.slots else t.slots.map fun y => y.map (·.1) }
      let s := s.onRun q fun r => { r with nextIdx := c.idx + 1, released := r.released + 1, timing := t, ended := c.hdr.kind == 3 }
      if c.hdr.kind = 0 then s.computeAt q r e c ct inp
      else
        let fly : InFlight :=
          { idx := c.idx, off := c.off, release := ct.rel, done := ct.done, kind := c.hdr.kind
            skipped := c.hdr.pen && (s.seqAt q).preds.getLsbD c.hdr.psel != c.hdr.psense, sig := c.signal, pred := none, status := none
            appends := [], retiers := [], diffed := false }
        let s := s.onRun q fun r => { r with flight := r.flight ++ [fly] }
        if c.hdr.kind = 2 then s.swapProgram q e c else s

/-- The next command of sequencer q is released if its kind is as the row says. -/
def State.releaseKind (s : State) (q kind : Nat) (inp : ComputeIn) : State :=
  match s.nextCmd q with
  | some (r, c, rest) =>
    if c.hdr.kind = kind then
      match timeCmd (s.runEnv q r) r.timing c rest s.coll.logicalId.toNat with
      | some (t, ct) =>
        let e := s.runEnv q r
        if mayRelease r c ct.rel && s.landedBefore r e (c :: rest) ct.rel then s.releaseCmd q r e c t ct inp else s
      | none => s
    else s
  | none => s

/-- Nothing of the surroundings. -/
def ComputeIn.none : ComputeIn := { given := [], hits := [], diffs := [] }

/-- COMPUTE (R160): the command is released, and runs or is skipped. -/
def execCompute (q : Nat) (inp : ComputeIn) (s : State) : Res := .next (s.releaseKind q 0 inp)
/-- SYNC (R156): waits and signal. -/
def execSync (q : Nat) (s : State) : Res := .next (s.releaseKind q 1 ComputeIn.none)
/-- SWAP (R192). -/
def execSwap (q : Nat) (s : State) : Res := .next (s.releaseKind q 2 ComputeIn.none)
/-- END (R156). -/
def execEndEpoch (q : Nat) (s : State) : Res := .next (s.releaseKind q 3 ComputeIn.none)

/-- TALLY_WAIT_WINDOW_END (R209): the window of a command with a ledger-tally wait ends: it releases, or the sequencer halts. -/
def execTallyWaitWindowEnd (q : Nat) (s : State) : Res :=
  match s.nextCmd q with
  | some (_, c, _) => .next (if c.ledgerWaits.isEmpty then s else s.releaseKind q c.hdr.kind ComputeIn.none)
  | none => .next s

/-! ## Completion (R180, R202) -/

/-- A signal on a flag or tally (R180). -/
def Sequencer.signal (x : Sequencer) (kind index value : Nat) : Sequencer :=
  match kind with
  | 1 => { x with flags := x.flags ||| BitVec.ofNat 64 (2 ^ index) }
  | 2 => { x with flags := x.flags &&& ~~~(BitVec.ofNat 64 (2 ^ index)) }
  | 3 => { x with tallies := x.tallies.modify index fun t => t + BitVec.ofNat 24 value }
  | _ => x

/-- Set a predicate bit. -/
def Sequencer.setPred (x : Sequencer) (i : Nat) (v : Bool) : Sequencer :=
  { x with preds := if v then x.preds ||| BitVec.ofNat 16 (2 ^ i) else x.preds &&& ~~~(BitVec.ofNat 16 (2 ^ i)) }

/-- An append's CURSOR and TALLY, with the checkpoint word (R346, R351). -/
def State.advance (s : State) (q i n : Nat) : State :=
  let s := s.checkpoint i
  let x := s.entry i
  (s.setEntry i (x.setSpan x.head (x.cursor + n))).countTally q i n

/-- A re-tier's HEAD: max(HEAD, min(START + n, CURSOR)) (R347). -/
def State.retierHead (s : State) (i lim : Nat) : State :=
  let s := s.checkpoint i
  let x := s.entry i
  s.setEntry i (x.setSpan (max x.head (min lim x.cursor)) x.cursor)

/-- The trace record of a completion (R437). -/
def State.traceCmd (s : State) (q : Nat) (f : InFlight) : State :=
  let x := s.seqAt q
  let st := x.status
  s.trace q (word (s.clk.rackTime % 2 ^ 48 + q * 2 ^ 48 + bit01 f.skipped * 2 ^ 51))
    (word (f.idx % 65536 + min 0xFFFF (f.done - f.release) * 2 ^ 16 + x.epochNo.toNat * 2 ^ 32 + bit01 (field st.w0 0 40 != 0) * 2 ^ 40
      + bit01 (field st.w1 0 40 != 0) * 2 ^ 41 + field st.w3 16 1 * 2 ^ 42 + x.activeBank % 2 * 2 ^ 43))

/-- What takes effect in a command's completion cycle; nothing does when the epoch has aborted before it. -/
def State.completeCmd (s : State) (q : Nat) (r : Run) (f : InFlight) : State :=
  let s := s.until (r.start + f.done)
  if (s.domAt q).state != .running then s
  else
    let s := s.onRun q fun r =>
      { r with flight := r.flight.filter fun x => x.idx != f.idx, completed := r.completed + 1, lastDone := s.clk.rackTime
               stamps := r.stamps.filter fun x => decide (s.clk.rackTime ≤ x.cycle) }
    let s := s.onCores fun c => { c with silos := c.silos.filter fun x => x.seq != q || x.idx != f.idx }
    let s := s.onSeq q fun x =>
      let x := match f.pred with | some (i, v) => x.setPred i v | none => x
      let x := x.signal f.sig.1 f.sig.2.1 f.sig.2.2
      let x := match f.status with | some w => { x with status := w } | none => x
      if f.kind = 2 then { x with slots := [none, none, none, none] } else x
    let s := f.appends.foldl (fun s a => s.advance q a.1 a.2) s
    let s := f.retiers.foldl (fun s a => s.retierHead a.1 a.2) s
    let s := s.traceCmd q f
    if f.kind = 3 ∧ r.stopAtEnd = 0 then s.endCompleted q else s.checkStop q

/-- The command in flight that completes first; of several in one cycle, the first in order. -/
def Run.firstDue (r : Run) : Option InFlight :=
  r.flight.foldl (fun m f => match m with
    | none => some f
    | some x => if f.done < x.done then some f else m) none

/-- COMMAND_COMPLETION (R202). -/
def execCommandCompletion (q : Nat) (s : State) : Res :=
  match (s.seqAt q).run with
  | some r =>
    match r.firstDue with
    | some f =>
      let rest := (s.activeProgram q).drop r.nextIdx
      whenTrue (s.aon.power.serves && (s.domAt q).state == .running && s.landedBefore r (s.runEnv q r) rest f.done) s (s.completeCmd q r f)
    | none => .next s
  | none => .next s

/-! ## Lines and their stamps (R59, R61, R62, R207) -/

/-- A read channel as STREAM and in an SP_STALL event (R62). -/
def rdChanCode : RdChan → Nat
  | .a => 0
  | .b => 1

/-- An SP_STALL: the warning alarm counts it, and an event names slice and channel (R61, R431). -/
def State.spStall (s : State) (q g line chan : Nat) : State :=
  (s.warn 4).event 0x000A (s.cores.serve.getD g g) (some q) (line % s.cfg.nSlice + chan * 256)

/-- The command a halt names when no command's own: the last one released. -/
def State.lastCmd (s : State) (q : Nat) : Nat × Nat :=
  let i := (s.seqAt q).lastReleased.toNat
  match (s.activeProgram q)[i]? with
  | some c => (c.idx, c.off)
  | none => (i, 0)

/-- SCHEDULE_SLIP of a line: SP_STALL counts it, and the core halts (R207, R211). -/
def State.lineSlip (s : State) (q idx off g line : Nat) (chan : RdChan) (detail stamp : Nat) : State :=
  let k := rdChanCode chan
  (s.spStall q g line k).runtimeHalt q
    { reason := 1, stream := k, idx := idx, off := off, core := some g, detail := detail, stamp := stamp }

/-- A signed count of cycles as 32 bits. -/
def signed32 (n : Int) : Nat := (n % 2 ^ 32).toNat

/-- The earliest stamp of a line on a channel of a position. -/
def Run.stampOf (r : Run) (g : Nat) (chan : RdChan) (line : Nat) : Option Stamp :=
  (r.stamps.filter fun x => x.pos == g && x.chan == chan && x.line == line).foldl (fun m x => match m with
    | none => some x
    | some y => if x.cycle < y.cycle then some x else m) none

/-- A halt that a core detects in this cycle: none once an earlier cycle's abort has stopped it (R211). -/
def State.haltNow (s : State) (q : Nat) (act : State → State) : State := if s.mayHalt q then act s else s

/-- A line comes in its stamp cycle: the silo takes it, or its poison halts the core (R59, R62). -/
def State.takeLine (s : State) (q : Nat) (x : Stamp) (poison : Bool) : State :=
  if poison then
    s.runtimeHalt q { reason := 2, stream := rdChanCode x.chan, idx := x.idx, off := x.off, core := some x.pos, detail := x.line, stamp := 0 }
  else
    let line : SiloLine := { seq := q, pos := x.pos, idx := x.idx, line := x.line, data := (s.seenBy q x.pos).readBytes (512 * x.line) 512 }
    (s.onRun q fun r => { r with stamps := r.stamps.erase x }).onCores fun c => { c with silos := line :: c.silos }

/-- Data of a line in RACK_TIME `time`: in its stamp cycle it is taken, or poisons the core; a line that is early, late or not expected at
all is a SCHEDULE_SLIP (R62, R207). A late line is found in the cycle after its stamp. -/
def State.lineData (s : State) (q : Nat) (r : Run) (g : Nat) (chan : RdChan) (line time : Nat) (poison : Bool) : State :=
  match r.stampOf g chan line with
  | some x =>
    if time = x.cycle then (s.until time).haltNow q fun s => s.takeLine q x poison
    else
      let detail := if time ≤ x.cycle + 1 then signed32 ((time : Int) - x.cycle) else 0x80000000
      (s.until (min time (x.cycle + 1))).haltNow q fun s => s.lineSlip q x.idx x.off g line chan detail x.cycle
  | none =>
    (s.until time).haltNow q fun s =>
      let (w, s) := s.fresh
      let (v, s) := s.fresh
      let c := s.lastCmd q
      s.lineSlip q c.1 c.2 g line chan (w.toNat % 2 ^ 32) v.toNat

/-- Is a position on this die one of the running group's, and may its core still halt the epoch (R211)? -/
def State.runsAt (s : State) (q : Nat) (r : Run) (g : Nat) : Bool :=
  let e := s.runEnv q r
  s.mayHalt q && (localRanks e).any fun k => (e.pos k).idx == g

/-- SP_READ_DATA (R59, R62, R207). -/
def execSpReadData (q pos : Nat) (chan : RdChan) (line time : Nat) (poison : Bool) (s : State) : Res :=
  match (s.seqAt q).run with
  | some r => whenTrue (s.runsAt q r pos) s (s.lineData q r pos chan line time poison)
  | none => .next s

/-- Is an effect a store of a line at a position of sequencer q? -/
def Dated.storesAt (x : Dated) (q pos line : Nat) : Bool :=
  match x.act with
  | .store p l _ _ => x.seq == q && p == pos && l == line
  | _ => false

/-- SP_WR refuses a line by READY at 0: the request stays pending until the position's next grant for its slice, and SP_STALL counts it (R61;
notes/assumptions/105). -/
def State.refuseStore (s : State) (q : Nat) (r : Run) (pos line : Nat) : State :=
  match s.agenda.find? fun x => x.storesAt q pos line with
  | some x =>
    let e := s.runEnv q r
    let at_ := match (localRanks e).find? fun k => (e.pos k).idx == pos with
      | some k => r.start + grantAt s.cfg (e.pos k) line (x.cycle + 1 - r.start)
      | none => x.cycle + 4
    (({ s with agenda := s.agenda.erase x } : State).until x.cycle).haltNow q fun s => (s.later q at_ x.act).spStall q pos line 2
  | none => s

/-- LINE_STAMP_EXPIRY (R61, R207): a line's stamp passes without its data, or with its request still refused; on SP_WR, whose requests carry no
stamp, a request is refused. -/
def execLineStampExpiry (q pos : Nat) (chan : SpChan) (line : Nat) (refused : Bool) (s : State) : Res :=
  match (s.seqAt q).run with
  | some r =>
    match chan with
    | .rd c =>
      match r.stampOf pos c line with
      | some x => whenTrue (s.runsAt q r pos) s
          ((s.until (x.cycle + 1)).haltNow q fun s => s.lineSlip q x.idx x.off pos line c 0x80000000 x.cycle)
      | none => .next s
    | .wr => whenTrue (refused && s.runsAt q r pos) s (s.refuseStore q r pos line)
  | none => .next s

end Sys2Proof.Machine
end

