-- ==== Sys2Proof/Machine/Slots.lean ====
section
/-! DEFINITION. Received cells as their slots bring them (02 R67; 15 R358, R361, R370-R372, R375): arrival stamps, the elastic buffer, poisoned
cells, and cells in slots that they do not belong to. -/

namespace Sys2Proof.Machine

/-- Is a port in a training step? -/
def State.inStep (s : State) (p k : Nat) : Bool :=
  decide (p < s.cfg.nPort) && (s.portAt p).state == .training && (s.portAt p).phyEn && (s.portAt p).step == k

/-- A cell that cannot be corrected, in step 3. -/
def State.badCell (s : State) (p : Nat) : State := if s.inStep p 3 then s.onPort p fun q => { q with idleRun := 0 } else s

/-! ## Arrival (R361, R371, R375) -/

/-- The arrival stamp of a slot of a port (R361). -/
def State.stampAt (s : State) (p slot : Nat) : Nat := slotStart slot + s.cfg.portBudget p + 16

/-- Do a port's scheduled cells carry arrival stamps: UP, class P, B or K? -/
def State.stamped (s : State) (p : Nat) : Bool := s.isUp p && s.cfg.portClass p != 4

/-- A cell comes out of the slack buffer at its stamp; on class O it comes as it arrives. -/
def State.arrive (s : State) (p slot : Nat) : State := if s.stamped p then s.until (s.stampAt p slot) else s

/-- The cycle in which the payload of a slot's cell is available: 80 cycles after the stamp (R361). -/
def State.avail (s : State) (p slot : Nat) : State := if s.stamped p then s.until (s.stampAt p slot + 80) else s

/-- The wait W in ROOT_CK cycles of a cell that comes with the calibrated latency: 20 + (K mod 5) in an even slot, 2 fewer in an odd one
(R369). -/
def State.fixedWait (s : State) (p slot : Nat) : Int :=
  let q := s.portAt p
  20 + (4 * (s.cfg.portBudget p : Int) + 44 - (q.lIn + q.partnerPhi : Nat)) % 5 - 2 * (slot % 2 : Nat)

/-! ## Poisoned cells (R146, R186, R358, R401) -/

/-- Is a slot of a port a federation slot (R36, R392)? -/
def State.fedSlot (s : State) (p slot : Nat) : Bool :=
  s.boot.straps.fedDies != 0 && s.cfg.portClass p == 1 && decide (p ≤ s.boot.straps.fedDies.toNat) && slot % 8 == 7

/-- Acknowledge a port's maintenance cells, or ask for them again (R377): the highest SEQ received in order. -/
def State.sendAck (s : State) (p : Nat) (negative : Bool) : State :=
  let s := s.send { port := p, slot := none, hdr := s.linkHdr 0x0D
                    payload := payloadOf [(0, 2, ((s.portAt p).mrxSeq - 1).toNat), (2, 1, bit01 negative)] }
  s.onPort p fun q => { q with ackDue := false }

/-- Bundle cells lost on the federation path halt every sequencer of a slave whose program has not ended (R186). -/
def State.fedLost (s : State) : State :=
  (List.range s.cfg.nSeq).foldl (fun s q =>
    match (s.seqAt q).run with
    | some r =>
      let c := s.lastCmd q
      if r.ended then s
      else s.haltNow q fun s =>
        s.runtimeHalt q { reason := 7, stream := 4, idx := c.1, off := c.2, core := none, detail := 0, stamp := 0 }
    | none => s) s

/-- A poisoned cell in a slot (R358, R401): a channel's, a control slot's, a bundle's, or a maintenance cell to be sent again. -/
def State.poisonAt (s : State) (p slot : Nat) : State :=
  if (s.portAt p).trained then
    if s.fedSlot p slot then s.fedLost
    else
      match s.chanDom p with
      | some d =>
        if s.slotMarked d p slot then s
        else if !(s.usesOf d p slot).isEmpty then s.slotPoisoned d p slot
        else if s.controlUse d p slot then (s.markSlot d p slot).abortEpoch d 0x22 none
        else s.sendAck p true
      | none => s.sendAck p true
  else s.badCell p

/-- A control slot's cell has come (R406). -/
def State.slotSeen (s : State) (p slot : Nat) : State :=
  match s.chanDom p with
  | some d => if s.controlUse d p slot && !s.slotMarked d p slot then s.markSlot d p slot else s
  | none => s

/-- A received cell: it comes at its time, its errors are corrected, its wait is recorded. A cell that cannot be corrected is poisoned;
a cell of another TYPE is not this row's. -/
def slotRow (c : RxCell) (isType : CellHdr → Bytes → Bool) (act : CellHdr → Bytes → State → State) (s : State) : Res :=
  if s.receives c.port then
    let t := s.arrive c.port c.slot
    match t.openRx c with
    | (t, none) => .next ((t.recordWait c.port c.wait).poisonAt c.port c.slot)
    | (t, some (h, pay)) =>
      if isType h pay then .next (act h pay ((t.recordWait c.port c.wait).slotSeen c.port c.slot)) else .next s
  else .next s

/-! ## Strays (R370, R401) -/

/-- The first cell of a channel in a slot whose loss has not been counted. -/
def State.openSlot (s : State) (d p slot : Nat) : Option SlotUse := if s.slotMarked d p slot then none else (s.usesOf d p slot).head?

/-- A cell that is not a channel's in a slot that carries a channel counts as missing; in a control slot, and in any slot if `count` says
so, it is discarded and counted in MISSING. -/
def State.stray (s : State) (p slot : Nat) (count : Bool) : State :=
  match s.chanDom p with
  | some d =>
    match s.openSlot d p slot with
    | some u => s.slotMissing d p slot u
    | none => if count || s.controlUse d p slot then s.countMissing p else s
  | none => if count then s.countMissing p else s

/-- A received link, training or maintenance cell: in a channel's or a control slot it is a stray. -/
def linkRow (c : RxCell) (isType : CellHdr → Bytes → Bool) (act : CellHdr → Bytes → State → State) (s : State) : Res :=
  slotRow c isType (fun h pay s =>
    match s.chanDom c.port with
    | some d => if (s.openSlot d c.port c.slot).isSome || s.controlUse d c.port c.slot then s.stray c.port c.slot false else act h pay s
    | none => act h pay s) s

end Sys2Proof.Machine
end

