-- ==== Sys2Proof/Machine/Wiring.lean ====
section
/-! DEFINITION. The wiring map and its check, the start of an epoch synchronisation, PORT_BYPASS, and the requests that wait for the end of
training (15 R373-R376, R379; 16 R388, R413). -/

namespace Sys2Proof.Machine

/-! ## The wiring map (R388) -/

/-- Ports of the configuration that a map names, ascending. -/
def State.mappedPorts (s : State) (ws : List Word) : List Nat := (List.range s.cfg.nPort).filter (wiringMaps ws)

/-- Fields of a WIRING part outside their ranges. -/
def State.wiringBad (s : State) (ws : List Word) : Bool :=
  let h := ws.getD 0 0
  ws.length != 1 + s.cfg.nPort || field h 0 16 == 0xFFFF || (h &&& ~~~word 0xFFFFFFFF0003FFFF) != 0
    || (h.getLsbD 17 && !h.getLsbD 16) || decide (field h 32 32 < 100000)
    || (ws.drop 1).any fun w => (w &&& ~~~word 0xFFFFFFFF873FFFFF) != 0

/-- Does the partner identity last received equal the map's entry (R373)? -/
def PartnerId.matches (x : PartnerId) (w : Word) : Bool :=
  x.logical.toNat == field w 0 16 && x.port.toNat == field w 16 6 && x.cls.toNat == field w 24 3

/-- The check of one port: the state after it, and whether it passes. A trained port with another partner is held down; a class O port above
its limit goes down with LATENCY (R376); a port that is not UP fails as it stands, but for one that waits for this check. -/
def State.checkWiring (s : State) (ws : List Word) (p : Nat) : State × Bool :=
  let w := wiringWord ws p
  let q := s.portAt p
  if q.trained then
    if !(q.partner.any fun x => x.matches w) then (s.pairLost p 0x08, false)
    else if s.cfg.portClass p = 4 ∧ 32 * field w 32 16 + field w 48 16 < q.lIn then (s.pairLost p 0x07, false)
    else (s, q.state == .up || q.reason == 0x12)
  else (s, false)

/-- The check of every mapped port in ascending order: the lowest failing port. -/
def State.checkAllWiring (s : State) (ws : List Word) : State × Option Nat :=
  (s.mappedPorts ws).foldl (fun (s, bad) p => let (s, ok) := s.checkWiring ws p; (s, bad.or (if ok then none else some p))) (s, none)

/-! ## Calibration cells (R360, R367) -/

/-- The local root time T (R367): the ROOT_CK cycle within a CK_V cycle is 0 where the block does something in that cycle. -/
def State.rootTime (s : State) : Nat := 4 * s.clk.localTime

/-- The phase of the first physical slot at or after the grid's anchor (R360): physical slots are 10 ROOT_CK cycles from each frame edge. -/
def State.phi (s : State) : Nat := (10 - 4 * s.clk.anchor % 10) % 10

/-- The launch of beat 0 of a cell sent now, in root time: the next physical slot, slots being 10 ROOT_CK cycles from frame edges (R360). -/
def State.launchTime (s : State) : Nat := (s.rootTime + 9) / 10 * 10

/-- Send a TRAIN_TIME on a port, with the latest one received. -/
def State.sendTrainTime (s : State) (p : Nat) : State :=
  let q := s.portAt p
  let (t, r) := q.lastTRx.getD (0, 0)
  let s := s.onPort p fun q => { q with exchange := q.exchange + 1 }
  s.send { port := p, slot := none, hdr := { s.linkHdr 0x09 with seq := q.exchange }
           payload := payloadOf [(0, 8, s.launchTime), (8, 8, t), (16, 8, r), (24, 1, s.phi)] }

/-! ## Synchronisation (R413) -/

/-- A SYNC message in a sender's root time. -/
def State.syncPayload (s : State) (number target : Nat) : Bytes :=
  maintPayload 1 32 0xFFFF s.coll.logicalId.toNat 0 0 [(8, 2, number), (16, 8, target)]

/-- A synchronisation is under way: SYNC goes out on every UP or MAINT_ONLY port of classes P, B and K, and the UP ports of those
classes repeat their calibration (R369, R413, R414). -/
def State.spreadSync (s : State) (number target : Nat) : State :=
  let ports := (List.range s.cfg.nPort).filter fun p => s.carries p && s.cfg.portClass p != 4
  let s := s.onColl fun c => { c with syncNum := BitVec.ofNat 16 number, syncSeen := BitVec.ofNat 16 number, syncTarget := some target }
  let s := ports.foldl (fun s p => s.sendMaint p 0x0C 0xFFFF (s.syncPayload number target)) s
  (ports.filter s.isUp).foldl (fun s p => (s.onPort p fun q => { q with calibRun := 0 }).sendTrainTime p) s

/-- The master starts synchronisation n + 1, n being the last number that the chip has seen. -/
def State.startSync (s : State) (lead : Nat) : State :=
  s.spreadSync ((s.coll.syncSeen.toNat + 1) % 65536) (64 * (s.rootTime / 64 + lead))

/-! ## Installing a map -/

/-- A map that passed its check: LOGICAL_ID, TIME_MASTER, ports that waited for a check, the identity refresh, SYNC. -/
def State.installWiring (s : State) (ws : List Word) : State :=
  let h := ws.getD 0 0
  let changed := s.coll.logicalId != h.setWidth 16
  let s := s.onColl fun c => { c with logicalId := h.setWidth 16, timeMaster := h.getLsbD 16, wiring := ws }
  let s := (s.mappedPorts ws).foldl (fun s p => (s.onPort p fun q => { q with unchecked := false }).applyIdentity p) s
  let s := if changed then s.identityRefresh else s
  if h.getLsbD 17 then s.startSync (field h 32 32) else s

/-- The domain under which a complete WIRING part is staged. -/
def State.wiringDom (s : State) : Nat := ((List.range s.cfg.nSeq).find? fun d => (s.domAt d).wiring.last).getD 0

/-- The words of the complete WIRING part. -/
def State.wiringWords (s : State) : List Word := (s.domAt s.wiringDom).wiring.words

/-- The wiring check of a complete WIRING part, and the completion. The part is not staged any longer. -/
def State.finishWiring (s : State) (r : Req) : State :=
  let d := s.wiringDom
  let ws := s.wiringWords
  let (s, bad) := s.checkAllWiring ws
  let s := s.onDom d fun c => { c with wiring := Staged.none }
  match bad with
  | some p => s.complete r rWiring p 0 0 0
  | none => (s.installWiring ws).answer r rOk

/-- Ports held down for WIRING, which a JOB_LOAD retrains before it checks them (R373); none while the LINKS window is unlocked (R382). -/
def State.wiringHeld (s : State) : List Nat :=
  if s.unlocked 9 then []
  else (List.range s.cfg.nPort).filter fun p =>
    (s.portAt p).state == .down && (s.portAt p).reason == 0x08 && s.strapValid p && (s.portAt p).ctl.getLsbD 0

/-- Train a port that is down, its ring partner with it. -/
def State.retrain (s : State) (p : Nat) : State :=
  match s.cfg.pairOf p with
  | none => s.startTraining p
  | some i => if s.aon.bypass.getD i true then s.releaseBypass i else s

/-- Is a port that a map names training? -/
def State.mapTraining (s : State) (ws : List Word) : Bool := (s.mappedPorts ws).any fun p => (s.portAt p).state == .training

/-- The LAST block of WIRING (R373, R388): held ports are retrained first; the request stays held until that training has ended. -/
def State.lastWiring (s : State) (r : Req) : State :=
  let held := s.wiringHeld
  if held.isEmpty then s.finishWiring r
  else
    let s := held.foldl State.retrain s
    if s.mapTraining s.wiringWords then s else s.finishWiring r

/-! ## PORT_BYPASS (R379) -/

/-- The completion of PORT_BYPASS. -/
def State.bypassDone (s : State) (r : Req) (i : Nat) : State :=
  let (a, b) := s.cfg.pairPorts i
  s.complete r rOk 0 (s.portStatus0 a) (s.portStatus0 b) 0

/-- Is a port of a pair training? -/
def State.pairTraining (s : State) (i : Nat) : Bool :=
  let (a, b) := s.cfg.pairPorts i
  (s.portAt a).state == .training || (s.portAt b).state == .training

/-- PORT_BYPASS: bypass at once; a release is held until both ports have ended training. -/
def runPortBypass (r : Req) (s : State) : State :=
  let i := field (r.arg 1) 0 3
  if s.cfg.nPair ≤ i then s.answer r rBadArg
  else if s.pairAbsent i then s.answer r rBadArg
  else if s.anyEpoch then s.answer r rNotIdle
  else if s.unlocked 9 then s.answer r rExpertHeld
  else if (r.arg 1).getLsbD 8 then
    (({ s with pairHeld := s.pairHeld.set i true }).pairBypass i).bypassDone r i
  else
    let s := { s with pairHeld := s.pairHeld.set i false }
    let s := if s.aon.bypass.getD i true ∧ s.pairEnabled i then s.releaseBypass i else s
    if s.pairTraining i then s else s.bypassDone r i

/-- The two forms of PORT_BYPASS. -/
def pickBypass (enter : Bool) (_ : State) (r : Req) : Bool := r.opcode.toNat == 0x21 && (r.arg 1).getLsbD 8 == enter

/-- PORT_BYPASS that places a pair in bypass (R379). -/
def execPortBypassEnter (m : Nat) (s : State) : Res := ronno m (pickBypass true) runPortBypass s
/-- PORT_BYPASS that releases a pair (R379). -/
def execPortBypassRelease (m : Nat) (s : State) : Res := ronno m (pickBypass false) runPortBypass s

/-! ## The end of training -/

/-- A port has ended training: phase 0x08 may end, and so may a request that waits for training. -/
def State.trainingEnded (s : State) : State :=
  let s := s.endPhase8
  match s.kol.held with
  | none => s
  | some r =>
    if r.opcode = 0x21 then
      let i := field (r.arg 1) 0 3
      if s.pairTraining i then s else s.bypassDone r i
    else if r.opcode = 0x1A then
      if s.mapTraining s.wiringWords then s else s.finishWiring r
    else s

end Sys2Proof.Machine
end

