-- ==== Sys2Proof/Machine/Training.lean ====
section
/-! DEFINITION. Link training, calibration, loss and retraining of ports (02 R70, R72; 03 R87, R104, R106; 15 R363-R372). -/

namespace Sys2Proof.Machine

/-- Training of a port fails with a reason. -/
def State.trainFail (s : State) (p reason : Nat) : State := (s.pairLost p reason).trainingEnded

/-! ## Steps 1 to 3 -/

/-- PHY_READY (R86, R363): PHY_RDY rises; ALIGN cells are sent from now on, and received once 32 CK_L cycles have passed. -/
def execPhyReady (port : Nat) (s : State) : Res :=
  whenTrue (s.inStep port 1) s (s.onPort port fun q => { q with step := 2, phyRdy := true, rdyAt := s.clk.localTime })

/-- The count of an ALIGN cell when all eight lane groups show the same. -/
def alignCount (counts : List Nat) : Option Nat :=
  match counts with
  | [] => none
  | n :: rest => if counts.length = 8 ∧ n < 16 ∧ rest.all (· == n) then some n else none

/-- A port after an ALIGN cell: the run of equal, consecutive counts; groups more than 8 CK_L cycles apart cannot be aligned. -/
def Port.align (q : Port) (counts : List Nat) (skew : Nat) : Port :=
  if 8 < skew then { q with alignRun := 0, alignLast := none, failReason := 0x03 }
  else
    match alignCount counts with
    | none => { q with alignRun := 0, alignLast := none, failReason := 0 }
    | some n =>
      let run := if q.alignLast = some ((n + 15) % 16) then q.alignRun + 1 else 1
      { q with alignRun := run, alignLast := some n, failReason := 0, step := if 64 ≤ run then 3 else 2 }

/-- ALIGN_CELL (R363): 64 consecutive cells with the same count on every lane group end step 2. -/
def execAlignCell (port : Nat) (counts : List Nat) (skew : Nat) (s : State) : Res :=
  whenTrue (s.inStep port 2 && s.receives port) s (s.onPort port fun q => q.align counts skew)

/-- A good cell in step 3: the 1024th in a row ends the step, and TRAIN_ID is sent. -/
def State.goodCell (s : State) (p : Nat) : State :=
  if s.inStep p 3 then
    let s := s.onPort p fun q => { q with idleRun := q.idleRun + 1 }
    if 1024 ≤ (s.portAt p).idleRun then (s.onPort p fun q => { q with step := 4 }).sendTrainId p (s.portAt p).partner.isSome else s
  else s

/-! ## Step 4: identities (R365, R366, R369) -/

/-- Keep a partner's identity. -/
def State.keepPartner (s : State) (p : Nat) (x : PartnerId) : State :=
  s.onPort p fun q => { q with partner := some x, partnerAcked := x.ack, neighPort := x.port.setWidth 6, neighLogical := x.logical }

/-- A TRAIN_ID: kept in step 3, answered in step 4 and later steps, an identity refresh on a trained port. -/
def State.gotTrainId (s : State) (p : Nat) (x : PartnerId) : State :=
  let q := s.portAt p
  if q.trained then (s.keepPartner p x).applyIdentity p
  else if s.inStep p 3 then (s.keepPartner p x).goodCell p
  else if s.inStep p 4 then
    if x.cls.toNat ≠ s.strap p then s.trainFail p 0x05
    else
      let s := (s.keepPartner p x).sendTrainId p true
      if x.ack then (s.onPort p fun q => { q with step := 5, calibRun := 0 }).sendTrainTime p else s
  else if s.inStep p 5 ∨ s.inStep p 6 then (s.keepPartner p x).sendTrainId p true
  else s

/-- TRAIN_ID (R363, R365, R369). -/
def takeTrainId (c : RxCell) (s : State) : Res :=
  linkRow c (fun h _ => h.type.toNat == 0x08) (fun _ pay s => s.gotTrainId c.port (PartnerId.ofPayload pay)) s

/-! ## Step 5: calibration (R367, R369, R376) -/

/-- A latency that is congruent to d modulo 64 and as near as may be to half of sigma. -/
def calibLatency (d sigma : Int) : Int :=
  let a0 := d % 64
  let i := (sigma - 2 * a0) / 128
  let x := a0 + 64 * i
  let y := x + 64
  if (2 * x - sigma).natAbs ≤ (2 * y - sigma).natAbs then x else y

/-- What one round trip gives: latency out and in, and the own clock minus the partner's. -/
structure Calib where
  lOut : Int
  lIn : Int
  offset : Int
deriving DecidableEq, Repr

/-- The round trip of R367 from this end: `dOut` is the partner's clock minus the own over the own cell, `dIn` the reverse. -/
def Calib.ofTrip (dOut dIn : Int) : Calib :=
  let l := calibLatency dOut (dOut + dIn)
  { lOut := l, lIn := dOut + dIn - l, offset := l - dOut }

/-- Class O takes the round trip alone (R376). -/
def Calib.ofRound (dOut dIn : Int) : Calib := { lOut := (dOut + dIn) / 2, lIn := (dOut + dIn) / 2, offset := 0 }

/-- The reason for which a calibration fails; class O has none. -/
def State.calibFault (s : State) (p : Nat) (c : Calib) : Option Nat :=
  let limit := 4 * (s.cfg.portBudget p : Int)
  if s.cfg.portClass p = 4 then none
  else if 32 < (c.lOut - c.lIn).natAbs then some 0x06
  else if limit < c.lOut ∨ limit < c.lIn then some 0x07
  else none

/-- Count identical exchanges. -/
def State.countCalib (s : State) (p : Nat) (c : Calib) : State :=
  s.onPort p fun q =>
    let same := decide (0 < q.calibRun ∧ q.calibL = c.lIn.toNat ∧ q.calibLOut = c.lOut.toNat)
    { q with calibL := c.lIn.toNat, calibLOut := c.lOut.toNat, calibRun := if same then q.calibRun + 1 else 1 }

/-- Padding of a port of class P, B or K (R369). -/
def State.setPad (s : State) (p : Nat) : State :=
  if s.cfg.portClass p = 4 then s
  else s.onPort p fun q =>
    { q with pad := ((4 * (s.cfg.portBudget p : Int) + 44 - (q.lIn + q.partnerPhi : Nat)) / 5).toNat }

/-- Keep a calibration. -/
def State.keepCalib (s : State) (p : Nat) (c : Calib) : State :=
  s.onPort p fun q => { q with lIn := c.lIn.toNat, lOut := c.lOut.toNat, clockOffset := c.offset, frameOff := (c.offset / 64 % 5).toNat }

/-- The resulting state of this end, in a TRAIN_DONE (R363). -/
def State.sendTrainDone (s : State) (p : Nat) : State :=
  s.send { port := p, slot := none, hdr := s.linkHdr 0x0A, payload := payloadOf [(0, 1, (s.upState p).1.code)] }

/-- The end of step 5: a port that is trained after the ready message waits for a wiring check. -/
def State.calibrated (s : State) (p : Nat) (c : Calib) : State :=
  let s := ((s.keepCalib p c).setPad p).onPort p fun q => { q with step := 6, unchecked := s.boot.ready }
  s.sendTrainDone p

/-- The end of a repeated calibration: a latency that moved by more than 16 ROOT_CK cycles takes the port down; a new one pads the port from
the edge on (R369). -/
def State.recalibrated (s : State) (p : Nat) (c : Calib) : State :=
  let q := s.portAt p
  if (c.lIn - q.lIn).natAbs ≤ 16 ∧ (c.lOut - q.lOut).natAbs ≤ 16 then s.keepCalib p c else s.pairLost p 0x07

/-- A round trip in step 5, or on an UP port while a synchronisation is under way. -/
def State.gotTrip (s : State) (p : Nat) (c : Calib) : State :=
  match s.calibFault p c with
  | some r => if s.inStep p 5 then s.trainFail p r else s.pairLost p r
  | none =>
    let s := s.countCalib p c
    if (s.portAt p).calibRun = 16 then (if s.inStep p 5 then s.calibrated p c else s.recalibrated p c) else s

/-- Does the port calibrate: step 5, or an UP port of classes P, B and K before a synchronisation edge? -/
def State.calibrates (s : State) (p : Nat) : Bool :=
  s.inStep p 5 || (s.isUp p && s.cfg.portClass p != 4 && s.coll.syncTarget.isSome)

/-- Is a TRAIN_TIME answered? -/
def State.answersTime (s : State) (p : Nat) : Bool :=
  s.inStep p 5 || s.inStep p 6 || (s.carries p && s.coll.syncTarget.isSome)

/-- A TRAIN_TIME received at root time `tRx`: after an edge the first one gives the phase with which the port is padded (R369). A payload
without an echo makes no round trip. -/
def State.gotTrainTime (s : State) (p tRx : Nat) (pay : Bytes) : State :=
  let tTx := payNum pay 0 8
  let echo := payNum pay 8 8
  let rx := payNum pay 16 8
  let s := s.untilLocal (tRx / 4)
  let s := s.onPort p fun q => { q with lastTRx := some (tTx, tRx), partnerPhi := payByte pay 24 }
  let s := if (s.portAt p).padDue then (s.setPad p).onPort p fun q => { q with padDue := false } else s
  let s := if s.calibrates p ∧ (echo ≠ 0 ∨ rx ≠ 0) then
      let dOut := (rx : Int) - echo
      let dIn := (tRx : Int) - tTx
      s.gotTrip p (if s.cfg.portClass p = 4 then Calib.ofRound dOut dIn else Calib.ofTrip dOut dIn)
    else s
  if s.answersTime p then s.sendTrainTime p else s

/-- TRAIN_TIME (R363, R367, R369). -/
def execTrainTime (c : RxCell) (tRx : Nat) (s : State) : Res :=
  linkRow c (fun h _ => h.type.toNat == 0x09) (fun _ pay s => s.gotTrainTime c.port tRx pay) s

/-! ## Step 6 -/

/-- A TRAIN_DONE in step 6: a partner that is MAINT_ONLY makes this end MAINT_ONLY; one that is neither ends training. -/
def State.gotTrainDone (s : State) (p code : Nat) : State :=
  if s.inStep p 6 then
    if code = 3 ∨ code = 4 then
      let s := if code = 3 ∧ (s.upState p).1 = .up then s.onPort p fun q => { q with unchecked := true } else s
      ((s.settlePort p).onPort p fun q => { q with trainedAt := s.clk.localTime, calibRun := 0 }).trainingEnded
    else s.trainFail p 0x04
  else s

/-- TRAIN_DONE (R363). -/
def execTrainDone (c : RxCell) (s : State) : Res :=
  linkRow c (fun h _ => h.type.toNat == 0x0A) (fun _ pay s => s.gotTrainDone c.port (payByte pay 0)) s

/-! ## The limit of training, loss and retraining -/

/-- The training limit of a port in CK_V cycles: 5 ms, or 20 ms on class O (R101, R363). -/
def State.trainLimit (s : State) (p : Nat) : Nat := if s.cfg.portClass p = 4 then 32000000 else 8000000

/-- TRAINING_LIMIT_EXPIRY (R104, R106, R363): the port goes down with the reason of its failing step, its ring partner with it. -/
def execTrainingLimitExpiry (port : Nat) (s : State) : Res :=
  let q := s.portAt port
  whenTrue (decide (port < s.cfg.nPort) && q.state == .training && q.phyEn) s
    ((s.untilLocal (q.lastTry + s.trainLimit port)).trainFail port (if q.failReason = 0 then 0x04 else q.failReason.toNat))

/-- Does a count of receive clock edges in one CK_T cycle lie within the port's range: 12 or 13, and on class O 12 to 14 (R87)? -/
def State.edgesFit (s : State) (p edges : Nat) : Bool := decide (12 ≤ edges ∧ edges ≤ if s.cfg.portClass p = 4 then 14 else 13)

/-- PORT_LOSS (R70, R87, R372): a trained port goes down, its ring partner with it; a training port waits for PHY_RDY again. Edges are counted
while the receive clock is enabled. -/
def execPortLoss (port : Nat) (cause : LossCause) (s : State) : Res :=
  let q := s.portAt port
  let falls : Bool := match cause with | .los => true | .rate n => q.phyEn && !s.edgesFit port n
  if q.trained then
    match cause with
    | .los => .next (((s.onPort port fun q => { q with los := true }).pairLost port 0x09).trainingEnded)
    | .rate _ => whenTrue falls s ((s.pairLost port 0x0A).trainingEnded)
  else whenTrue (q.state == .training && q.phyRdy && falls) s
    (s.onPort port fun q => { q with phyRdy := false, step := 1, idleRun := 0, alignRun := 0 })

/-- May a down port be trained again (R363, R373, R379, R382)? -/
def State.mayRetrain (s : State) (p : Nat) : Bool :=
  let q := s.portAt p
  let ok (p : Nat) : Bool := s.strapValid p && (s.portAt p).ctl.getLsbD 0 && (s.portAt p).reason != 0x08
  decide (p < s.cfg.nPort) && s.aon.power.serves && !s.unlocked 9 && s.kol.running && !s.kol.fwHalted && q.state == .down && ok p
    && match s.cfg.pairOf p, s.cfg.ringPartner p with
       | some i, some r => !(s.pairHeld.getD i false) && s.aon.bypass.getD i true && ok r
       | _, _ => true

/-- PORT_RETRAIN (R363): at most once every 10 ms; a port that may not train any longer when that time has come stays down. -/
def execPortRetrain (port : Nat) (s : State) : Res :=
  let t := s.untilLocal ((s.portAt port).lastTry + 16000000)
  whenTrue (s.mayRetrain port) s (if t.mayRetrain port then t.retrain port else t)

/-- BYPASS_SWITCH_WAIT (R72, R106): 200 AON_CK cycles after a pair has left bypass, both its ports begin training. -/
def execBypassSwitchWait (pair : Nat) (s : State) : Res :=
  let (a, b) := s.cfg.pairPorts pair
  let waits (p : Nat) : Bool := (s.portAt p).state == .training && !(s.portAt p).phyEn
  whenTrue (decide (pair < s.cfg.nPair) && !(s.aon.bypass.getD pair true) && waits a && waits b) s
    (((s.untilLocal ((s.portAt a).lastTry + 3200)).startTraining a).startTraining b)

end Sys2Proof.Machine
end

