-- ==== Sys2Proof/Machine/Cells.lean ====
section
/-! DEFINITION. Scheduled cells (15 R358, R370, R371, R375; 16 R400, R401, R404, R406; 07 R186): data, tags, barriers, votes, decisions,
aborts, idle cells, poisoned and missing cells, and federation bundles. -/

namespace Sys2Proof.Machine

/-! ## Poisoned cells (R358) -/

/-- POISON (R358): a POISON cell, or one that cannot be corrected. The row gives it no wait: it comes with the calibrated latency, and that wait
is recorded (R369, R371; notes/assumptions/107). -/
def takePoison (port slot : Nat) (s : State) : Res :=
  whenTrue (s.receives port) s
    ((((s.arrive port slot).recordWait port (s.fixedWait port slot)).onPort port fun q => { q with poisoned := sat16 q.poisoned }).poisonAt port slot)

/-! ## Missing cells (R370, R372) -/

/-- No cell came in a control slot of a running epoch (R406). -/
def State.controlMissing (s : State) (d p slot : Nat) : State :=
  ((((s.until (s.stampAt p slot)).markSlot d p slot)).countMissing p).abortEpoch d 0x23 none

/-- CELL_STAMP_EXPIRY (R186, R370, R372, R406): a slot's stamp passes without its cell; on class O only a lost port's cells are missing. A slave
that gets no cell in a federation slot has lost a bundle's. -/
def execCellStampExpiry (port slot : Nat) (s : State) : Res :=
  if s.slave && s.fedSlot port slot then .next ((s.until (s.stampAt port slot)).fedLost)
  else
    match s.chanDom port with
    | some d =>
      match s.openSlot d port slot with
      | some u =>
        if s.cfg.portClass port ≠ 4 then .next ((s.until (s.stampAt port slot)).slotMissing d port slot u)
        else whenTrue (!(s.portAt port).trained) s (s.slotMissing d port slot u)
      | none =>
        whenTrue (s.stamped port && s.controlUse d port slot && !s.slotMarked d port slot) s (s.controlMissing d port slot)
    | none => .next s

/-- RESERVED_TYPE_CELL (R354): discarded and counted. -/
def takeReserved (c : RxCell) (s : State) : Res :=
  slotRow c (fun h _ => decide (h.type.toNat = 0x07 ∨ h.type.toNat = 0x0B ∨ 0x0F ≤ h.type.toNat)) (fun _ _ s => s.stray c.port c.slot true) s

/-- IDLE_CELL (R363, R371, R375): it counts toward step 3; in a channel's slot it stands for a missing cell. -/
def takeIdle (c : RxCell) (s : State) : Res :=
  slotRow c (fun h _ => h.type.toNat == 0) (fun _ _ s =>
    let t := s.goodCell c.port
    match t.chanDom c.port with
    | some d =>
      match t.openSlot d c.port c.slot with
      | some u => t.slotMissing d c.port c.slot u
      | none => t
    | none => t) s

/-! ## Cells of channels (R370, R371, R400) -/

/-- A scheduled cell outside the window of R361: late, or more than 8 CK_L cycles early. -/
def outOfWindow (w : Int) : Bool := decide (w < 0 ∨ 40 < w)

/-- SCHEDULE_SLIP of a scheduled cell whose wait lies outside the window (R208, R211). A cell that comes early waits for its stamp, where it is
found: TIME is the stamp (DESIGN CHOICE, notes/assumptions/106). -/
def State.slipAt (s : State) (d p slot : Nat) (core : Option Nat) (wait : Int) : State :=
  let stamp := s.stampAt p slot
  let by_ := (-wait) / 4
  let c := s.lastCmd d
  ((s.markSlot d p slot).until ((stamp : Int) + by_).toNat).haltNow d fun s => s.runtimeHalt d
    { reason := 1, stream := 4, idx := c.1, off := c.2, core := core, detail := signed32 by_, stamp := stamp }

/-- SCHEDULE_SLIP of a channel's cell, on the home core of a delivering circuit's entry (R208). -/
def State.cellSlip (s : State) (d p slot : Nat) (u : SlotUse) (wait : Int) : State :=
  let core := (u.circ.deliversTo s.coll.logicalId.toNat).bind fun e =>
    let g := (s.entry e).home
    if g / s.cfg.nActive = s.boot.straps.dieId.toNat then some (g % s.cfg.nActive) else none
  s.slipAt d p slot core wait

/-- Data cells of a circuit that have come on class O. -/
def State.elasticCount (s : State) (d i : Nat) : Nat := lookPair (s.domAt d).cellIdx (elasticKey i)

/-- Data cells of a circuit's inbound transfer. -/
def State.inData (s : State) (c : Circuit) : Nat := (Circuit.dataOf c.inPat.cells (c.gIn s.cfg)).getD c.inPat.cells

/-- The cell of a channel that a class O cell stands for: the circuit from its CHANNEL, the place from the cells that have come (R375). -/
def State.elasticUse (s : State) (d p : Nat) (h : CellHdr) : Option SlotUse :=
  ((s.circuitsIdx d).find? fun (_, c) => c.ins.contains p && h.channel.toNat == c.inChannel s.coll.logicalId.toNat h.dst.toNat).map
    fun (i, c) =>
      let n := max 1 (s.inData c)
      ⟨i, c, s.elasticCount d i / n, Circuit.cellOf (c.gIn s.cfg) (s.elasticCount d i % n)⟩

/-- A class O data cell takes its place in its port's queue of 8; one that finds it full counts as missing (R395). -/
def State.elasticData (s : State) (d p slot : Nat) (u : SlotUse) (h : CellHdr) (n : Nat) (pay : Bytes) : State :=
  if 8 ≤ (s.portAt p).queue.length then s.slotMissing d p slot u
  else (s.bumpKey d (elasticKey u.idx)).acceptData d p u h n pay

/-- A class O cell that is on no channel: of the running epoch and for this chip, but of another tenant or outside the domain's ledger range, it
counts in TENANT_MISMATCH; any other one in MISSING (R138, R370). -/
def State.strayElastic (s : State) (d p : Nat) (h : CellHdr) : State :=
  let ws := s.wordsOf d
  let ours := h.epoch == (s.domAt d).epoch && h.dst == s.coll.logicalId
  if ours && (h.tenant.toNat != s.tenantOf d || !inLedger ws h.channel.toNat) then
    s.onPort p fun q => { q with tenantMismatch := sat16 q.tenantMismatch }
  else s.countMissing p

/-- A channel's cell in its slot: the wait of a stamped cell must lie in the window; on class O the cell's CHANNEL names the channel. -/
def State.chanCell (s : State) (c : RxCell) (h : CellHdr) (act : Nat → SlotUse → State → State) : State :=
  if !(s.isUp c.port && s.inMap c.port) then s.countMissing c.port
  else
    match s.chanDom c.port with
    | none => s.countMissing c.port
    | some d =>
      if s.cfg.portClass c.port = 4 then
        match s.elasticUse d c.port h with
        | some u => if u.t < u.circ.transfers then act d u s else s.slotMissing d c.port c.slot u
        | none => s.strayElastic d c.port h
      else
        match s.openSlot d c.port c.slot with
        | some u => if outOfWindow c.wait then s.cellSlip d c.port c.slot u c.wait else act d u s
        | none => if s.slotMarked d c.port c.slot then s else s.countMissing c.port

/-- Check a channel's cell; one that passes is accounted for and acts, and an epoch that waits to vote may then do so. -/
def State.checked (s : State) (d : Nat) (c : RxCell) (u : SlotUse) (h : CellHdr) (data : Bool) (n : Nat) (seq : Option Nat)
    (act : State → State) : State :=
  match s.rxCheck d u h (s.cfg.portClass c.port != 4) data n seq with
  | .pass => (act (s.markSlot d c.port c.slot)).voteUp d
  | x => s.rxFail d c.port c.slot u x

/-- DATA (R370): checked, then delivered, relayed or reduced. -/
def takeData (c : RxCell) (s : State) : Res :=
  slotRow c (fun h _ => h.type.toNat == 1) (fun h pay s => s.chanCell c h fun d u s =>
    let g := u.circ.gIn s.cfg
    let o := s.cfg.portClass c.port == 4
    if !o && isTagCell g u.circ.inPat.cells u.k then s.slotMissing d c.port c.slot u
    else
      let n := dataIndex g u.k
      s.checked d c u h true n (some (u.t * s.inData u.circ + n)) fun s =>
        if o then s.elasticData d c.port c.slot u h n pay else s.acceptData d c.port u h n pay) s

/-- A failed tag counts as a poisoned cell (R146). -/
def State.tagFail (s : State) (d p slot : Nat) : State :=
  ((s.markSlot d p slot).onPort p fun q => { q with poisoned := sat16 q.poisoned }).abortEpoch d 0x24 none

/-- TAG (R146): the tag of a group is checked with its counter, and confirms the group. -/
def takeTag (c : RxCell) (s : State) : Res :=
  slotRow c (fun h _ => h.type.toNat == 2) (fun h pay s => s.chanCell c h fun d u s =>
    if s.cfg.portClass c.port ≠ 4 ∧ !isTagCell (u.circ.gIn s.cfg) u.circ.inPat.cells u.k then s.slotMissing d c.port c.slot u
    else
      s.checked d c u h false 0 none fun s =>
        match (s.domAt d).groups.find? fun y => y.circuit == u.idx && y.port == c.port with
        | some grp =>
          if s.tagHolds d grp pay then
            s.onDom d fun y => { y with groups := y.groups.filter fun z => !(z.circuit == u.idx && z.port == c.port) }
          else s.tagFail d c.port c.slot
        | none => s.tagFail d c.port c.slot) s

/-- Does a BARRIER cell's fingerprint equal the domain's (R401)? -/
def State.printHolds (s : State) (d : Nat) (pay : Bytes) : Bool := payNum pay 8 8 == (s.domAt d).fingerprint.toNat

/-- CHANNEL_BARRIER (R400, R401): counted in the entry's tally, sent on, or joined with a reduction's other sources. -/
def takeChannelBarrier (c : RxCell) (s : State) : Res :=
  slotRow c (fun h pay => h.type.toNat == 3 && payByte pay 0 != 1 && payByte pay 0 != 2) (fun h pay s => s.chanCell c h fun d u s =>
    s.checked d c u h false 0 (some u.t) fun s =>
      if !s.printHolds d pay then s.abortEpoch d 0x25 none
      else
        let k := u.circ
        let s := if s.cfg.portClass c.port = 4 then s.bumpKey d (elasticKey u.idx) else s
        match k.role with
        | 1 => s.deliverBarrier d u.idx k k.dstChannel
        | 2 => (if k.xdeliv then s.deliverBarrier d u.idx k k.loc else s).sendBarrier d k h.src u.t pay
        | 3 => s.addBarrier d u.idx k u.t (1 + ((List.range 3).find? fun i => k.inPorts.getD i 0x3F == c.port).getD 0)
        | _ => s) s

/-! ## Control cells (R401, R404, R406) -/

/-- The domain whose epoch a control cell belongs to: the port's, in a control slot, with its EPOCH and TENANT, on a port that carries the
domain's scheduled cells (R373, R374, R401). -/
def State.controlDom (s : State) (c : RxCell) (h : CellHdr) : Option Nat :=
  (s.portDomain c.port).filter fun d =>
    let x := s.domAt d
    s.carriesFor d c.port && x.state != .idle && s.controlUse d c.port c.slot && h.epoch == x.epoch
      && h.tenant.toNat == s.tenantOf d

/-- A control cell acts when it is available, and slips outside its window (R361, R371); another epoch's or tenant's, or one outside a control
slot, is discarded and counted. -/
def State.controlCell (s : State) (c : RxCell) (h : CellHdr) (act : Nat → State → State) : State :=
  match s.controlDom c h with
  | some d =>
    if s.stamped c.port && outOfWindow c.wait then s.slipAt d c.port c.slot none c.wait else act d (s.avail c.port c.slot)
  | none => s.stray c.port c.slot true

/-- A BARRIER cell in a control slot: one with another fingerprint aborts the epoch, whatever its KIND (R401). -/
def State.barrierCell (s : State) (c : RxCell) (h : CellHdr) (pay : Bytes) (act : Nat → State → State) : State :=
  s.controlCell c h fun d s =>
    if !(s.domAt d).state.live then s else if !s.printHolds d pay then s.abortEpoch d 0x25 none else act d s

/-- ABORT (R406): of the current epoch; duplicates are ignored. -/
def takeAbortCell (c : RxCell) (s : State) : Res :=
  slotRow c (fun h _ => h.type.toNat == 4) (fun h pay s => s.controlCell c h fun d s =>
    s.abortEpoch d (payByte pay 0) (some (payNum pay 2 2, payNum pay 8 8))) s

/-- BARRIER_VOTE (R401, R404): a child's vote. -/
def takeVote (c : RxCell) (s : State) : Res :=
  slotRow c (fun h pay => h.type.toNat == 3 && payByte pay 0 == 1) (fun h pay s => s.barrierCell c h pay fun d s =>
    let child := match (s.domAt d).activeJob with | some j => j.childMask.testBit c.port | none => false
    if !child then s.countMissing c.port
    else
      let vote : Nat × Nat × Option Nat := (c.port, payNum pay 6 2 + 1, if payByte pay 1 = 1 then none else some (payByte pay 2))
      (s.onDom d fun x => { x with childVotes := x.childVotes.filter (fun v => v.1 != c.port) ++ [vote] }).voteUp d) s

/-- BARRIER_DECISION (R401, R404): the parent's decision is forwarded to the children and acted on. -/
def takeDecision (c : RxCell) (s : State) : Res :=
  slotRow c (fun h pay => h.type.toNat == 3 && payByte pay 0 == 2) (fun h pay s => s.barrierCell c h pay fun d s =>
    match (s.domAt d).activeJob with
    | some j =>
      if j.parentPort ≠ c.port ∨ (payByte pay 1 = 1 ∧ (s.domAt d).state ≠ .voting) then s.countMissing c.port
      else
        let s := (portsOf j.childMask).foldl (fun s p => s.sendControl d 0x03 p s.clk.rackTime pay) s
        if payByte pay 1 = 1 then s.commitDecided d
        else s.abortEpoch d (payByte pay 2) (some (payNum pay 4 2, s.clk.rackTime))
    | none => s.countMissing c.port) s

/-! ## Federation (R186) -/

/-- The release that a slave's first bundle announces: a start time on the grid of R195 whose fetch, 240 CK_V cycles before the release of command
0, has the bundle's first federation slot as its next one (R36, R186). A command that waits on a ledger tally is released 10 cycles after the
start (R209). -/
def fedStart (nSlice slot : Nat) (waits : Bool) : Option Nat :=
  let hi := slotStart slot + 176 - (if waits then 10 else 0)
  ((List.range 20).map fun k => hi - k).find? fun x => x % nSlice == 0

/-- A whole bundle has come for sequencer q: it follows those of the running program, or is the first of an epoch, which EPOCH_RELEASE then
starts (R35, R186). -/
def State.bundleWhole (s : State) (q slot : Nat) (epoch : BitVec 8) (bytes : Bytes) : State :=
  let x := s.seqAt q
  if x.run.isSome || x.runq.any RunEntry.isRelease then s.onSeq q fun x => { x with fed := x.fed ++ bytes }
  else
    let waits := !(Cmd.ofBytes 0 0 bytes).ledgerWaits.isEmpty
    match fedStart s.cfg.nSlice slot waits with
    | some start => s.onSeq q fun x => { x with fed := bytes, runq := x.runq ++ [.release start epoch none 0 0 0] }
    | none => s

/-- A bundle's cell for sequencer q: its bytes, after those of a cell before it (R153, R186). -/
def State.bundleCell (s : State) (q slot : Nat) (h : CellHdr) (pay : Bytes) : State :=
  let bytes := ((s.fedIn.find? fun x => x.1 == q).map (·.2)).getD [] ++ pay
  let len := (Hdr.ofNat (leNat (bytes.take 4))).len
  let rest := s.fedIn.filter fun x => x.1 != q
  if bytes.length < len then { s with fedIn := rest ++ [(q, bytes)] }
  else { s with fedIn := rest }.bundleWhole q (if len ≤ 224 then slot else slot - 8) h.epoch (bytes.take len)

/-- The sequencer of a bundle cell: that of the domain whose FABRIC_TENANT it carries (notes/assumptions/74). -/
def State.fedSeq (s : State) (h : CellHdr) : Option Nat :=
  (List.range s.cfg.nSeq).find? fun d => (s.partAt d).liveNow && s.tenantOf d == h.tenant.toNat

/-- BUNDLE (R35, R36, R186): a slave takes bundle cells in federation slots and expands them; elsewhere the cell is discarded and counted. -/
def takeBundleCell (c : RxCell) (s : State) : Res :=
  slotRow c (fun h _ => h.type.toNat == 5) (fun h pay s =>
    if s.slave ∧ s.fedSlot c.port c.slot then
      match s.fedSeq h with
      | some q => (s.avail c.port c.slot).bundleCell q c.slot h pay
      | none => s.avail c.port c.slot
    else s.stray c.port c.slot true) s

end Sys2Proof.Machine
end

