-- ==== Sys2Proof/Machine/Commit.lean ====
section
/-! DEFINITION. The end of a commit and of a local rollback, and the barrier watchdogs (16 R405, R407, R408). -/

namespace Sys2Proof.Machine

/-! ## Commit (R405) -/

/-- Bytes and lines of an entry's shadow region: each transfer in whole lines (R391). -/
def State.shadowLines (s : State) (d e : Nat) : Nat :=
  let en := s.entry e
  let ts := (s.circuitsIdx d).filterMap fun (_, c) =>
    if c.deliversTo s.coll.logicalId.toNat = some e then some c.transfers else none
  ts.foldl max 0 * ((en.count * s.entryWidth e + 4095) / 4096)

/-- Copy a KEEP entry's shadow region to its landing region through the home core, one line per grant from cycle t on; the cycle of the last
write. -/
def State.copyEntry (s : State) (d : Nat) (a : Mem × Option Nat) (e : Nat) : Mem × Option Nat :=
  let en := s.entry e
  let env := s.env d (s.wordsOf d) none 0
  let x := env.pos ((env.ranks.find? fun k => (env.pos k).die * s.cfg.nActive + (env.pos k).idx == en.home).getD 0)
  (List.range (s.shadowLines d e)).foldl (fun (a : Mem × Option Nat) k =>
    let from_ := match a.2 with
      | some t => t + 1
      | none => (s.domAt d).commitTime
    (a.1.writeBytes ((en.landLine + k) * 512) (a.1.readBytes ((en.shadowLine + k) * 512) 512),
      some (grantAt s.cfg x (en.landLine + k) from_))) a

/-- The commit actions end: copies written, checkpoint words cleared, EPOCH_END OK, the sequencer idle. -/
def State.finishCommit (s : State) (d : Nat) : State :=
  let (m, last) := (s.keepEntries d).foldl (fun a e => s.copyEntry d a e) (s.sp, none)
  let t := last.getD (s.domAt d).commitTime
  let s := ({ s with sp := m }).until t
  let s := s.clearCheckpoints d
  let s := s.onDom d fun c => { c with state := .idle, lastCommit := c.epoch, commitValid := true, childVotes := [], cellIdx := [], reduce := [] }
  match (s.seqAt d).run with
  | some r => ((s.endPart d r false 0 t).onSeq d fun q => { q with run := none }).applyIdentities
  | none => s

/-- COMMIT_COPY_DONE (R405): a halted block writes no line (R79). -/
def execCommitCopyDone (dom : Nat) (s : State) : Res := whenTrue ((s.domAt dom).state == .committing && s.aon.power.serves) s (s.finishCommit dom)

/-! ## Local rollback (R407) -/

/-- Has every counter exchange of an abort been made? A port that no longer carries cells waits for none. -/
def State.countersDone (s : State) (d : Nat) : Bool := (s.domAt d).counterWait.all fun p => !s.carries p

/-- Restore what an epoch changed: the ledger from its checkpoint words, the bytes that arrivals wrote into shadow regions, tallies, flags,
predicates and sheaves (R351, R407, R410). -/
def State.restoreEpoch (s : State) (d : Nat) : State :=
  let s := match (s.seqAt d).run with
    | some r =>
      let s := { s with sp := s.sp.overlay r.undo }
      (r.tally0.foldl (fun (s : State) (x : Nat × Nat) => s.setEntry x.1 ((s.entry x.1).setTally x.2)) s).onRun d fun r => { r with undo := [] }
    | none => s
  let s := (s.restoreLedger d).clearSheaves d
  s.onSeq d fun q => { q with flags := 0, tallies := List.replicate 32 0, preds := 0 }

/-- LOCAL_ROLLBACK_DONE (R407): the ledger is restored, the coupler's abort and the counter exchange are complete; ROLLED goes to the root. -/
def execLocalRollbackDone (dom : Nat) (s : State) : Res :=
  let waits := s.coup.abortWait && s.coup.owner.toNat == dom
  whenTrue ((s.domAt dom).state == .aborting && s.countersDone dom && !waits) s
    ((((s.restoreEpoch dom).onDom dom fun c => { c with state := .rolled }).sendRolled dom).rootCount dom)

/-! ## Watchdogs (R408) -/

/-- BARRIER_WD in CK_V cycles; 32,000 without a job. -/
def State.barrierWd (s : State) (d : Nat) : Nat :=
  match (s.domAt d).activeJob with
  | some j => j.barrierWd
  | none => 32000

/-- DECISION_WATCHDOG (R408): no decision within BARRIER_WD of END completion. A block halted on a lost clock is silent (R432). -/
def execDecisionWatchdog (dom : Nat) (s : State) : Res :=
  whenTrue ((s.domAt dom).state == .voting && s.aon.power.serves) s ((s.until ((s.domAt dom).endTime + s.barrierWd dom)).abortEpoch dom 0x26 none)

/-- ROLLBACK_WATCHDOG (R351, R402, R408): no ROLLBACK_DONE within BARRIER_WD of the abort: the ledger is restored if it has not been, EPOCH_END
ABORTED with PARTITION_LOSS, IDLE, the fatal alarm, HALTED. -/
def State.partitionLost (s : State) (d : Nat) : State :=
  let s := s.until ((s.domAt d).abortTime + s.barrierWd d)
  let s := s.onDom d fun c => { c with reason := 0x28, remote := false, origin := s.coll.logicalId }
  let s := if (s.domAt d).state = .aborting then s.restoreEpoch d else s
  (s.rollbackComplete d (s.domAt d).abortDetail s.clk.rackTime).fatalNow 0x06 none

/-- ROLLBACK_WATCHDOG. -/
def execRollbackWatchdog (dom : Nat) (s : State) : Res :=
  whenTrue (((s.domAt dom).state == .aborting || (s.domAt dom).state == .rolled) && s.aon.power.serves) s (s.partitionLost dom)

end Sys2Proof.Machine
end

