-- ==== Sys2Proof/Machine/Coupler.lean ====
section
/-! DEFINITION. The matrix coupler's epilogue side (02 R64-R66; 13 R321-R329): beats against MC_HOLD, the generation and their modelled cycles,
drains, landings with their stages and sums, and what is missing at its deadline. -/

namespace Sys2Proof

/-! ## Epilogue stages (R317, R323, R325) -/

/-- Element k of a position's epilogue stream after the stages, and the value that a REDUCE takes (R325). `vec` reads an element of a
stage's vector. -/
def epilogueEl (ch : Chain) (vec : Stage → Nat → Nat) (k x : Nat) : El × Option El :=
  let t := k / ch.sheafElems
  let row := t * ch.rows + k % ch.sheafElems / ch.cols
  let col := k % ch.sheafElems % ch.cols
  let f := ch.ecfFmt
  let at_ (s : Stage) : Nat := if s.op = 6 ∨ s.op = 8 then row else col
  let step (a : El × Option El) (s : Stage) : El × Option El :=
    if s.op = 10 then (a.1, some (termEl f (Chain.fmtOf s.fmt) false a.1))
    else
      (stageEl f ch.imm s (decodeElem (Chain.fmtOf s.fmt) (vec s (at_ s))) a.1, a.2)
  ch.epi.foldl step (entryEl (Chain.fmtOf ch.epiFmt) f false x none, none)

/-- The landed element: rounded to SHEAF_FMT. -/
def landEl (ch : Chain) (e : El) : El := roundEl (Chain.fmtOf ch.sheafFmt) .rne false (ch.sheafFmt == (if ch.ecf then 1 else 0)) e

/-- Row sums, then column sums, of a REDUCE over the values in ascending element number (R325). -/
def reduceSums (ch : Chain) (s : Stage) (vs : List El) : List El :=
  let f := Chain.fmtOf s.fmt
  let sum (l : List El) : El := (reduceTerms (addEl f false) l).getD { v := .zero }
  let rows := chunksOf ch.cols vs
  let tiles := chunksOf ch.rows rows
  let bySums := if s.immi.testBit 0 then rows.map sum else []
  let byCols := if s.immi.testBit 1 then
      tiles.flatMap fun tile => (List.range ch.cols).map fun c => sum (tile.filterMap fun row => row[c]?)
    else []
  bySums ++ byCols

/-- The bits of element k of position g in the beats of a generation (R323). -/
def beatElem (ch : Chain) (data : List Bytes) (g k : Nat) : Nat :=
  let e := ch.laneElems
  leNat (((data.getD (k / e) []).drop (64 * g + k % e * (ch.we / 8))).take (ch.we / 8))

/-- What a position lands: the bytes of its landing sheaves, the reduction results, and the elements as EPI_STATUS takes them (R324). -/
def landPosition (ch : Chain) (sheaves : Mem) (data : List Bytes) (g rank : Nat) : Bytes × List Nat × List OutEl :=
  let n := ch.sheafCount * ch.sheafElems
  let vec (s : Stage) (i : Nat) : Nat := sheafElem sheaves g s.sheaf (Chain.fmtOf s.fmt) i
  let rs : List (Nat × El × Option El) := (List.range n).map fun k => (k, epilogueEl ch vec k (beatElem ch data g k))
  let els : List (Nat × El × El) := rs.map fun (k, e, _) => (k, e, landEl ch e)
  let f := Chain.fmtOf ch.sheafFmt
  let bytes := leBytes (4096 * ch.sheafCount) (packBits ch.ws (els.map fun x => encodeElem f x.2.2.v))
  let outs : List OutEl := els.map fun (k, e, y) =>
    { idx := [rank * n + k], row := 0, bits := 0, e := y, special := specialOf [e.v, y.v] }
  match ch.reduce with
  | some s =>
    let sums := reduceSums ch s (rs.filterMap fun x => x.2.2)
    (bytes, sums.map (fun x => encodeElem (Chain.fmtOf s.fmt) x.v),
      outs ++ sums.map fun x => { idx := [0], row := 0, bits := 0, e := x, special := none })
  | none => (bytes, [], outs)

namespace Machine

/-! ## Generations -/

/-- Is a generation open in a cycle: from its first stationary beat to its closing beat (R65)? -/
def Gen.isOpen (g : Gen) (t : Nat) : Bool := decide (g.opened ≤ t) && g.closed.all fun k => decide (t ≤ k)

/-- MC_HOLD in a cycle (R326, R79): 0 while the always-on supply is off. -/
def State.mcHold (s : State) (t : Nat) : Bool :=
  s.aon.power != .off && (holdAtCycle s.coup.ends t || !(s.coup.gens.any fun g => g.isOpen t)
    || (s.aon.power == .halted && decide ((s.domAt s.coup.owner.toNat).abortTime ≤ t)))

/-- Forget generations that have closed, drained and landed; an abort is complete on the coupler's side when none is left (R329). -/
def Coupler.settle (c : Coupler) : Coupler :=
  let gs := c.gens.filter fun g => !(g.over && g.landed)
  { c with gens := gs, abortWait := c.abortWait && !gs.isEmpty }

/-- Change the generation of a number that has not closed or drained. -/
def State.onGen (s : State) (n : BitVec 4) (f : Gen → Gen) : State :=
  s.onCoup fun c => ({ c with gens := c.gens.map fun g => if g.num = n then f g else g } : Coupler).settle

/-- COUPLER_GEN (R66): the coupler's sequencer halts. -/
def State.couplerGen (s : State) : State :=
  let q := s.coup.owner.toNat
  let c := s.lastCmd q
  s.runtimeHalt q { reason := 4, stream := 3, idx := c.1, off := c.2, core := none, detail := 0, stamp := 0 }

/-- SCHEDULE_SLIP of the coupler (R322). -/
def State.couplerSlip (s : State) (q detail stamp : Nat) : State :=
  let c := s.lastCmd q
  s.runtimeHalt q { reason := 1, stream := 3, idx := c.1, off := c.2, core := none, detail := detail, stamp := stamp }

/-- The cycle model, run on over the commands that still bring beats to the newest generation. -/
def runAhead (e : Env) (logical : Nat) : List Cmd → Timing → Timing
  | [], t => t
  | c :: rest, t =>
    if moreBeats (c :: rest) then
      match timeCmd e t c rest logical with
      | some (t', _) => runAhead e logical rest t'
      | none => t
    else t

/-- The modelled cycles of a generation of a running epoch (R321), with the bundles that follow in the program. -/
def State.genCycles (s : State) (g : Gen) : Option (Run × GenCycles × List Cmd) :=
  match (s.seqAt g.seq).run with
  | some r =>
    if (s.domAt g.seq).state == .running then
      let e := s.runEnv g.seq r
      let rest := (s.activeProgram g.seq).drop r.nextIdx
      let t := runAhead e s.coll.logicalId.toNat rest r.timing
      (((r.gens.zip (t.genList e)).filter fun x => x.1 == g.num).getLast?).map fun x => (r, x.2, rest)
    else none
  | none => none

/-- Has the generation's last prologue beat been released: no command that follows brings it more? -/
def Gen.complete (s : State) (g : Gen) (rest : List Cmd) : Bool := g.num != s.coup.lastOpened || !moreBeats rest

/-- The RACK_TIME in which a generation's next epilogue beat comes (R321, R322). -/
def State.beatDue (s : State) (g : Gen) (r : Run) (x : GenCycles) : Nat :=
  if g.beats = 0 then r.start + x.first
  else beatAt s.coup.ends 128 (((s.coup.ends.head?.map (·.1)).getD 0) + 1)

/-! ## Beats and drains -/

/-- The coupler takes a beat: buffered, processed in c cycles, kept until the landing; MC_EPI_LAST closes the generation (R65, R326). -/
def State.takeBeat (s : State) (g : Gen) (t : Nat) (last : Bool) (data : Bytes) : State :=
  let c := (Chain.ofMem s.coup.chains g.seq g.chain).beatCycles
  let fin := max t ((s.coup.ends.head?.map (·.2)).getD 0) + c
  let s := s.onCoup fun x => { x with ends := ((t, fin) :: x.ends).take 8 }
  s.onGen g.num fun y =>
    { y with beats := y.beats + 1, fin := fin, closed := if last then some t else none
             data := if y.landed then [] else y.data ++ [data.take s.cfg.mcBytes] }

/-- A beat of an open generation in cycle t, checked against its modelled cycle and its place (R322). -/
def State.epiBeat (s : State) (g : Gen) (t : Nat) (last : Bool) (data : Bytes) : State :=
  let n := (Chain.ofMem s.coup.chains g.seq g.chain).nBeat
  match s.genCycles g with
  | some (r, x, _) =>
    let due := s.beatDue g r x
    if t = due ∧ last = (g.beats + 1 == n) then (s.until t).takeBeat g t last data
    else
      let detail := if t ≤ due + 1 then signed32 ((t : Int) - due) else 0x80000000
      let s := (s.until (min t (due + 1))).couplerSlip g.seq detail due
      (s.until t).takeBeat g t last data
  | none => (s.until t).takeBeat g t last data

/-- EPILOGUE_BEAT (R64, R66, R322, R326): the engine presents a beat in RACK_TIME `time`. -/
def execEpilogueBeat (time : Nat) (gen : BitVec 4) (last : Bool) (data : Bytes) (s : State) : Res :=
  let t := max s.clk.rackTime time
  whenTrue s.clk.dividers s <|
    if s.mcHold (t - 2) then (s.until t).fatalNow 0x04 none
    else
      match s.coup.gens.find? fun g => g.num == gen && g.isOpen t && g.closed.isNone with
      | some g => s.epiBeat g t last data
      | none => (s.until t).couplerGen

/-- The drain deadline D_n of a generation as RACK_TIME, once its last prologue beat is known (R321). -/
def State.drainDue (s : State) (g : Gen) : Option Nat :=
  match s.genCycles g with
  | some (r, x, rest) => if g.complete s rest then some (r.start + x.d) else none
  | none => none

/-- The drain of a generation is still missing in the cycle after its deadline (R322). -/
def State.drainMissing (s : State) (g : Gen) (due : Nat) : State := (s.until (due + 1)).couplerSlip g.seq 0x80000000 due

/-- MC_DRAIN (R65, R66, R322): generation `gen` has drained; after its deadline it has been missed first. While an abort waits, a generation that
has closed may still drain (R329). -/
def execMcDrain (time : Nat) (gen : BitVec 4) (s : State) : Res :=
  let t := max s.clk.rackTime time
  whenTrue s.clk.dividers s <|
    match s.coup.gens.find? fun g => g.num == gen && !g.drained && (g.isOpen t || s.coup.abortWait) with
    | some g =>
      let s := match s.drainDue g with
        | some due => if due < t then s.drainMissing g due else s
        | none => s
      (s.until t).onGen gen fun g => { g with drained := true }
    | none => if s.coup.owner.toNat < s.cfg.nSeq then (s.until t).couplerGen else s.until t

/-! ## Landing (R323-R326) -/

/-- Land a generation's elements and sums in the sheaves of the owner's positions on this die, and write EPI_STATUS. -/
def State.land (s : State) (g : Gen) (r : Run) : State :=
  let e := s.runEnv g.seq r
  let ch := Chain.ofMem s.coup.chains g.seq g.chain
  let mine := localRanks e
  let res : List (Nat × Bytes × List Nat × List OutEl) := mine.map fun k =>
    ((e.pos k).idx, landPosition ch s.cores.sheaves g.data (e.pos k).idx k)
  let put (m : Mem) (x : Nat × Bytes × List Nat × List OutEl) : Mem :=
    let m := m.writeBytes (65536 * x.1 + 4096 * ch.firstSheaf) x.2.1
    match ch.reduce with
    | some st => m.writeBytes (65536 * x.1 + 4096 * st.sheaf) (x.2.2.1.flatMap fun v => leBytes 4 v)
    | none => m
  let s := s.onCores fun c => { c with sheaves := res.foldl put c.sheaves }
  let rec_ := statusRec false (fun o => o.idx.headD 0) {} (res.flatMap fun x => x.2.2.2)
  let (s, w) : State × W4 :=
    if mine.length = e.ranks.length then (s, rec_)
    else
      let (a, s) := s.fresh
      let (b, s) := s.fresh
      let (c, s) := s.fresh
      let (d, s) := s.fresh
      (s, ⟨a, b, c, d⟩)
  let s := s.onCoup fun c => { c with epiStatus := c.epiStatus.set g.seq w }
  if ch.sigEn then s.onSeq g.seq fun x => x.signal 3 ch.sigTally 1 else s

/-- LANDING_COMPLETE (R326): the oldest closed generation's landing completes four cycles after its last beat's processing. -/
def execLandingComplete (s : State) : Res :=
  match s.coup.gens.find? fun g => g.closed.isSome && !g.landed with
  | some g =>
    match (s.seqAt g.seq).run with
    | some r => .next (((s.until (g.fin + 4)).land g r).onGen g.num fun x => if x.closed.isSome then { x with landed := true, data := [] } else x)
    | none => .next s
  | none => .next s

/-! ## Deadlines (R322, R329) -/

/-- DRAIN_DEADLINE (R322): in the cycle after the deadline the drain is still missing. -/
def execDrainDeadline (s : State) : Res :=
  match s.coup.gens.find? fun g => !g.drained with
  | some g =>
    match s.drainDue g with
    | some due => .next (s.drainMissing g due)
    | none => .next s
  | none => .next s

/-- EPILOGUE_BEAT_NOT_PRESENTED (R322): an epilogue beat's modelled cycle passes without the beat. -/
def execEpilogueBeatNotPresented (s : State) : Res :=
  match s.coup.gens.find? fun g => g.closed.isNone with
  | some g =>
    match s.genCycles g with
    | some (r, x, rest) =>
      let due := s.beatDue g r x
      whenTrue (g.complete s rest) s ((s.until (due + 1)).couplerSlip g.seq 0x80000000 due)
    | none => .next s
  | none => .next s

/-- COUPLER_STUCK (R329): generations are still open 65,536 cycles after the abort. -/
def execCouplerStuck (s : State) : Res :=
  whenTrue s.coup.abortWait s ((s.until ((s.domAt s.coup.owner.toNat).abortTime + 65536)).fatalNow 0x05 none)

end Machine
end Sys2Proof
end

