-- ==== Sys2Proof/Machine/Jobs.lean ====
section
/-! DEFINITION. JOB_LOAD: staging of the parts of a job, the install checks, and the pending job (16 R383-R396, R412). -/

namespace Sys2Proof

/-! ## Circuits as the install checks see them (R390-R396) -/

namespace Circuit

/-- Every port that a circuit names. -/
def ports (c : Circuit) : List Nat := c.ins ++ (if c.hasOut then [c.outPort] else [])

/-- Local entries that a circuit names: a sending entry, a receiving entry. -/
def localEntries (c : Circuit) (logical : Nat) : List Nat := (c.sendsFrom).toList ++ (c.deliversTo logical).toList

/-- Are the ports those that the role needs, and does a DELIVER's DST name the chip (R390)? -/
def portsFit (c : Circuit) (logical : Nat) : Bool :=
  match c.role with
  | 0 => c.ins.isEmpty && c.hasOut
  | 1 => c.inPorts.getD 0 0x3F != 0x3F && c.ins.length == 1 && !c.hasOut && c.dst == logical
  | 2 => c.inPorts.getD 0 0x3F != 0x3F && c.ins.length == 1 && c.hasOut
  | _ => c.inPorts.getD 0 0x3F != 0x3F && c.hasOut != (c.dst == logical)

/-- A pattern's PERIOD and TPERIOD are within their ranges. -/
def patternFits (c : Circuit) (p : Pattern) : Bool := decide (1 ≤ p.period ∧ p.cells * p.period ≤ c.tperiod)

/-- Fields outside their ranges (R390). -/
def badFields (c : Circuit) (cfg : Cfg) (logical : Nat) : Bool :=
  c.ports.any (fun p => decide (cfg.nPort ≤ p)) || decide (16 < c.g) || c.transfers == 0 || !c.portsFit logical
    || (!c.ins.isEmpty && !c.patternFits c.inPat) || (c.hasOut && !c.patternFits c.outPat)

/-- Does a pattern's CELLS differ from the count of R390? -/
def badCells (c : Circuit) (e : Env) (logical : Nat) : Bool :=
  let width (i : Nat) : Nat := ((Fmt.ofCode (e.entry i).efmt).getD .fp32).bits
  let holds (p : Pattern) (i g : Nat) : Bool := p.cells == patternCells (e.entry i).count (width i) g
  match c.role with
  | 0 => !holds c.outPat c.loc (c.gOut e.cfg)
  | 1 => !holds c.inPat c.dstChannel (c.gIn e.cfg)
  | 2 =>
    (c.xdeliv && !holds c.inPat c.loc (c.gIn e.cfg))
      || (dataOf c.inPat.cells (c.gIn e.cfg)).isNone || dataOf c.inPat.cells (c.gIn e.cfg) != dataOf c.outPat.cells (c.gOut e.cfg)
  | _ =>
    (c.reduceWidth e logical).isNone
      || (c.hasOut && (c.reduceCount e logical).any fun n => c.outPat.cells != patternCells n c.accFmt.bits (c.gOut e.cfg))

/-- RESERVED_ENC of an install: a reserved bit, a tag group that does not suit the ports, a format that a REDUCE does not accept or
deliver (R386, R390, R396). -/
def badEnc (c : Circuit) (e : Env) (logical : Nat) : Bool :=
  let secret := c.ports.any fun p => decide (3 ≤ e.cfg.portClass p)
  let fmt (i : Nat) : Fmt := (Fmt.ofCode (e.entry i).efmt).getD .fp32
  c.rsvd || (secret == (c.g == 0))
    || (c.role == 3 && ((c.sendsFrom.any fun i => !c.accepts (fmt i)) || (c.deliversTo logical).any fun i => fmt i != c.accFmt))

/-! ## Slots (R29, R392) -/

/-- Slots of a pattern, from slot j0. -/
def slots (c : Circuit) (p : Pattern) (j0 : Nat) : List Nat :=
  (List.range c.transfers).flatMap fun t => (List.range p.cells).map fun k => c.slot p j0 t k

/-- Does a pattern hold a slot? -/
def holdsSlot (c : Circuit) (p : Pattern) (j0 j : Nat) : Bool :=
  (List.range c.transfers).any fun t =>
    let f := c.slot p j0 t 0
    decide (f ≤ j ∧ (j - f) % (max p.period 1) = 0 ∧ (j - f) / (max p.period 1) < p.cells)

end Circuit

/-- Is a slot reserved on a port (table "Use of transmit slots")? -/
def Env.reservedSlot (e : Env) (jobPorts : Nat) (p j : Nat) : Bool :=
  (jobPorts.testBit p && j % 128 == 126)
    || (e.cfg.portClass p == 1 && decide (e.dies ≠ 1 ∧ p < e.dies ∧ p ≠ e.die) && j % 8 == 7)
    || (e.cfg.portClass p == 4 && j % 1024 == 1023)

/-- Earliest and latest start of outbound cell m of a REDUCE (R393), for transfer t: from the inbound cells that hold its elements. -/
def Env.reduceWindow (e : Env) (c : Circuit) (wi : Nat) (t m : Nat) : Nat × Nat :=
  let wo := c.accFmt.bits
  let n := (Circuit.dataOf c.inPat.cells (c.gIn e.cfg)).getD 1
  let lo := 1792 * m / wo
  let hi := (1792 * (m + 1) + wo - 1) / wo - 1
  let a := min (lo * wi / 1792) (n - 1)
  let b := min ((hi * wi + wi - 1) / 1792) (n - 1)
  let budget := (c.ins.map e.cfg.portBudget).foldl max 0
  let starts := (List.range (b + 1 - a)).map fun k => slotStart (c.slot c.inPat e.j0 t (Circuit.cellOf (c.gIn e.cfg) (a + k))) + budget + 64
  (starts.foldl max 0, starts.foldl max 0 + 160)

/-- Does a circuit break the timing rules that depend on circuits alone (R393)? -/
def Env.badTiming (e : Env) (logical : Nat) (c : Circuit) : Bool :=
  let inO := c.ins.any fun p => e.cfg.portClass p == 4
  (inO && c.role != 1)
    || (inO && (c.deliversTo logical).any fun i => (e.entry i).collCtl % 4 != 3)
    || (c.role == 2 && (List.range c.transfers).any fun t => (c.relayPairs e.cfg).any fun (k, m) =>
          slotStart (c.slot c.outPat e.j0 t m) != slotStart (c.slot c.inPat e.j0 t k) + (c.ins.map e.cfg.portBudget).foldl max 0 + 64)
    || (c.role == 3 && c.hasOut && (List.range c.transfers).any fun t =>
        (List.range ((Circuit.dataOf c.outPat.cells (c.gOut e.cfg)).getD 0)).any fun m =>
          let u := slotStart (c.slot c.outPat e.j0 t (Circuit.cellOf (c.gOut e.cfg) m))
          let w := e.reduceWindow c ((c.reduceWidth e logical).getD 32) t m
          decide (u < w.1 ∨ w.2 < u))

/-- SLOT_CLASH of one circuit against those after it. -/
def Env.slotClash (e : Env) (logical jobPorts : Nat) (c : Circuit) (after : List Circuit) : Bool :=
  let outs := if c.hasOut then c.slots c.outPat e.j0 else []
  (outs.any fun j => after.any fun d => d.hasOut && d.outPort == c.outPort && d.holdsSlot d.outPat e.j0 j)
    || outs.any (e.reservedSlot jobPorts c.outPort)
    || (c.ins.any fun p => (c.slots c.inPat e.j0).any (e.reservedSlot jobPorts p))
    || e.badTiming logical c

namespace Machine

/-! ## The install checks (R386) -/

/-- A route entry's FIRST, LAST, PORT, ALT within their ranges; reserved bits at 0. -/
def routeFits (cfg : Cfg) (w : Word) : Bool :=
  (w &&& ~~~word 0x3F3FFFFFFFFF) == 0 && decide (field w 0 16 ≤ field w 16 16 ∧ field w 32 6 < cfg.nPort)
    && (field w 40 6 == 0x3F || decide (field w 40 6 < cfg.nPort))

/-- Route entries in ascending order without overlap. -/
def routesOrdered : List Word → Bool
  | a :: b :: l => decide (field a 16 16 < field b 0 16) && routesOrdered (b :: l)
  | _ => true

/-- Check 1: fields outside their ranges. -/
def State.jobBadArg (s : State) (j : Job) : Bool :=
  let logical := s.coll.logicalId.toNat
  let w (k : Nat) := j.routes.getD k 0
  let n := j.routes.length
  decide (n < 3 ∨ 1027 < n) || decide (8192 < j.circuits.length)
    || (w 0 &&& ~~~word (2 ^ 54 - 1)) != 0 || (w 1 &&& ~~~word (2 ^ s.cfg.nPort - 1)) != 0 || (w 2 &&& ~~~word (2 ^ s.cfg.nPort - 1)) != 0
    || (j.parentPort != 0x3F && decide (s.cfg.nPort ≤ j.parentPort)) || !(j.routes.drop 3).all (routeFits s.cfg) || !routesOrdered (j.routes.drop 3)
    || (j.circs.any fun c => c.badFields s.cfg logical) || j.seeds.any (fun w => (w &&& ~~~word 0xFFFFFFFF0001FFFF) != 0)
    || ((j.root == logical) != (j.parentPort == 0x3F)) || logical == 0xFFFF

/-- The index of the first circuit that fails a test. -/
def firstCircuit (j : Job) (bad : Circuit → Bool) : Option Nat := j.circs.findIdx? bad

/-- The verdict of the install checks: a Ronno code and DETAIL; code 0 when all hold. -/
def State.jobCheck (s : State) (d : Nat) (j : Job) : Nat × Nat :=
  let ws := (s.partAt d).words
  let logical := s.coll.logicalId.toNat
  let e := s.env d ws (some j) 0
  let mask := partPorts ws
  let fail (code : Nat) (i : Nat) : Nat × Nat := (rVerifyFail, code + i % 65536 * 65536)
  if s.jobBadArg j then (rBadArg, 0)
  else
    match firstCircuit j fun c => c.ports.any fun p => !mask.testBit p with
    | some i => fail vProtPort i
    | none =>
      if (portsOf j.jobPorts).any (fun p => !mask.testBit p) ∨ (j.parentPort ≠ 0x3F ∧ !j.jobPorts.testBit j.parentPort)
          ∨ (portsOf j.childMask).any (fun p => !j.jobPorts.testBit p) then fail vProtPort 0
      else
        match firstCircuit j fun c => (c.localEntries logical).any fun i => !inLedger ws i || (s.entry i).kind != 2 with
        | some i => fail vProtLedger i
        | none =>
          if j.seeds.any (fun w => !inLedger ws (field w 0 17)) then fail vProtLedger 0
          else
            match firstCircuit j fun c => partKeyGen ws == 0 && c.ports.any fun p => decide (3 ≤ s.cfg.portClass p) with
            | some i => fail vProtKey i
            | none =>
              match firstCircuit j fun c => c.badEnc e logical with
              | some i => fail vReservedEnc i
              | none =>
                match firstCircuit j fun c => c.badCells e logical with
                | some i => fail vShape i
                | none =>
                  match (List.range j.circs.length).find? fun i =>
                      (j.circs[i]?).any fun c => e.slotClash logical j.jobPorts c (j.circs.drop (i + 1)) with
                  | some i => fail vSlotClash i
                  | none =>
                    match (List.range s.cfg.nPort).find? fun p =>
                        (j.circs.any fun c => c.ports.contains p) && (!s.isUp p || !wiringMaps s.coll.wiring p) with
                    | some p => (rWiring, p)
                    | none => (0, 0)

/-! ## Staging (R385) -/

/-- The staged part by number. -/
def DomColl.part (c : DomColl) : Nat → Staged
  | 0 => c.wiring
  | 1 => c.routes
  | 2 => c.circuits
  | _ => c.seeds

def DomColl.setPart (c : DomColl) (k : Nat) (x : Staged) : DomColl :=
  match k with
  | 0 => { c with wiring := x }
  | 1 => { c with routes := x }
  | 2 => { c with circuits := x }
  | _ => { c with seeds := x }

/-- Discard every staged part. -/
def DomColl.discard (c : DomColl) : DomColl :=
  { c with wiring := Staged.none, routes := Staged.none, circuits := Staged.none, seeds := Staged.none }

/-- A block as JOB_LOAD reads it. -/
structure Block where
  part : Nat
  job : BitVec 16
  seq : Nat
  last : Bool
  install : Bool
  dom : Nat
  bad : Bool
  body : List Word
deriving DecidableEq, Repr

/-- Read the block at the data offset, of a given length (R383). -/
def State.block (s : State) (r : Req) : Block :=
  let off := field (r.arg 2) 0 12
  let len := field (r.arg 2) 16 13
  let bs := s.dataBytes r.mbox off (min len 4096)
  let w (k : Nat) : Word := word (leNat ((bs.drop (8 * k)).take 8))
  let h := w 0
  { part := field (r.arg 1) 0 4, job := h.setWidth 16, seq := field h 16 8, last := h.getLsbD 24, install := h.getLsbD 25
    dom := field (w 1) 0 3, bad := (h &&& ~~~word 0x3FFFFFF) != 0 || (w 1 &&& ~~~word 7) != 0
    body := (List.range (len / 8 - 2)).map fun k => w (k + 2) }

/-- Bytes of a record of a part (R384). -/
def recordBytes (part : Nat) : Nat := if part = 2 then 32 else 8

/-- Other parts of a domain that hold blocks with another JOB_ID. -/
def DomColl.otherJob (c : DomColl) (b : Block) : Bool :=
  c.jobId != b.job && ((List.range 4).any fun k => (k != b.part || b.seq != 0) && (c.part k).next != 0)

/-- A block out of order (R385). -/
def DomColl.outOfOrder (c : DomColl) (b : Block) : Bool :=
  let p := if b.seq = 0 then Staged.none else c.part b.part
  b.seq != p.next || p.last || c.otherJob b

/-- A domain's staging after a block. -/
def DomColl.stage (c : DomColl) (b : Block) : DomColl :=
  let p := if b.seq = 0 then Staged.none else c.part b.part
  { c.setPart b.part { words := p.words ++ b.body, next := p.next + 1, last := b.last } with jobId := b.job }

/-- The staged job. -/
def DomColl.staged (c : DomColl) : Job :=
  { routes := c.routes.words, circuits := c.circuits.words, seeds := if c.seeds.last then c.seeds.words else [] }

/-! ## INSTALL -/

/-- The seeds of a job take effect at its INSTALL (R384). -/
def State.writeSeeds (s : State) (j : Job) : State :=
  s.writeEntries (j.seeds.map fun w =>
    let i := field w 0 17
    let x := s.entry i
    (i, { x with w3 := bitsOf x.w3 63 32 * 2 ^ 32 + field w 32 32 }))

/-- The staged job is checked and becomes the pending job; the domain's armed bank is unarmed (R386, R387). -/
def State.installJob (s : State) (r : Req) (d : Nat) : State :=
  let c := s.domAt d
  let j := c.staged
  let (code, detail) := if !c.routes.last || !c.circuits.last then (rBadArg, 0) else s.jobCheck d j
  let s := s.onDom d DomColl.discard
  if code ≠ 0 then s.complete r code detail 0 0 0
  else
    let s := (s.onDom d fun c => { c with pendingJob := some j }).onSeq d Sequencer.unarm
    (s.writeSeeds j).refreshFps.answer r rOk

/-! ## JOB_LOAD -/

/-- JOB_LOAD, every part (R383-R388). -/
def runJobLoad (r : Req) (s : State) : State :=
  let off := field (r.arg 2) 0 12
  let len := field (r.arg 2) 16 13
  let b := s.block r
  if 4 ≤ b.part then s.answer r rBadArg
  else if 0x1000 < off + len then s.answer r rBadRange
  else if len < 16 ∨ (len - 16) % recordBytes b.part ≠ 0 ∨ b.bad ∨ s.cfg.nSeq ≤ b.dom then s.answer r rBadArg
  else if (s.issuer r).any (fun d => d != b.dom || b.part == 0) then s.answer r rNotPermitted
  else if s.unlocked 10 ∨ (b.part = 0 ∧ s.unlocked 9) then s.answer r rExpertHeld
  else if b.install ∧ (!b.last ∨ b.part = 0) then s.answer r rBadArg
  else if (s.domAt b.dom).outOfOrder b then (s.onDom b.dom DomColl.discard).answer r rBadArg
  else if b.part = 0 ∧ b.last ∧ s.anyEpoch then s.answer r rBusy
  else
    let s := s.onDom b.dom fun c => c.stage b
    if b.part = 0 ∧ b.last then
      if s.wiringBad (s.domAt b.dom).wiring.words then (s.onDom b.dom fun c => { c with wiring := Staged.none }).answer r rBadArg
      else s.lastWiring r
    else if b.install then s.installJob r b.dom
    else s.answer r rOk

/-- Is a request a JOB_LOAD block of a part that installs nothing, or one that installs? -/
def pickJob (part : Nat → Bool) (install : Bool) (s : State) (r : Req) : Bool :=
  let b := s.block r
  r.opcode.toNat == 0x1A && part b.part && (b.part == 0 || decide (4 ≤ b.part) || b.install == install)

/-- JOB_LOAD of WIRING, and of a reserved part (R384, R388). -/
def execJobLoadWiring (m : Nat) (s : State) : Res := ronno m (pickJob (fun k => k == 0 || decide (4 ≤ k)) false) runJobLoad s
/-- JOB_LOAD of ROUTES without INSTALL (R389). -/
def execJobLoadRoutes (m : Nat) (s : State) : Res := ronno m (pickJob (· == 1) false) runJobLoad s
/-- JOB_LOAD of CIRCUITS without INSTALL (R390). -/
def execJobLoadCircuits (m : Nat) (s : State) : Res := ronno m (pickJob (· == 2) false) runJobLoad s
/-- JOB_LOAD of SEEDS without INSTALL (R384). -/
def execJobLoadSeeds (m : Nat) (s : State) : Res := ronno m (pickJob (· == 3) false) runJobLoad s
/-- JOB_LOAD with INSTALL (R386, R387). -/
def execJobInstall (m : Nat) (s : State) : Res := ronno m (pickJob (fun k => decide (1 ≤ k ∧ k ≤ 3)) true) runJobLoad s

end Machine
end Sys2Proof
end

