-- ==== Sys2Proof/Machine/Experts.lean ====
section
/-! DEFINITION. Expert windows and FENCE_CORE (04 R125, R126; 16 R412, R420; 17 R424-R426). -/

namespace Sys2Proof.Machine

/-! ## EXPERT_UNLOCK and EXPERT_LOCK -/

/-- Capabilities with a window that may be unlocked (R125): all but CONTROL. -/
def hasExpert (id : Nat) : Bool := decide (2 ≤ id ∧ id ≤ 11)

/-- Discard every open load session; the load banks it was open on become EMPTY (R190). -/
def State.dropSessions (s : State) : State :=
  { s with seqs := s.seqs.map fun (q : Sequencer) => if q.session.isSome then { q with session := none, load := .empty } else q }

/-- EXPERT_UNLOCK. -/
def runExpertUnlock (r : Req) (s : State) : State :=
  let id := field (r.arg 1) 0 16
  if !hasExpert id then s.answer r rBadArg
  else if s.unlocked id then s.answer r rOk
  else
    let s := if id = 2 then s.dropSessions else s
    (s.onWin fun w => { w with unlocked := insertNat w.unlocked id }).answer r rOk

/-- The checks of R386 on a pending job at relock: a job that fails is discarded, and COLL_ERR says so (R420). -/
def State.recheckJob (s : State) (d : Nat) : State :=
  match (s.domAt d).pendingJob with
  | none => s
  | some j =>
    if (s.jobCheck d j).1 = 0 then s
    else (s.onDom d fun c => { c with pendingJob := none }).onWin fun w => { w with collErr := w.collErr ||| 2 }

/-- EXPERT_LOCK: Kolate adopts the settings; RES1 is FINGERPRINT[0]. -/
def runExpertLock (r : Req) (s : State) : State :=
  let id := field (r.arg 1) 0 16
  if !hasExpert id then s.answer r rBadArg
  else
    let s := if s.unlocked id then
        let s := s.onWin fun w => { w with unlocked := w.unlocked.filter (· != id) }
        let s := if id = 10 then (List.range s.cfg.nSeq).foldl State.recheckJob s else s
        s.refreshFps
      else s
    s.complete r rOk 0 (s.domAt 0).fingerprint 0 0

/-- EXPERT_UNLOCK (R126). -/
def execExpertUnlock (m : Nat) (s : State) : Res := ronno m (pickOp 0x08) runExpertUnlock s
/-- EXPERT_LOCK (R126). -/
def execExpertLock (m : Nat) (s : State) : Res := ronno m (pickOp 0x09) runExpertLock s

/-! ## FENCE_CORE (R424-R426) -/

/-- State of a physical core. -/
def Cores.stateOf (c : Cores) (k : Nat) : Option CoreState := (c.phys[k]?).map PhysCore.state

/-- Is a physical core a FREE spare? -/
def Cores.freeSpare (c : Cores) (nActive k : Nat) : Bool := decide (nActive ≤ k) && c.stateOf k == some .free

/-- The lowest-numbered FREE spare. -/
def Cores.lowestFree (c : Cores) (nActive : Nat) : Option Nat := (List.range c.phys.length).find? (c.freeSpare nActive)

/-- The spare that an action takes: SPARE 0xF chooses (R425). -/
def Cores.chosen (c : Cores) (nActive g action spare : Nat) : Option Nat :=
  if spare = 0xF then
    match (if action = 0 then c.shadow.getD g none else none) with
    | some k => some k
    | none => c.lowestFree nActive
  else if c.freeSpare nActive (nActive + spare) then some (nActive + spare) else none

/-- DETAIL of BAD_ARG, 0 when the request passes (R426). -/
def State.fenceBad (s : State) (pos action spare : Nat) : Nat :=
  let n := s.cfg.nActive
  let g := pos % n
  let c := s.cores
  if n * (s.boot.straps.fedDies.toNat + 1) ≤ pos then 1
  else if action ≤ 1 ∧ (c.chosen n g action spare).isNone then 2
  else if action = 1 ∧ (c.shadow.getD g none).isSome then 3
  else if action = 2 ∧ (c.shadow.getD g none).isNone then 4
  else if action = 3 ∧ (c.serve.getD g g = g ∨ c.stateOf g ≠ some .fenced ∨ (c.phys[g]?).any PhysCore.byBist) then 5
  else 0

/-- FENCE: the serving core is FENCED, the spare serves; a shadow that serves is a shadow no longer. -/
def Cores.fence (c : Cores) (g k : Nat) : Cores :=
  let old := c.serve.getD g g
  let shadow := if c.shadow.getD g none = some k then c.shadow.set g none else c.shadow
  { c with serve := c.serve.set g k, shadow := shadow, sheaves := c.sheaves.clear (65536 * g) 65536
           phys := (c.phys.modify old fun p => { p with state := .fenced }).modify k fun p => { p with state := .serving } }

/-- RESTORE: the position's own core serves again, the spare is FREE. -/
def Cores.restore (c : Cores) (g : Nat) : Cores :=
  let old := c.serve.getD g g
  { c with serve := c.serve.set g g, sheaves := c.sheaves.clear (65536 * g) 65536
           phys := (c.phys.modify old fun p => { p with state := .free }).modify g fun p => { p with state := .serving } }

/-- An action on a position of this die. -/
def Cores.act (c : Cores) (nActive g action spare : Nat) : Cores :=
  match action with
  | 0 => match c.chosen nActive g 0 spare with | some k => c.fence g k | none => c
  | 1 => match c.chosen nActive g 1 spare with | some k => Cores.setShadow nActive c g (some k) | none => c
  | 2 => Cores.setShadow nActive c g none
  | _ => c.restore g

/-- Does the sequencer whose pens hold a position run an epoch or hold a RELEASE? -/
def State.posBusy (s : State) (pos : Nat) : Bool :=
  match s.posDomain pos with
  | some d => (s.seqAt d).busy
  | none => false

/-- The checks of a FENCE_CORE after BAD_ARG (R426): a code, 0 when it acts. -/
def State.fenceCode (s : State) (pos : Nat) : Nat := if s.unlocked 3 then rExpertHeld else if s.posBusy pos then rNotIdle else 0

/-- FENCE_CORE on a position of another die: its POS_MAP is written there, and whether its cores allow the action, and the word after it, are
free values (notes/assumptions/21). -/
def State.fenceThere (s : State) (r : Req) (pos : Nat) : State :=
  let (w, s) := s.fresh
  if !w.getLsbD 63 then s.complete r rBadArg (2 + w.toNat % 4) 0 0 0
  else if s.fenceCode pos ≠ 0 then s.answer r (s.fenceCode pos)
  else ((s.pass 384).fedSend (pos / s.cfg.nActive) (.write (0x120000 + 8 * pos) 0 (r.arg 1))).complete r rOk 0 (masked w 0xFFFF) 0 0

/-- FENCE_CORE on a position of this die. -/
def State.fenceHere (s : State) (r : Req) (pos action spare : Nat) : State :=
  let bad := s.fenceBad pos action spare
  let g := pos % s.cfg.nActive
  if bad ≠ 0 then s.complete r rBadArg bad 0 0 0
  else if s.fenceCode pos ≠ 0 then s.answer r (s.fenceCode pos)
  else
    let s := (s.pass 384).onCores fun c => c.act s.cfg.nActive g action spare
    let w := s.cores.posMap g
    (s.event 0x000D (s.cores.serve.getD g g) (s.posDomain pos) (action + w.toNat % 65536 * 65536)).complete r rOk 0 w 0 0

/-- FENCE_CORE. -/
def runFenceCore (r : Req) (s : State) : State :=
  let pos := field (r.arg 1) 0 11
  let die := pos / s.cfg.nActive
  if die ≠ s.boot.straps.dieId.toNat ∧ die ≤ s.boot.straps.fedDies.toNat then s.fenceThere r pos
  else s.fenceHere r pos (field (r.arg 1) 16 2) (field (r.arg 1) 24 4)

/-- FENCE_CORE by its action. -/
def pickFence (action : Nat) (_ : State) (r : Req) : Bool := r.opcode.toNat == 0x25 && field (r.arg 1) 16 2 == action

/-- FENCE_CORE, FENCE (R425). -/
def execFenceCoreFence (m : Nat) (s : State) : Res := ronno m (pickFence 0) runFenceCore s
/-- FENCE_CORE, SHADOW (R425). -/
def execFenceCoreShadow (m : Nat) (s : State) : Res := ronno m (pickFence 1) runFenceCore s
/-- FENCE_CORE, SHADOW_END (R425). -/
def execFenceCoreShadowEnd (m : Nat) (s : State) : Res := ronno m (pickFence 2) runFenceCore s
/-- FENCE_CORE, RESTORE (R425). -/
def execFenceCoreRestore (m : Nat) (s : State) : Res := ronno m (pickFence 3) runFenceCore s

end Sys2Proof.Machine
end

