-- ==== Sys2Proof/Machine/Loader.lean ====
section
/-! DEFINITION. The loader verifier over a whole image and PROG_COMMIT (04 R120, 06 R176, R179, 07 R192, R203-R206, 10 R274, 12 R307-R310,
13 R327, 14 R348, 16 R387, R393, R403). -/

namespace Sys2Proof

open Machine (Timing SigT word)

/-- A command that the cycle model has timed. -/
structure Timed where
  c : Cmd
  t : CmdTime
deriving DecidableEq, Repr

/-- A rejection: reason code, command index, byte offset. -/
structure Reject where
  code : Nat
  idx : Nat
  off : Nat
deriving DecidableEq, Repr

namespace Cmd

/-- TABLE_SLOT: a predicated table command whose slot does not hold its table (R274). -/
def slotUnheld (t : Timing) (c : Cmd) : Bool :=
  c.hdr.pen && c.func.any fun f => f.fn == 4 && ((t.slots.getD f.tslot none).map Prod.fst) != some f.tidx

/-- PRED_RACE: the latest earlier writer of the bit has not completed before the release (R176). -/
def predRace (t : Timing) (c : Cmd) (rel : Nat) : Bool :=
  c.hdr.pen && ((t.predW.find? fun x => x.1 == c.hdr.psel).any fun x => decide (rel ≤ x.2))

/-- SILO_STAGE (R197). -/
def noChunk (c : Cmd) (e : Env) : Bool := c.isCompute && !c.zeroLen && (c.chunk e).isNone

end Cmd

/-- One bundle's checks up to WAIT_UNMET and its timing: the code that rejects it, or the model after it. -/
def verifyOne (e : Env) (logical : Nat) (prev rest : List Cmd) (t : Timing) (c : Cmd) : Except Nat (Timing × CmdTime) :=
  match c.staticFail e prev rest with
  | some code => .error code
  | none =>
    if c.slotUnheld t then .error vTableSlot
    else if c.noChunk e then .error vSiloStage
    else
      match timeCmd e t c rest logical with
      | none => .error vWaitUnmet
      | some x => if c.predRace t x.2.rel then .error vPredRace else .ok x

/-- The bundles in order until one is rejected; the END behind a SWAP is never fetched and takes no time (R193). -/
def verifyRun (e : Env) (logical : Nat) (prev : List Cmd) (t : Timing) (acc : List Timed) : List Cmd → List Timed × Timing × Option Reject
  | [] => (acc.reverse, t, none)
  | c :: rest =>
    if prev.head?.any (fun p => p.hdr.kind == 2) then
      match c.staticFail e prev rest with
      | some code => (acc.reverse, t, some ⟨code, c.idx, c.off⟩)
      | none => verifyRun e logical (c :: prev) t acc rest
    else
      match verifyOne e logical prev rest t c with
      | .error code => (acc.reverse, t, some ⟨code, c.idx, c.off⟩)
      | .ok (t', ct) => verifyRun e logical (c :: prev) t' (⟨c, ct⟩ :: acc) rest

/-! ## CORE_RACE -/

/-- Bytes of a stream's share and of its companion's. -/
def shareBytes (c : Cmd) (d : Desc) (b : Box) : List (Int × Int) :=
  let comp := match c.companion d with
    | some k => let r := b.headD (0, 0); k.spansOf (b.set 0 (r.1 / d.bushel, (r.2 + d.bushel - 1) / d.bushel))
    | none => []
  (d.spansOf b ++ comp).map Cmd.byteSpan

/-- Bytes of the regions of the contexts that a share touches (R348). -/
def ctxBytes (e : Env) (d : Desc) (b : Box) : List (Int × Int) :=
  let r := b.getD 2 (0, 1)
  (List.range (r.2 - r.1)).flatMap fun k =>
    (Machine.entryLines e.ledger (d.entry + r.1 + k)).map fun x => (x.1 * 512, x.2 * 512)

/-- All windows of the domain (R310). -/
def windowBytes (e : Env) : List (Int × Int) := (partWindows e.part).map fun w => ((w.1 : Int), (w.2 : Int))

/-- What one core reads and writes in the scratchpad. -/
structure Access where
  rank : Nat
  reads : List (Int × Int)
  writes : List (Int × Int)
deriving DecidableEq, Repr

/-- One core's accesses in a command (R205, R310, R348). -/
def Cmd.access (c : Cmd) (e : Env) (rank : Nat) : Access :=
  let b := c.share e.nCores rank
  let input (gathered : Bool) (d : Option Desc) : List (Int × Int) :=
    match d with
    | none => []
    | some d => if gathered then windowBytes e else if d.target = 1 then ctxBytes e d b else shareBytes c d b
  let idx := match c.indexDesc with
    | some x => (x.spansOf (b.set 0 (0, 1))).map Cmd.byteSpan
    | none => []
  let out := match c.descOut with
    | some d =>
      if d.target = 2 then []
      else if d.target = 1 then ctxBytes e d (c.outBox b)
      else if c.permIs 2 then windowBytes e
      else shareBytes c d (c.outBox b)
    | none => []
  let note := match c.noteDesc with
    | some d => let r := if c.hdr.split = 4 then 0 else rank; (d.spansOf [(0, 8), (r, r + 1), (0, 1), (0, 1)]).map Cmd.byteSpan
    | none => []
  { rank := rank, reads := Cmd.spanUnion (input (c.permIs 1) c.descA ++ input false c.descB ++ idx), writes := Cmd.spanUnion (out ++ note) }

/-- Accesses of every core with a share; a zero-length command makes none (R183). -/
def Cmd.accesses (c : Cmd) (e : Env) : List Access := if c.isCompute && !c.zeroLen then (c.workers e).map (c.access e) else []

/-- Does a command write bytes that a later one reads or writes at a different position? -/
def crossWrites (a b : List Access) : Bool :=
  let touched (x : Access) := Cmd.spanUnion (x.reads ++ x.writes)
  Cmd.spansTouch (Cmd.spanUnion (a.flatMap Access.writes)) (Cmd.spanUnion (b.flatMap touched))
    && b.any fun y => let ty := touched y; a.any fun x => x.rank != y.rank && Cmd.spansTouch x.writes ty

/-- Bytes of disjoint ranges. -/
def spanBytes (l : List (Int × Int)) : Int := l.foldl (fun n r => n + (r.2 - r.1)) 0

/-- Do two positions write one byte in one command? No dependence can order them (R218, R310); the targets of contexts and SCATTER are apart. -/
def Cmd.byteShared (c : Cmd) (ax : List Access) : Bool :=
  (match c.descOut with
    | some d => d.target == 0 && !c.permIs 2 && d.width % 8 != 0
    | none => false)
    && decide (spanBytes (Cmd.spanUnion (ax.flatMap Access.writes)) < spanBytes (ax.flatMap Access.writes))

/-- Does a wait hold in some cycle up to and including k (R205)? -/
def heldBy (sigs : List SigT) (w : Nat × Nat × Nat) (k : Nat) : Bool :=
  (0 :: sigs.map fun s => s.cycle + 1).any fun r => decide (r ≤ k) && waitHolds w.1 (sigValue sigs w.1 w.2.1 r) w.2.2

/-- Does a signal in cycle k of a flag (kind 1, 2) or tally (kind 3) order a command of the list after it (R205)? -/
def waitsOn (sigs : List SigT) (kind index k : Nat) (cs : List Timed) : Bool :=
  let wk := if kind = 3 then 2 else 1
  cs.any fun m => m.c.waits.any fun w => w.1 == wk && w.2.1 == index && !heldBy sigs w k

/-- Is there a dependence between timed commands: `i` and those after it up to `j`, which comes last in `after`? -/
def depends (sigs : List SigT) (i : Timed) (after : List Timed) : Bool :=
  ((after.dropLast).any fun m => m.c.hdr.kind == 2 || m.c.hdr.kind == 3)
    || (i :: after).any fun k =>
        let s := k.c.signal
        s.1 != 0 && decide (i.t.done ≤ k.t.done) && waitsOn sigs s.1 s.2.1 k.t.done after

/-- Sheaves that a command reads, and the sheaf that it writes (R170, R318). -/
def Cmd.sheavesRead (c : Cmd) (e : Env) : List Nat :=
  (([c.inA, c.inB].filterMap id).filterMap fun s => if s.src = 2 then some s.sheaf else none) ++ ((c.unpack e).map Stage.sheaf).toList
def Cmd.sheafWritten (c : Cmd) : List Nat := c.out.toList.filterMap fun o => if o.dst = 2 then some o.sheaf else none

/-- The sheaf rules of R327 for one command against the generations; `before` are the earlier commands, oldest first. -/
def sheafRace (e : Env) (sigs : List SigT) (gs : List GenCycles) (before : List Timed) (x : Timed) : Bool :=
  if x.c.zeroLen then false
  else
    gs.any fun g =>
      let ch := Chain.ofMem e.chains e.seq g.chain
      let landing := ch.landing
      let first := g.c - (ch.nBeat - 1) * ch.beatCycles
      let later := (before ++ [x]).filter fun m => decide (g.opened < m.t.rel)
      (decide (g.opened < x.t.rel) && (x.c.sheavesRead e ++ x.c.sheafWritten).any landing.contains && decide (first ≤ x.t.done)
          && !(ch.sigEn && waitsOn sigs 3 ch.sigTally g.c later))
        || (x.c.sheafWritten.any ch.readSheaves.contains && decide (g.opened ≤ x.t.done ∧ x.t.rel ≤ g.c))

/-- Entries that a command appends to or re-tiers (R348). -/
def Cmd.updates (c : Cmd) (e : Env) : List (Nat × Nat) :=
  Cmd.ctxEntries c.descOut ++ (if c.retier e then Cmd.ctxEntries c.descA else [])

/-- Byte ranges of the shadow and landing regions of the channels that the job delivers into (R391, R403). -/
def Env.jobRegions (e : Env) (logical : Nat) : List (Int × Int) :=
  match e.job with
  | none => []
  | some j => Cmd.spanUnion (j.circs.flatMap fun x =>
      match x.deliversTo logical with
      | none => []
      | some i =>
        let en := e.entry i
        let n := x.transfers * ((en.count * ((Fmt.ofCode en.efmt).getD .fp32).bits + 4095) / 4096)
        [en.landLine, en.shadowLine].map fun a => (((a * 512 : Nat) : Int), (((a + n) * 512 : Nat) : Int)))

/-- Does a command break CORE_RACE against the earlier ones (`before`, oldest first)? `accs` and `ax` are their accesses and its own. -/
def coreRace (e : Env) (sigs : List SigT) (gs : List GenCycles) (regions : List (Int × Int)) (before : List Timed)
    (accs : List (List Access)) (x : Timed) (ax : List Access) : Bool :=
  let pairs := (List.range before.length).zip (before.zip accs)
  sheafRace e sigs gs before x || x.c.byteShared ax
    || Cmd.spansTouch (Cmd.spanUnion (ax.flatMap Access.writes)) regions
    || (before.any fun i => decide (x.t.rel ≤ i.t.done)
          && (i.c.updates e).any fun a => (x.c.updates e).any fun b => decide (a.1 < b.1 + b.2 ∧ b.1 < a.1 + a.2))
    || pairs.any fun (k, i, ai) => crossWrites ai ax && !depends sigs i (before.drop (k + 1) ++ [x])

/-! ## SLOT_CLASH (R387, R393) -/

/-- Are elements of a chunk ready only after the send point of their cell on some circuit, or a barrier sent after its own? Send points rise
with L, so each chunk's least element decides. `xfer` is the transfer's number. -/
def lateCell (e : Env) (d : Desc) (xfer : Nat) (x : Timed) : Bool :=
  (e.sendCircuits d.entry).any fun k =>
    if (e.entry d.entry).count = 0 then decide (e.sendSlot k xfer 0 < e.start + x.t.rel + 4 + 64)
    else x.t.cores.any fun core => (core.chunks.zip core.ready).any fun (ch, r) =>
      match ch.outs.map fun i => (linIdx d.size i).toNat with
      | [] => false
      | l :: ls => decide (e.sendPoint k d.width xfer (ls.foldl min l) < r)

/-- A send that no circuit serves, whose channel makes another number of transfers than its circuits have, or whose cells are late. -/
def slotClash (e : Env) (all : List Cmd) (before : List Timed) (x : Timed) : Bool :=
  match x.c.descOut with
  | some d =>
    d.target == 2 &&
      (let ks := e.sendCircuits d.entry
       let sends (c : Cmd) : Bool := c.isCompute && c.descOut.any fun o => o.target == 2 && o.entry == d.entry
       ks.isEmpty || (ks.any fun k => k.transfers != (all.filter sends).length)
         || lateCell e d (before.filter fun m => sends m.c).length x)
  | none => false

/-- The first of the timed commands that breaks CORE_RACE or SLOT_CLASH. -/
def laterFail (e : Env) (logical : Nat) (t : Timing) (all : List Cmd) (ts : List Timed) : Option Reject :=
  let gs := t.genList e
  let sigs := (landingSigs e gs).foldl (fun l s => sigInsert s l) (ts.foldl (fun l x =>
    let s := x.c.signal
    if s.1 = 0 then l else sigInsert ⟨x.t.done, s.1, s.2.1, s.2.2⟩ l) [])
  let regions := e.jobRegions logical
  let accs := ts.map fun x => x.c.accesses e
  (List.range ts.length).zip (ts.zip accs) |>.findSome? fun (k, x, ax) =>
    if coreRace e sigs gs regions (ts.take k) (accs.take k) x ax then some ⟨vCoreRace, x.c.idx, x.c.off⟩
    else if slotClash e all (ts.take k) x then some ⟨vSlotClash, x.c.idx, x.c.off⟩
    else none

/-! ## The verifier (R203, R204, R206) -/

/-- Does a stream of some core average 16 cycles or more between its lines? -/
def Timed.sliceBound (x : Timed) : Bool :=
  x.t.cores.any fun c => c.stat.any fun (f, l, n) => decide (2 ≤ n ∧ 16 * (n - 1) ≤ l - f)

/-- The failure of the image's end, if it has one. -/
def ImageEnd.reject (len : Nat) : ImageEnd → Option Reject
  | .ok => none
  | .badHeader i o => some ⟨vReservedEnc, i, o⟩
  | .trunc i o => some ⟨vBundleTrunc, i, o⟩
  | .noEnd n => some ⟨vNoEnd, n, len⟩
  | .trailing i o => some ⟨vTrailing, i, o⟩

/-- The verifier's verdict: bundle count, epoch length and warnings, or the first failure. -/
structure Verdict where
  reject : Option Reject
  bundles : Nat
  length : Nat
  warn : Word
deriving DecidableEq, Repr

/-- Length of the program alone (R203). -/
def programLength (e : Env) (ts : List Timed) : Nat :=
  match ts.getLast? with
  | some x => min (2 ^ 64 - 1) (x.t.done + (if x.c.hdr.kind = 2 then e.fetch else 0))
  | none => 0

/-- Verify an image against a domain's record and job. -/
def verify (e : Env) (logical : Nat) (bs : Bytes) : Verdict :=
  if partPens e.part = 0 then ⟨some ⟨vNoCores, 0, 0⟩, 0, 0, 0⟩
  else
    let (cs, fin) := parseImage bs
    let (ts, t, bad) := verifyRun e logical [] (Timing.start e) [] cs
    let r := ((laterFail e logical t cs ts).or bad).or (fin.reject bs.length)
    let warned := ts.filter Timed.sliceBound
    let warn := match warned.head? with
      | some x => word (vSliceBound + warned.length % 65536 * 2 ^ 16 + x.c.idx * 2 ^ 32)
      | none => 0
    ⟨r, cs.length, programLength e ts, warn⟩

namespace Machine

/-- PROG_COMMIT: the session closes with the verifier's verdict; an accepted image arms the load bank. -/
def runProgCommit (r : Req) (s : State) : State :=
  let q := field (r.arg 1) 0 3
  let code := s.seqCheck r q
  if code ≠ 0 then s.answer r code
  else
    match (s.seqAt q).session with
    | none => s.answer r rNoSession
    | some x =>
      if (x.present.filter fun c => c.1 < x.len).length < x.len then s.answer r rIncomplete
      else
        let bank := 1 - (s.seqAt q).activeBank
        let bs := s.cmdMem.readBytes (s.segAddr q bank) x.len
        let ws := (s.partAt q).words
        let v := verify (s.env q ws ((s.domAt q).nextJob) 0) s.coll.logicalId.toNat bs
        match v.reject with
        | some f =>
          (s.onSeq q fun y => { y with session := none, load := .empty, imgLen := y.imgLen.set bank 0 }).complete r rVerifyFail
            (f.code + f.idx % 65536 * 65536) 0 0 (word f.off)
        | none =>
          (s.onSeq q fun y =>
            { y with session := none, load := .armed, armedAt := s.clk.rackTime, imgLen := y.imgLen.set bank x.len }).complete r rOk 0
            (word v.bundles) (word v.length) v.warn

/-- PROG_COMMIT (R119, R120, R204, R206). -/
def execProgCommit (m : Nat) (s : State) : Res := ronno m (pickOp 0x12) runProgCommit s

end Machine
end Sys2Proof
end

