-- ==== Sys2Proof/Machine/Maint.lean ====
section
/-! DEFINITION. Maintenance traffic (15 R377, 05 R146, 16 R408, R413-R417) and the synchronisation edge (03 R89, 16 R415). -/

namespace Sys2Proof.Machine

/-! ## Sequence, acknowledgement, window (R377) -/

/-- A numbered maintenance cell on a trained port: in order it is taken, out of order it is asked for again. -/
def State.maintIn (s : State) (p : Nat) (h : CellHdr) (act : State → State) : State :=
  if !s.carries p then s
  else if h.seq = (s.portAt p).mrxSeq then act (s.onPort p fun q => { q with mrxSeq := q.mrxSeq + 1, ackDue := true })
  else s.sendAck p true

/-- Drop acknowledged cells; cells that come into the window are sent. -/
def State.takeAck (s : State) (p : Nat) (ack : BitVec 16) : State :=
  let q := s.portAt p
  let left := q.unacked.filter fun x => decide (2 ^ 15 ≤ (ack - x.1).toNat)
  let gone := q.unacked.length - left.length
  let s := s.onPort p fun q => { q with unacked := left }
  ((left.take 32).drop (32 - gone)).foldl (fun s x =>
    s.send { port := p, slot := none
             hdr := { s.linkHdr (payByte x.2 0) with dst := BitVec.ofNat 16 (payNum x.2 1 2), seq := x.1 }
             payload := padPayload (x.2.drop 3) }) s

/-- MAINT_ACK (R377): cumulative; a negative one brings a replay. -/
def takeMaintAck (c : RxCell) (s : State) : Res :=
  linkRow c (fun h _ => h.type.toNat == 0x0D) (fun _ pay s =>
    if s.carries c.port then
      let s := s.takeAck c.port (BitVec.ofNat 16 (payNum pay 0 2))
      if payByte pay 2 = 1 then s.replay c.port else s
    else s) s

/-- MAINT_ACK_DUE (R377): 256 CK_L cycles with cells that have not been acknowledged. -/
def execMaintAckDue (port : Nat) (s : State) : Res :=
  whenTrue (decide (port < s.cfg.nPort) && s.carries port && (s.portAt port).ackDue) s (s.sendAck port false)

/-- MAINT_REPLAY_TIMEOUT (R377): 4096 CK_L cycles without an acknowledgement. -/
def execMaintReplayTimeout (port : Nat) (s : State) : Res :=
  whenTrue (decide (port < s.cfg.nPort) && s.carries port && !(s.portAt port).unacked.isEmpty) s (s.replay port)

/-- COUNTER (R146): the partner's transmit counter becomes the expected counter of the domain's key. A cell that does not authenticate is
discarded. -/
def State.takeCounter (s : State) (p : Nat) (pay : Bytes) : State :=
  match s.protectedDom p with
  | some d =>
    let q := s.portAt p
    let n := payNum pay 0 8
    let info := groupInfo q.neighLogical.toNat q.neighPort.toNat (partKeyGen (s.wordsOf d)) n
    if payNum pay 8 16 = (Config.counterTag (s.partAt d).key info).toNat then
      let s := s.onPort p fun q => { q with rxCtr := q.rxCtr.set d (BitVec.ofNat 64 n) }
      s.onDom d fun c => { c with counterWait := c.counterWait.erase p, counterGot := c.counterGot ++ [p] }
    else s
  | none => s

/-- COUNTER. -/
def takeCounterCell (c : RxCell) (s : State) : Res :=
  linkRow c (fun h _ => h.type.toNat == 0x0E) (fun h pay s => s.maintIn c.port h fun s => s.takeCounter c.port pay) s

/-! ## Messages (R389, R408, R417) -/

/-- A routed message: taken here, or sent on with one hop fewer. -/
def State.routed (s : State) (pay : Bytes) (own : Nat → State → State) : State :=
  let d := payByte pay 6
  let hops := payByte pay 1 - 1
  if payNum pay 2 2 = s.coll.logicalId.toNat then (if d < s.cfg.nSeq then own d s else s)
  else if hops = 0 then s.onColl fun c => { c with hopDropped := sat32 c.hopDropped }
  else s.routeMaint d (payNum pay 2 2) (pay.take 1 ++ [BitVec.ofNat 8 hops] ++ pay.drop 2)

/-- Is a message of the domain's present epoch? -/
def State.ofEpoch (s : State) (d : Nat) (pay : Bytes) : Bool :=
  (s.domAt d).state != .idle && payByte pay 7 == (s.domAt d).epoch.toNat

/-- Count a sender of ROLLED once. -/
def DomColl.countRolled (c : DomColl) (src : BitVec 16) : DomColl := { c with rolledFrom := src :: c.rolledFrom.erase src }

/-- ROLLED (R408): the root counts it. -/
def takeRolled (c : RxCell) (s : State) : Res :=
  linkRow c (fun h pay => h.type.toNat == 0x0C && payByte pay 0 == 2) (fun h pay s =>
    s.maintIn c.port h fun s => s.routed pay fun d s =>
      if s.ofEpoch d pay ∧ s.isRoot d then (s.onDom d fun x => x.countRolled (BitVec.ofNat 16 (payNum pay 4 2))).rootCount d else s) s

/-- ROLLBACK_DONE (R408): EPOCH_END ABORTED is posted and the sequencer becomes idle. -/
def takeRollbackDone (c : RxCell) (s : State) : Res :=
  linkRow c (fun h pay => h.type.toNat == 0x0C && payByte pay 0 == 3) (fun h pay s =>
    s.maintIn c.port h fun s => s.routed pay fun d s =>
      if s.ofEpoch d pay ∧ (s.domAt d).state = .rolled ∧ s.aon.power.serves then
        s.rollbackComplete d (s.domAt d).abortDetail (s.domAt d).abortTime
      else s) s

/-! ## Synchronisation (R414, R415) -/

/-- A SYNC from a neighbour (R414): accepted when newer and in the future, and sent on; counted when its target has passed. -/
def State.takeSync (s : State) (p : Nat) (pay : Bytes) : State :=
  let num := BitVec.ofNat 16 (payNum pay 8 2)
  let newer := num - s.coll.syncNum
  let target := (payNum pay 16 8 : Int) + (s.portAt p).clockOffset
  if s.cfg.portClass p = 4 ∨ newer = 0 ∨ 2 ^ 15 ≤ newer.toNat then s
  else if (s.rootTime : Int) < target then s.spreadSync num.toNat target.toNat
  else
    let later := num - s.coll.syncSeen
    (s.onColl fun c => { c with syncLate := sat32 c.syncLate, syncSeen := if later.toNat < 2 ^ 15 then num else c.syncSeen }).event
      0x0009 p none num.toNat

/-- SYNC_MESSAGE (R414, R417): a SYNC; any other message is discarded. -/
def takeSyncMessage (c : RxCell) (s : State) : Res :=
  linkRow c (fun h pay => h.type.toNat == 0x0C && payByte pay 0 != 2 && payByte pay 0 != 3) (fun h pay s =>
    s.maintIn c.port h fun s => if payByte pay 0 = 1 then s.takeSync c.port pay else s) s

/-- Times of the old rack time, as seen from the new one: what lies before the edge is 0. -/
def State.rebase (s : State) (t : Nat) : State :=
  let gen (g : Gen) : Gen := { g with opened := g.opened - t, fin := g.fin - t, closed := g.closed.map (· - t) }
  let beat (b : ProBeat) : ProBeat := { b with cycle := b.cycle - t }
  let fin (x : Nat × Nat) : Nat × Nat := (x.1 - t, x.2 - t)
  let s := s.onCoup fun c => { c with gens := c.gens.map gen, ends := c.ends.map fin, beats := c.beats.map beat }
  s.onColl fun c => { c with doms := c.doms.map fun x =>
    { x with endTime := x.endTime - t, abortTime := x.abortTime - t, commitTime := x.commitTime - t } }

/-- A port at the edge: padded anew, its wait record cleared (R369, R371). -/
def State.anchorPort (s : State) (p : Nat) : State :=
  let s := (s.setPad p).onPort p fun q => { q with padDue := decide (s.cfg.portClass p ≠ 4), wMin := 0, wMax := 0, wSeen := false, drift := false, calibRun := 0 }
  if s.carries p ∧ s.cfg.portClass p ≠ 4 then s.sendTrainTime p else s

/-- Every queued release is discarded: its request is answered, its EPOCH_END reports ABORTED with RESYNC (R415). -/
def State.discardReleases (s : State) : State :=
  let waiting := s.kol.epochs.filter fun e => !e.released
  let s := { s with seqs := s.seqs.map fun (q : Sequencer) => { q with runq := q.runq.filter fun y => !y.isRelease } }
  waiting.foldl (fun s e => s.discardRelease e.start e.mbox e.tag (fun _ => true) 0x27) s

/-- The target edge (R89, R369, R415). An epoch that aborted before the edge keeps its reason. -/
def State.syncEdge (s : State) (target : Nat) : State :=
  let s := s.untilLocal (target / 4)
  let old := s.clk.rackTime
  let hit (d : Nat) : Bool := (s.domAt d).state.live || (s.domAt d).abortTime == old
  let s := s.rebase old
  let s := { s with clk := { s.clk with rackTime := 0, anchor := s.clk.localTime, rackSynced := true } }
  let s := ((List.range s.cfg.nSeq).filter hit).foldl (fun s d => s.abortEpoch d 0x27 none) s
  let s := s.onColl fun c => { c with syncTarget := none }
  ((List.range s.cfg.nPort).foldl State.anchorPort s).discardReleases

/-- RACK_SYNC_EDGE (R415). -/
def execRackSyncEdge (s : State) : Res :=
  match s.coll.syncTarget with
  | some t => whenTrue s.clk.dividers s (s.syncEdge t)
  | none => .next s

end Sys2Proof.Machine
end

