-- ==== Sys2Proof/Machine/Partition.lean ====
section
/-! DEFINITION. PART_SET, the adoption of a record, and the cleaning of what leaves a domain (05 R132-R137, R142, R148, R456). -/

namespace Sys2Proof.Machine

/-! ## The record (R132, R133) -/

/-- Bits of a record's words that the table names. -/
def recMask : Nat → Nat
  | 0 => 0xFFFFFFFF00077F3F
  | 2 => 0x3FFFF0001FFFF
  | 3 | 4 | 5 | 6 => 2 ^ 48 - 1
  | 7 => 0
  | 15 => 2 ^ 40 - 1
  | _ => 2 ^ 64 - 1

/-- KEY_BLOB, bytes 0 to 59 of words 8 to 15. -/
def keyBlob (ws : List Word) : Bytes := ((ws.drop 8).flatMap fun w => leBytes 8 w.toNat).take 60

/-- BAD_ARG of R133 in the record. -/
def recBadArg (ws : List Word) : Bool :=
  (List.range 16).any (fun i => (ws.getD i 0 &&& ~~~word (recMask i)) != 0) || partMbxs ws % 4 != 0
    || (partKeyGen ws == 0 && (keyBlob ws).any (· != 0))

/-- Do two half-open ranges meet? -/
def rangesMeet (a b : Nat × Nat) : Bool := decide (max a.1 b.1 < min a.2 b.2)

/-- Do two records of live domains share a resource or a tenant number? -/
def recsMeet (a b : List Word) : Bool :=
  let pens (w : List Word) := (partFirstPen w, partFirstPen w + partPens w)
  let led (w : List Word) := ((partLedger w).1, (partLedger w).1 + (partLedger w).2)
  rangesMeet (pens a) (pens b) || rangesMeet (led a) (led b) || (partPorts a &&& partPorts b) != 0
    || (partTables a &&& partTables b) != 0 || (partMbxs a &&& partMbxs b) != 0 || partTenant a == partTenant b
    || (partWindows a).any fun x => (partWindows b).any (rangesMeet x)

/-- Does a record leave the configuration? -/
def State.recOutside (s : State) (ws : List Word) : Bool :=
  let pens := s.cfg.nPen * (s.boot.straps.fedDies.toNat + 1)
  decide (pens < partFirstPen ws + partPens ws) || partPorts ws / 2 ^ s.cfg.nPort != 0
    || decide (131072 < (partLedger ws).1 + (partLedger ws).2) || (partWindows ws).any fun w => decide (2 ^ 40 < w.2)

/-- Does a record install a key (R148)? -/
def installsKey (old new : List Word) (live : Bool) : Bool := partKeyGen new != 0 && (!live || old.drop 8 != new.drop 8)

/-- The session key in a KEY_BLOB (R142); none when it does not unwrap. -/
def State.unwrap (s : State) (ws : List Word) : Option (BitVec 256) :=
  if s.boot.hasKeys then
    let b := keyBlob ws
    (gcmDecrypt (keyBytes s.boot.dwk) (b.take 12) [BitVec.ofNat 8 (partKeyGen ws)] ((b.drop 12).take 32) ((b.drop 44).take 16)).map fun k =>
      BitVec.ofNat 256 (leNat k)
  else none

/-- BAD_RANGE of R133. -/
def State.recBadRange (s : State) (d : Nat) (ws : List Word) : Bool :=
  let old := s.partAt d
  s.recOutside ws || ((s.liveDoms.filter (· != d)).any fun e => recsMeet ws (s.partAt e).words)
    || (installsKey old.words ws old.live
          && ((s.unwrap ws).isNone || decide (partKeyGen ws ≤ s.keyHigh.getD (partTenant ws) 0)))

/-! ## Adoption (R136) -/

/-- The removal of a cleaning. -/
def State.removal (s : State) (c : Cleaning) : Removal := ⟨c.oldWords, (s.partAt c.dom).words⟩

/-- Does a removal lie in the footprint of the running epoch of sequencer d? -/
def State.runningHit (s : State) (d : Nat) (r : Removal) : Bool :=
  (s.seqAt d).run.isSome && (s.activeProgram d).any fun c => r.hits s.cfg s.ledger (s.domAt d).activeJob c

/-- A removal unarms an armed bank whose footprint it meets; so does a record without a pen (R136, R456). -/
def State.unarmHit (s : State) (d : Nat) (r : Removal) : State :=
  if partPens r.new = 0 ∨ (s.armedProgram d).any (fun c => r.hits s.cfg s.ledger (s.domAt d).nextJob c) then s.onSeq d Sequencer.unarm
  else s

/-- Mailboxes join their domain. -/
def State.joinMbxs (s : State) (d : Nat) : State :=
  ((List.range 16).filter fun m => (partMbxs (s.partAt d).words).testBit m).foldl (fun s m =>
    s.onMbx m fun b => { b with owner := BitVec.ofNat 4 d }) s

/-- From now on ports, cells and cores act under the recorded record (R136). -/
def State.takeRecord (s : State) (d : Nat) : State := s.onPart d fun p => { p with liveNow := p.live, wordsNow := p.words }

/-- Sequencer d adopts the recorded record; what leaves is cleaned afterwards. Where the change has aborted the running epoch, the old record
holds until that epoch's rollback (R136). -/
def State.adopt (s : State) (c : Cleaning) : State :=
  let r := s.removal c
  let s := (s.unarmHit c.dom r).joinMbxs c.dom
  let s := if c.awaitEpoch then s else s.takeRecord c.dom
  let s := s.onPart c.dom fun p => { p with pending := false }
  s.onKol fun k => { k with cleaning := some { c with adopted := true } }

/-! ## Cleaning (R137) -/

/-- Positions of this die in a pen. -/
def State.penPositions (s : State) (p : Nat) : List Nat :=
  if p / s.cfg.nPen = s.boot.straps.dieId.toNat then (List.range 16).map (16 * (p % s.cfg.nPen) + ·) else []

/-- A position of a leaving pen: its sheaves are scrubbed, its shadow ends (R137, R430). -/
def State.cleanPos (s : State) (g : Nat) : State :=
  s.onCores fun c => Cores.setShadow s.cfg.nActive { c with sheaves := c.sheaves.clear (65536 * g) 65536 } g none

/-- A leaving table index: zero, and out of every slot. -/
def State.cleanTable (s : State) (t : Nat) : State :=
  { s with tables := s.tables.clear (2560 * t) 2560
           seqs := s.seqs.map (fun (q : Sequencer) => { q with slots := q.slots.map fun x => if x = some t then none else x }) }

/-- A leaving mailbox: reset, its rings and data area zero, no owner. -/
def State.cleanMbx (s : State) (m : Nat) : State :=
  (s.finishReset m).onMbx m fun b => { b with mem := [], owner := 0xF }

/-- All cleaning of a removal; `scrub` is SCRUB_SP. -/
def State.clean (s : State) (d : Nat) (r : Removal) (scrub : Bool) : State :=
  let s := (r.pens.flatMap s.penPositions).foldl State.cleanPos s
  let s := r.ledger.foldl (fun (s : State) g =>
    { s with ledger := s.ledger.clear (32 * g.1) (32 * (g.2 - g.1)), ckpt := s.ckpt.filter fun x => !decide (g.1 ≤ x.1 ∧ x.1 < g.2) }) s
  let s := r.tables.foldl State.cleanTable s
  let s := r.mbxs.foldl State.cleanMbx s
  let s := if scrub then r.bytes.foldl (fun (s : State) g => { s with sp := s.sp.clear g.1 (g.2 - g.1) }) s else s
  let s := if partPens r.new = 0 then s.onSeq d fun q => { q with slots := [none, none, none, none] } else s
  if (s.partAt d).live then s
  else
    let s := s.onSeq d fun q => { q with flags := 0, tallies := List.replicate 32 0, preds := 0, brk := none }
    s.onDom d fun c => { c with wiring := Staged.none, routes := Staged.none, circuits := Staged.none, seeds := Staged.none
                                pendingJob := none, activeJob := none, fingerprint := 0 }

/-- PART_SET completes: cleaning has ended, and fingerprints stand. -/
def State.cleanEnd (s : State) (c : Cleaning) : State :=
  ((((s.takeRecord c.dom).clean c.dom (s.removal c) c.scrubSp).refreshFps)).answer c.req rOk

/-- After adoption: with nothing to clean and no abort to wait for, the request completes at once. -/
def State.afterAdopt (s : State) : State :=
  match s.kol.cleaning with
  | some c => if c.adopted ∧ !c.awaitEpoch ∧ !(s.removal c).any then s.cleanEnd c else s
  | none => s

/-! ## PART_SET -/

/-- Every port's counters under the key of domain d become zero (R137, R145). -/
def State.zeroCounters (s : State) (d : Nat) : State :=
  { s with ports := s.ports.map fun q => { q with txCtr := q.txCtr.set d 0, rxCtr := q.rxCtr.set d 0 } }

/-- Keys as a new record leaves them (R137, R142, R145, R148): an install sets the counters of the domain's key to zero, and so does a
removal. -/
def State.setKey (s : State) (d : Nat) (old new : List Word) (live : Bool) : State :=
  if installsKey old new live then
    let k := (s.unwrap new).getD 0
    let s := s.onPart d fun p => { p with hasKey := true, key := k }
    { s with keyHigh := s.keyHigh.set (partTenant new) (partKeyGen new) }.zeroCounters d
  else if partKeyGen old != 0 ∧ old.drop 8 ≠ new.drop 8 then (s.onPart d fun p => { p with hasKey := false, key := 0 }).zeroCounters d
  else s

/-- Record a change of domain d and let the sequencer adopt it: at once when idle, else at its next command boundary, from an ADOPT entry of its
run queue (R136, R187); a full queue stalls the control core (R129). -/
def State.recordPart (s : State) (r : Req) (d : Nat) (ws : List Word) (live scrub : Bool) : State :=
  let old := s.partAt d
  let oldWords := if old.live then old.words else List.replicate 16 0
  let s := s.setKey d oldWords ws old.live
  let s := s.onPart d fun p => { p with live := live, words := ws, pending := true }
  let c : Cleaning := { dom := d, since := s.clk.rackTime, req := r, oldWords := oldWords, adopted := false, awaitEpoch := false, awaitDrain := false, scrubSp := scrub }
  let s := s.onKol fun k => { k with held := none, cleaning := some c }
  if (s.seqAt d).run.isSome then s.onSeq d fun q => { q with runq := q.runq ++ [.adopt] }
  else (s.adopt c).afterAdopt

/-- The record of a PART_SET with ACTIVE 1 (R132). -/
def State.partRecord (s : State) (r : Req) : List Word :=
  (List.range 16).map fun i => (s.mbxAt r.mbox).mem.read64 (0x1000 + field (r.arg 2) 0 12 + 8 * i)

/-- A PART_SET that has passed its checks: its record is made, or the control core stalls before it where the run queue is full (R129, R136). -/
def State.addRecord (s : State) (r : Req) : State :=
  let d := field (r.arg 1) 0 3
  let scrub := (r.arg 1).getLsbD 9
  if (s.seqAt d).run.isSome && decide (8 ≤ (s.seqAt d).runq.length) then s.stall
  else if (r.arg 1).getLsbD 8 then s.recordPart r d (s.partRecord r) true scrub
  else s.recordPart r d (List.replicate 16 0) false scrub

/-- PART_SET (R132, R133). -/
def runPartSet (r : Req) (s : State) : State :=
  let d := field (r.arg 1) 0 3
  let scrub := (r.arg 1).getLsbD 9
  let running := s.anyEpoch
  if s.cfg.nSeq ≤ d then s.answer r rBadArg
  else if (r.arg 1).getLsbD 8 then
    let off := field (r.arg 2) 0 12
    if off % 8 ≠ 0 ∨ 0xF80 < off then s.answer r rBadRange
    else
      let ws := s.partRecord r
      let old := (s.partAt d).words
      if recBadArg ws then s.answer r rBadArg
      else if s.recBadRange d ws then s.answer r rBadRange
      else if (scrub && running) || ((s.seqAt d).run.isSome && old.drop 8 != ws.drop 8) then s.answer r rNotIdle
      else s.addRecord r
  else if !(s.partAt d).live then s.answer r rOk
  else if (scrub && running) || ((s.seqAt d).run.isSome && partKeyGen (s.partAt d).words != 0) then s.answer r rNotIdle
  else s.addRecord r

/-- The two forms of PART_SET. -/
def pickPartSet (active : Bool) (_ : State) (r : Req) : Bool := r.opcode.toNat == 0x20 && (r.arg 1).getLsbD 8 == active

/-- PART_SET with ACTIVE 1 (R132, R133, R136). -/
def execPartSetActive (m : Nat) (s : State) : Res := ronnoEntry m (pickPartSet true) runPartSet (fun r s => s.addRecord r) s
/-- PART_SET with ACTIVE 0 (R132, R136). -/
def execPartSetDelete (m : Nat) (s : State) : Res := ronnoEntry m (pickPartSet false) runPartSet (fun r s => s.addRecord r) s

/-- The commands in flight that are due in cycle `due` of the epoch complete, up to n of them. -/
def State.finishDue (q due : Nat) : Nat → State → State
  | 0, s => s
  | n + 1, s =>
    match (s.seqAt q).run with
    | some r =>
      match r.firstDue with
      | some f => if f.done ≤ due ∧ (s.domAt q).state = .running then State.finishDue q due n (s.completeCmd q r f) else s
      | none => s
    | none => s

/-- The next command boundary of a sequencer: the first completion after a record was made, or now when nothing is in flight (R136). -/
def State.toBoundary (s : State) (q since : Nat) : State :=
  match (s.seqAt q).run with
  | some r =>
    match r.firstDue with
    | some f => if since < r.lastDone then s else s.finishDue q f.done r.flight.length
    | none => s
  | none => s

/-- PARTITION_ADOPT (R136): the sequencer takes its ADOPT entry; a removal in the running epoch's footprint aborts that epoch there. -/
def execPartitionAdopt (q : Nat) (s : State) : Res :=
  match s.kol.cleaning with
  | some c =>
    if c.dom = q ∧ !c.adopted then
      let s := s.toBoundary q c.since
      let s := s.onSeq q fun x => { x with runq := x.runq.filter (· != .adopt) }
      let s := s.onKol fun k => { k with stalled := false }
      let hit := s.runningHit q (s.removal c)
      let s := if hit then s.abortEpoch q 0x20 none else s
      .next (s.adopt { c with awaitEpoch := hit }).afterAdopt
    else .next s
  | none => .next s

/-- PARTITION_CLEAN_DONE (R136, R137): after the abort's EPOCH_END, every drain and scrub has ended and PART_SET completes. -/
def execPartitionCleanDone (s : State) : Res :=
  match s.kol.cleaning with
  | some c => whenTrue (c.adopted && !(c.awaitEpoch && (s.seqAt c.dom).run.isSome)) s (s.cleanEnd c)
  | none => .next s

end Sys2Proof.Machine
end

