-- ==== Sys2Proof/Machine/Receive.lean ====
section
/-! DEFINITION. Cells as ports receive them: at once on classes P, B and K, through the elastic buffer on class O (15 R354, R375), and one CK_V
cycle without a command. -/

namespace Sys2Proof.Machine

/-- What a cell is, by TYPE (R354), and for BARRIER and MAINT cells by the first byte of the payload (R400, R417). -/
inductive CellKind where
  | idle
  | data
  | tag
  | channelBarrier
  | barrierVote
  | barrierDecision
  | abort
  | bundle
  | poison
  | trainId
  | trainTime
  | trainDone
  | rolled
  | rollbackDone
  | syncMessage
  | maintAck
  | counter
  | reserved
deriving DecidableEq, Repr

/-- The kind of a cell with a header and a payload. -/
def cellKind (h : CellHdr) (pay : Bytes) : CellKind :=
  match h.type.toNat with
  | 0x00 => .idle
  | 0x01 => .data
  | 0x02 => .tag
  | 0x03 => if payByte pay 0 = 1 then .barrierVote else if payByte pay 0 = 2 then .barrierDecision else .channelBarrier
  | 0x04 => .abort
  | 0x05 => .bundle
  | 0x06 => .poison
  | 0x08 => .trainId
  | 0x09 => .trainTime
  | 0x0A => .trainDone
  | 0x0C => if payByte pay 0 = 2 then .rolled else if payByte pay 0 = 3 then .rollbackDone else .syncMessage
  | 0x0D => .maintAck
  | 0x0E => .counter
  | _ => .reserved

/-- The kind of a received cell; one that cannot be corrected is poisoned (R358). -/
def rxKind (c : RxCell) : CellKind :=
  match openCell c.bytes with
  | some (b, _) => cellKind (cellParts b).1 (cellParts b).2
  | none => .poison

/-! ## The elastic buffer of class O (R375; notes/assumptions/79) -/

/-- The state that an outcome goes on with. -/
def Res.orElse (r : Res) (s : State) : State :=
  match r with
  | .next t => t
  | _ => s

/-- A cell leaves the elastic buffer and acts as its kind does. -/
def State.takeCell (s : State) (c : RxCell) : State :=
  let r := match rxKind c with
    | .idle => takeIdle c s
    | .data => takeData c s
    | .tag => takeTag c s
    | .channelBarrier => takeChannelBarrier c s
    | .barrierVote => takeVote c s
    | .barrierDecision => takeDecision c s
    | .abort => takeAbortCell c s
    | .bundle => takeBundleCell c s
    | .poison => takePoison c.port c.slot s
    | .trainId => takeTrainId c s
    | .trainTime => .next s
    | .trainDone => execTrainDone c s
    | .rolled => takeRolled c s
    | .rollbackDone => takeRollbackDone c s
    | .syncMessage => takeSyncMessage c s
    | .maintAck => takeMaintAck c s
    | .counter => takeCounterCell c s
    | .reserved => takeReserved c s
  Res.orElse r s

/-- The local slot that runs: 10 ROOT_CK cycles, which are two and a half CK_V cycles (R359). -/
def State.localSlot (s : State) : Nat := 2 * s.clk.localTime / 5

/-- Does a port take its cells through an elastic buffer: class O, and trained? -/
def State.buffered (s : State) (p : Nat) : Bool := s.cfg.portClass p == 4 && s.carries p && s.receives p

/-- Up to n cells are delivered, the oldest first; none while the buffer holds fewer than 2. -/
def State.elasticDrain (p : Nat) : Nat → State → State
  | 0, s => s
  | n + 1, s =>
    match (s.portAt p).elastic with
    | c :: d :: rest => State.elasticDrain p n ((s.onPort p fun q => { q with elastic := d :: rest }).takeCell c)
    | _ => s

/-- One cell has been delivered in each local slot since the last delivery. -/
def State.elasticRun (s : State) (p : Nat) : State :=
  let q := s.portAt p
  (s.onPort p fun q => { q with elasticAt := s.localSlot }).elasticDrain p (min q.elastic.length (s.localSlot - q.elasticAt))

/-- An arriving cell enters the buffer; an IDLE cell is deleted while the buffer holds 6 or more. A full buffer delivers its oldest cell to make
room. -/
def State.elasticPush (s : State) (c : RxCell) : State :=
  let n := (s.portAt c.port).elastic.length
  if 6 ≤ n ∧ rxKind c = .idle then s
  else (if 8 ≤ n then s.elasticDrain c.port 1 else s).onPort c.port fun q => { q with elastic := q.elastic ++ [c] }

/-- A row that brings a cell of a kind: through the elastic buffer where the port has one. -/
def cellRow (c : RxCell) (k : CellKind) (direct : Res) (s : State) : Res :=
  if s.buffered c.port then whenTrue (rxKind c == k) s ((s.elasticRun c.port).elasticPush c) else direct

/-! ## The rows -/

/-- IDLE_CELL (R363, R371, R375). -/
def execIdleCell (c : RxCell) (s : State) : Res := cellRow c .idle (takeIdle c s) s
/-- DATA (R370). -/
def execData (c : RxCell) (s : State) : Res := cellRow c .data (takeData c s) s
/-- TAG (R146). -/
def execTag (c : RxCell) (s : State) : Res := cellRow c .tag (takeTag c s) s
/-- CHANNEL_BARRIER (R400, R401). -/
def execChannelBarrier (c : RxCell) (s : State) : Res := cellRow c .channelBarrier (takeChannelBarrier c s) s
/-- BARRIER_VOTE (R401, R404). -/
def execBarrierVote (c : RxCell) (s : State) : Res := cellRow c .barrierVote (takeVote c s) s
/-- BARRIER_DECISION (R401, R404). -/
def execBarrierDecision (c : RxCell) (s : State) : Res := cellRow c .barrierDecision (takeDecision c s) s
/-- ABORT (R406). -/
def execAbort (c : RxCell) (s : State) : Res := cellRow c .abort (takeAbortCell c s) s
/-- BUNDLE (R35, R36, R186). -/
def execBundle (c : RxCell) (s : State) : Res := cellRow c .bundle (takeBundleCell c s) s
/-- RESERVED_TYPE_CELL (R354). -/
def execReservedTypeCell (c : RxCell) (s : State) : Res := cellRow c .reserved (takeReserved c s) s
/-- TRAIN_ID (R363, R365, R369). -/
def execTrainId (c : RxCell) (s : State) : Res := cellRow c .trainId (takeTrainId c s) s
/-- ROLLED (R408). -/
def execRolled (c : RxCell) (s : State) : Res := cellRow c .rolled (takeRolled c s) s
/-- ROLLBACK_DONE (R408). -/
def execRollbackDone (c : RxCell) (s : State) : Res := cellRow c .rollbackDone (takeRollbackDone c s) s
/-- SYNC_MESSAGE (R414, R417). -/
def execSyncMessage (c : RxCell) (s : State) : Res := cellRow c .syncMessage (takeSyncMessage c s) s
/-- MAINT_ACK (R377). -/
def execMaintAck (c : RxCell) (s : State) : Res := cellRow c .maintAck (takeMaintAck c s) s
/-- COUNTER (R146). -/
def execCounter (c : RxCell) (s : State) : Res := cellRow c .counter (takeCounterCell c s) s

/-- POISON (R358): on class O it takes its place in the elastic buffer, as a cell without bytes. -/
def execPoison (port slot : Nat) (s : State) : Res :=
  if s.buffered port then .next ((s.elasticRun port).elasticPush ⟨port, slot, 0, []⟩) else takePoison port slot s

/-! ## A cycle without a command -/

/-- One CK_V cycle with no command: what a step does on an empty queue (notes/assumptions/1). Elastic buffers deliver in their slots. -/
def tick (s : State) : State :=
  let t := s.pass 1
  if t.ports.all fun q => q.elastic.isEmpty then t
  else ((List.range t.cfg.nPort).filter t.buffered).foldl State.elasticRun t

end Sys2Proof.Machine
end

