-- ==== Sys2Proof/Machine/Tap.lean ====
section
/-! DEFINITION. The test access port and the opening of the debug module (02 R74-R77, 05 R150, R151). -/

namespace Sys2Proof.Machine

/-- The n low bits of a number, bit 0 first. -/
def bitList (n x : Nat) : List Bool := (List.range n).map x.testBit

/-- SEC_RD_REQ (R73): 0 outside the fuse reads, and from the cycle after an acknowledgement until the next request begins. -/
def State.secRdReq (s : State) : Bool := s.boot.secReq && decide (s.boot.since ≤ s.clk.localTime)

/-- SEC_ADDR (R73). -/
def State.secAddr (s : State) : Nat := if s.boot.secReq then s.boot.fuseIndex else 0

/-- Is BYP_EN_N of a pair driven low? -/
def State.bypLow (s : State) (i : Nat) : Bool := s.aon.bypass.getD i true

/-- The boundary register as captured, given free words for the levels of inputs that no state holds (table of R75). The order of the
cells, and that the strap cells capture the straps as sampled at the cold reset and not the present levels of their pins, are DESIGN CHOICES
(notes/assumptions/9). -/
def State.boundaryCells (s : State) (a b c : Word) : List Bool :=
  let reqPort := bitList 30 a.toNat ++ bitList 64 b.toNat ++ [s.clk.regReady] ++ [s.rp.valid] ++ bitList 3 s.rp.code.toNat
    ++ bitList 64 s.rp.data.toNat
  let irqs := [s.irqMbx, s.irqAlarm, !s.aon.alarmPulled]
  let byp := (List.range s.cfg.nPair).map fun i => !s.bypLow i
  let straps := (List.range s.cfg.nPort).flatMap (fun p => bitList 3 (s.strap p)) ++ [s.boot.straps.fedMaster]
    ++ bitList 3 s.boot.straps.dieId.toNat ++ bitList 3 s.boot.straps.fedDies.toNat ++ bitList 11 s.boot.straps.tapMfr.toNat
  let side := (List.range s.cfg.nPort).flatMap fun p => [(s.portAt p).phyEn, (s.portAt p).phyRdy, (s.portAt p).los, (s.portAt p).phyLpbk]
  let sec := [s.secRdReq] ++ bitList 5 s.secAddr ++ bitList 64 c.toNat ++ [a.getLsbD 32, a.getLsbD 33, s.aon.secLock, a.getLsbD 34]
  reqPort ++ irqs ++ byp ++ straps ++ side ++ sec

/-- Is the test access port powered? -/
def State.tapUp (s : State) : Bool := s.aon.power != .off

/-- Select an instruction whose scan shifts out given bits; only EXTEST drives the block's edge. -/
def State.tapScan (s : State) (ir : BitVec 8) (out : List Bool) : State :=
  { s with tap := { s.tap with ir := ir, dr := out, driving := false } }

/-- A scan of the boundary register: captured cells shift out as the given bits shift in, and the latches take the result. -/
def State.boundaryScan (s : State) (ir : BitVec 8) (scan : List Bool) (drive : Bool) : State :=
  let (a, s) := s.fresh
  let (b, s) := s.fresh
  let (c, s) := s.fresh
  let cells := s.boundaryCells a b c
  { s with tap := { ir := ir, dr := cells, boundary := (cells ++ scan).drop scan.length, driving := drive } }

/-- EXTEST (R75, IEEE 1149.1). -/
def execExtest (scan : List Bool) (s : State) : Res := whenTrue s.tapUp s (s.boundaryScan 0x00 scan true)

/-- SAMPLE/PRELOAD (R75, IEEE 1149.1). -/
def execSamplePreload (scan : List Bool) (s : State) : Res := whenTrue s.tapUp s (s.boundaryScan 0x01 scan false)

/-- IDCODE (R76). -/
def execIdcode (s : State) : Res := whenTrue s.tapUp s (s.tapScan 0x02 (bitList 32 s.idcode.toNat))

/-- Instruction codes that select BYPASS: 0xFF and every reserved code (R75). -/
def bypassCode (c : BitVec 8) : Bool := !([0x00, 0x01, 0x02, 0x20, 0x21, 0x22] : List Nat).contains c.toNat

/-- BYPASS (R75): the one-bit register captures 0 and passes TDI. -/
def execBypass (code : BitVec 8) (tdi : Bool) (s : State) : Res :=
  whenTrue (s.tapUp && bypassCode code) s (s.tapScan code [false, tdi])

def Debug.number : Debug → Nat
  | .closed => 0
  | .erasePending => 1
  | .opened => 2

/-- DBG_STATUS (R75): the code of each status is a free value. -/
def execDbgStatus (s : State) : Res :=
  whenTrue s.tapUp s (s.tapScan 0x20 (bitList 8 (Config.dbgStatusCode (Debug.number s.aon.debug)).toNat))

/-- Step 2 of R150: the key store, session keys, port counters and KEY_BLOBs are erased; data memory and mailbox data areas are scrubbed. -/
def State.eraseKeys (s : State) : State :=
  let s := s.onBoot fun b => { b with hasKeys := false, drk := 0, fak := 0, dik := 0, dwk := 0, erased := true }
  let s := s.onKol fun k => { k with dmem := [], spill := k.spill.map fun w => w.map fun _ => 0 }
  let erased (ws : List Word) : List Word := ws.take 8 ++ (ws.drop 8).map fun _ => 0
  { s with parts := s.parts.map fun d => { d with hasKey := false, key := 0, words := erased d.words, wordsNow := erased d.wordsNow }
           ports := s.ports.map fun p => { p with txCtr := p.txCtr.map fun _ => 0, rxCtr := p.rxCtr.map fun _ => 0 }
           mbx := s.mbx.map fun b => { b with mem := b.mem.clear 0x1000 0x1000 } }

/-- Is a DBG_OPEN accepted (R77)? -/
def State.dbgAccepts (s : State) : Bool := s.aon.debug != .opened && s.clk.regReady && s.aon.power == .maintenance

/-- Step 1 of R150: the control core stops. The requests that it holds never complete and no notice is posted. -/
def Kolate.stopped (k : Kolate) : Kolate :=
  { k with running := false, held := none, waiting := [], cleaning := none, epochs := k.epochs.map fun e => { e with mute := true } }

/-- DBG_OPEN (R77, R150): steps 1 to 3. -/
def execDbgOpen (request : Bool) (s : State) : Res :=
  if s.tapUp then
    let t := s.tapScan 0x21 [false]
    if request && s.dbgAccepts then
      let t := (t.onAon fun a => { a with debug := .erasePending }).onKol Kolate.stopped
      .next (t.eraseKeys.onAon fun a => { a with secLock := true })
    else .next t
  else .next s

/-- DBG_ACCESS (R75): reads zero and ignores writes unless the status is OPEN; what the debug bus then does the spec does not say. -/
def execDbgAccess (busWord : BitVec 104) (s : State) : Res :=
  let _ := busWord
  if s.tapUp then
    match s.aon.debug with
    | .opened => .refused .debugBusNotDescribed
    | _ => .next (s.tapScan 0x22 (List.replicate 104 false))
  else .next s

/-- SEC_ERASED (R74, R150 step 4). -/
def execSecErased (s : State) : Res :=
  whenTrue (s.aon.debug == .erasePending && s.aon.secLock && s.boot.erased) s (s.onAon fun a => { a with debug := .opened })

end Sys2Proof.Machine
end

