-- ==== Sys2Proof/Machine/Dispatch.lean ====
section
/-! DEFINITION. One arm per command: a direct call of its meaning. -/

namespace Sys2Proof.Machine

/-- The effect of a command on everything but the queue. -/
def exec (i : Instr) (s : State) : Host.Outcome State Fault Refusal :=
  match i with
  | .powerOn => Sys2Proof.Machine.execPowerOn s
  | .powerOff => Sys2Proof.Machine.execPowerOff s
  | .coldResetRelease straps => Sys2Proof.Machine.execColdResetRelease straps s
  | .mainResetAssert pin => Sys2Proof.Machine.execMainResetAssert pin s
  | .clockLoss => Sys2Proof.Machine.execClockLoss s
  | .refLoss => Sys2Proof.Machine.execRefLoss s
  | .testReset => Sys2Proof.Machine.execTestReset s
  | .registerPortReady => Sys2Proof.Machine.execRegisterPortReady s
  | .referenceCheckDone => Sys2Proof.Machine.execReferenceCheckDone s
  | .bistDone failed => Sys2Proof.Machine.execBistDone failed s
  | .bistTimeout loc => Sys2Proof.Machine.execBistTimeout loc s
  | .fuseReadAck data err => Sys2Proof.Machine.execFuseReadAck data err s
  | .secTimeout => Sys2Proof.Machine.execSecTimeout s
  | .bootGo src data => Sys2Proof.Machine.execBootGo src data s
  | .imageAuthenticated given => Sys2Proof.Machine.execImageAuthenticated given s
  | .fwStartTimeout => Sys2Proof.Machine.execFwStartTimeout s
  | .federationCheckDone => Sys2Proof.Machine.execFederationCheckDone s
  | .federationTimeout => Sys2Proof.Machine.execFederationTimeout s
  | .trainingLimitExpiry port => Sys2Proof.Machine.execTrainingLimitExpiry port s
  | .warmReset src data => Sys2Proof.Machine.execWarmReset src data s
  | .registerWrite src addr data => Sys2Proof.Machine.execRegisterWrite src addr data s
  | .recordWord0Read src addr => Sys2Proof.Machine.execRecordWord0Read src addr s
  | .reqTail src mbox data => Sys2Proof.Machine.execReqTail src mbox data s
  | .cplHead src mbox data => Sys2Proof.Machine.execCplHead src mbox data s
  | .mbxReset src mbox data => Sys2Proof.Machine.execMbxReset src mbox data s
  | .alarmFatalClear src data => Sys2Proof.Machine.execAlarmFatalClear src data s
  | .snapRelease src data => Sys2Proof.Machine.execSnapRelease src data s
  | .cmdDataRead src => Sys2Proof.Machine.execCmdDataRead src s
  | .cmdDataWrite src data => Sys2Proof.Machine.execCmdDataWrite src data s
  | .tblDataRead src => Sys2Proof.Machine.execTblDataRead src s
  | .tblDataWrite src data => Sys2Proof.Machine.execTblDataWrite src data s
  | .srResultRead src => Sys2Proof.Machine.execSrResultRead src s
  | .posMapWrite src pos data => Sys2Proof.Machine.execPosMapWrite src pos data s
  | .couplerOwnerWrite src data => Sys2Proof.Machine.execCouplerOwnerWrite src data s
  | .chainRecWrite src seq chain word data => Sys2Proof.Machine.execChainRecWrite src seq chain word data s
  | .portCtlWrite src port data => Sys2Proof.Machine.execPortCtlWrite src port data s
  | .pairBypassWrite src data => Sys2Proof.Machine.execPairBypassWrite src data s
  | .ledgerWordWrite src word data => Sys2Proof.Machine.execLedgerWordWrite src word data s
  | .circRouteWordWrite src reg data => Sys2Proof.Machine.execCircRouteWordWrite src reg data s
  | .extest scan => Sys2Proof.Machine.execExtest scan s
  | .samplePreload scan => Sys2Proof.Machine.execSamplePreload scan s
  | .idcode => Sys2Proof.Machine.execIdcode s
  | .bypass code tdi => Sys2Proof.Machine.execBypass code tdi s
  | .dbgStatus => Sys2Proof.Machine.execDbgStatus s
  | .dbgOpen request => Sys2Proof.Machine.execDbgOpen request s
  | .dbgAccess busWord => Sys2Proof.Machine.execDbgAccess busWord s
  | .secErased => Sys2Proof.Machine.execSecErased s
  | .echo mbox => Sys2Proof.Machine.execEcho mbox s
  | .status mbox => Sys2Proof.Machine.execStatus mbox s
  | .mbxConfig mbox => Sys2Proof.Machine.execMbxConfig mbox s
  | .expertUnlock mbox => Sys2Proof.Machine.execExpertUnlock mbox s
  | .expertLock mbox => Sys2Proof.Machine.execExpertLock mbox s
  | .progBegin mbox => Sys2Proof.Machine.execProgBegin mbox s
  | .progChunk mbox => Sys2Proof.Machine.execProgChunk mbox s
  | .progCommit mbox => Sys2Proof.Machine.execProgCommit mbox s
  | .epochRun mbox => Sys2Proof.Machine.execEpochRun mbox s
  | .runPrefix mbox => Sys2Proof.Machine.execRunPrefix mbox s
  | .epochAbort mbox => Sys2Proof.Machine.execEpochAbort mbox s
  | .tableLoad mbox => Sys2Proof.Machine.execTableLoad mbox s
  | .ledgerSet mbox => Sys2Proof.Machine.execLedgerSet mbox s
  | .jobLoadWiring mbox => Sys2Proof.Machine.execJobLoadWiring mbox s
  | .jobLoadRoutes mbox => Sys2Proof.Machine.execJobLoadRoutes mbox s
  | .jobLoadCircuits mbox => Sys2Proof.Machine.execJobLoadCircuits mbox s
  | .jobLoadSeeds mbox => Sys2Proof.Machine.execJobLoadSeeds mbox s
  | .jobInstall mbox => Sys2Proof.Machine.execJobInstall mbox s
  | .partSetActive mbox => Sys2Proof.Machine.execPartSetActive mbox s
  | .partSetDelete mbox => Sys2Proof.Machine.execPartSetDelete mbox s
  | .partitionAdopt seq => Sys2Proof.Machine.execPartitionAdopt seq s
  | .partitionCleanDone => Sys2Proof.Machine.execPartitionCleanDone s
  | .portBypassEnter mbox => Sys2Proof.Machine.execPortBypassEnter mbox s
  | .portBypassRelease mbox => Sys2Proof.Machine.execPortBypassRelease mbox s
  | .maintEnter mbox => Sys2Proof.Machine.execMaintEnter mbox s
  | .maintLeave mbox => Sys2Proof.Machine.execMaintLeave mbox s
  | .breakClear mbox => Sys2Proof.Machine.execBreakClear mbox s
  | .breakCount mbox => Sys2Proof.Machine.execBreakCount mbox s
  | .breakTag mbox => Sys2Proof.Machine.execBreakTag mbox s
  | .fenceCoreFence mbox => Sys2Proof.Machine.execFenceCoreFence mbox s
  | .fenceCoreShadow mbox => Sys2Proof.Machine.execFenceCoreShadow mbox s
  | .fenceCoreShadowEnd mbox => Sys2Proof.Machine.execFenceCoreShadowEnd mbox s
  | .fenceCoreRestore mbox => Sys2Proof.Machine.execFenceCoreRestore mbox s
  | .windowOverflowTrap => Sys2Proof.Machine.execWindowOverflowTrap s
  | .windowUnderflowTrap => Sys2Proof.Machine.execWindowUnderflowTrap s
  | .firmwareHalt reason => Sys2Proof.Machine.execFirmwareHalt reason s
  | .watchdog => Sys2Proof.Machine.execWatchdog s
  | .epochBoundaryHalt => Sys2Proof.Machine.execEpochBoundaryHalt s
  | .epochRelease seq => Sys2Proof.Machine.execEpochRelease seq s
  | .compute seq inp => Sys2Proof.Machine.execCompute seq inp s
  | .sync seq => Sys2Proof.Machine.execSync seq s
  | .swap seq => Sys2Proof.Machine.execSwap seq s
  | .endEpoch seq => Sys2Proof.Machine.execEndEpoch seq s
  | .commandCompletion seq => Sys2Proof.Machine.execCommandCompletion seq s
  | .spReadData seq pos chan line time poison => Sys2Proof.Machine.execSpReadData seq pos chan line time poison s
  | .lineStampExpiry seq pos chan line refused => Sys2Proof.Machine.execLineStampExpiry seq pos chan line refused s
  | .tallyWaitWindowEnd seq => Sys2Proof.Machine.execTallyWaitWindowEnd seq s
  | .epilogueBeat time gen last data => Sys2Proof.Machine.execEpilogueBeat time gen last data s
  | .mcDrain time gen => Sys2Proof.Machine.execMcDrain time gen s
  | .landingComplete => Sys2Proof.Machine.execLandingComplete s
  | .drainDeadline => Sys2Proof.Machine.execDrainDeadline s
  | .couplerStuck => Sys2Proof.Machine.execCouplerStuck s
  | .phyReady port => Sys2Proof.Machine.execPhyReady port s
  | .portLoss port cause => Sys2Proof.Machine.execPortLoss port cause s
  | .portRetrain port => Sys2Proof.Machine.execPortRetrain port s
  | .alignCell port counts skew => Sys2Proof.Machine.execAlignCell port counts skew s
  | .idleCell c => Sys2Proof.Machine.execIdleCell c s
  | .trainId c => Sys2Proof.Machine.execTrainId c s
  | .trainTime c tRx => Sys2Proof.Machine.execTrainTime c tRx s
  | .trainDone c => Sys2Proof.Machine.execTrainDone c s
  | .data c => Sys2Proof.Machine.execData c s
  | .poison port slot => Sys2Proof.Machine.execPoison port slot s
  | .tag c => Sys2Proof.Machine.execTag c s
  | .counter c => Sys2Proof.Machine.execCounter c s
  | .bundle c => Sys2Proof.Machine.execBundle c s
  | .cellStampExpiry port slot => Sys2Proof.Machine.execCellStampExpiry port slot s
  | .abort c => Sys2Proof.Machine.execAbort c s
  | .channelBarrier c => Sys2Proof.Machine.execChannelBarrier c s
  | .barrierVote c => Sys2Proof.Machine.execBarrierVote c s
  | .barrierDecision c => Sys2Proof.Machine.execBarrierDecision c s
  | .commitCopyDone dom => Sys2Proof.Machine.execCommitCopyDone dom s
  | .localRollbackDone dom => Sys2Proof.Machine.execLocalRollbackDone dom s
  | .rolled c => Sys2Proof.Machine.execRolled c s
  | .rollbackDone c => Sys2Proof.Machine.execRollbackDone c s
  | .decisionWatchdog dom => Sys2Proof.Machine.execDecisionWatchdog dom s
  | .rollbackWatchdog dom => Sys2Proof.Machine.execRollbackWatchdog dom s
  | .syncMessage c => Sys2Proof.Machine.execSyncMessage c s
  | .rackSyncEdge => Sys2Proof.Machine.execRackSyncEdge s
  | .maintAck c => Sys2Proof.Machine.execMaintAck c s
  | .maintAckDue port => Sys2Proof.Machine.execMaintAckDue port s
  | .maintReplayTimeout port => Sys2Proof.Machine.execMaintReplayTimeout port s
  | .patrolRead mem find => Sys2Proof.Machine.execPatrolRead mem find s
  | .thermWarn sensor reading => Sys2Proof.Machine.execThermWarn sensor reading s
  | .thermal sensor reading => Sys2Proof.Machine.execThermal sensor reading s
  | .epilogueBeatNotPresented => Sys2Proof.Machine.execEpilogueBeatNotPresented s
  | .bypassSwitchWait pair => Sys2Proof.Machine.execBypassSwitchWait pair s
  | .reservedTypeCell c => Sys2Proof.Machine.execReservedTypeCell c s
  | .badOpcode mbox => Sys2Proof.Machine.execBadOpcode mbox s

end Sys2Proof.Machine
end

