-- ==== Sys2Proof/Safety.lean ====
section
/-! DEFINITION. What a sound state of the machine is, and the words in which the statements say what a command does: canonical memories,
list lengths that fit the configuration, granted register accesses, requests that are served, completions, ends of start-up. -/

namespace Sys2Proof

/-! ## Memories -/

/-- A memory after a word was stored: the word reads back, every other byte reads as before. -/
def Mem.stored (m n : Mem) (a : Nat) (w : Word) : Prop :=
  n.read64 a = w ∧ ∀ b, b < a ∨ a + 8 ≤ b → n.read b = m.read b

/-- Memories that read the same at every address. -/
def Mem.same (m n : Mem) : Prop := ∀ b, n.read b = m.read b

namespace Machine

/-! ## What stays the same -/

/-- The fields of State. -/
inductive Field where
  | cfg
  | aon
  | clk
  | boot
  | rp
  | win
  | mbx
  | kol
  | parts
  | keyHigh
  | cmdMem
  | seqs
  | cores
  | tables
  | ledger
  | ckpt
  | sp
  | coup
  | ports
  | pairHeld
  | coll
  | fedIn
  | fedOut
  | agenda
  | gln
  | tap
  | free
  | pending
deriving DecidableEq, Repr

/-- Two states hold the same in a field. -/
def State.sameAt (s t : State) : Field → Prop
  | .cfg => t.cfg = s.cfg
  | .aon => t.aon = s.aon
  | .clk => t.clk = s.clk
  | .boot => t.boot = s.boot
  | .rp => t.rp = s.rp
  | .win => t.win = s.win
  | .mbx => t.mbx = s.mbx
  | .kol => t.kol = s.kol
  | .parts => t.parts = s.parts
  | .keyHigh => t.keyHigh = s.keyHigh
  | .cmdMem => t.cmdMem = s.cmdMem
  | .seqs => t.seqs = s.seqs
  | .cores => t.cores = s.cores
  | .tables => t.tables = s.tables
  | .ledger => t.ledger = s.ledger
  | .ckpt => t.ckpt = s.ckpt
  | .sp => t.sp = s.sp
  | .coup => t.coup = s.coup
  | .ports => t.ports = s.ports
  | .pairHeld => t.pairHeld = s.pairHeld
  | .coll => t.coll = s.coll
  | .fedIn => t.fedIn = s.fedIn
  | .fedOut => t.fedOut = s.fedOut
  | .agenda => t.agenda = s.agenda
  | .gln => t.gln = s.gln
  | .tap => t.tap = s.tap
  | .free => t.free = s.free
  | .pending => t.pending = s.pending

/-- `s.keeps t l`: t holds what s holds in every field outside the list. -/
def State.keeps (s t : State) (l : List Field) : Prop := ∀ f, f ∉ l → s.sameAt t f

/-! ## Invariants -/

/-- Every addressed memory is in canonical form. -/
def State.memWf (s : State) : Bool :=
  s.cmdMem.wf && s.tables.wf && s.ledger.wf && s.sp.wf && s.cores.sheaves.wf && s.coup.chains.wf && s.kol.dmem.wf &&
    s.mbx.all fun b => b.mem.wf

/-- The numbers of mailboxes, sequencers, domains, ports, pairs, positions, cores and shadows are those of the configuration (R5, R110,
R130, R184, R424, R445). -/
def State.shaped (s : State) : Bool :=
  decide (s.mbx.length = 16 ∧ s.seqs.length = s.cfg.nSeq ∧ s.parts.length = s.cfg.nSeq ∧ s.coll.doms.length = s.cfg.nSeq ∧
    s.ports.length = s.cfg.nPort ∧ s.aon.bypass.length = s.cfg.nPair ∧ s.pairHeld.length = s.cfg.nPair ∧
    s.cores.serve.length = s.cfg.nActive ∧ s.cores.shadow.length = s.cfg.nActive ∧
    s.cores.phys.length = s.cfg.nActive + s.cfg.nSpare ∧ s.coup.epiStatus.length = s.cfg.nSeq ∧ s.rp.shadows.length = 16)

/-- ALARM_N is pulled low exactly while a fatal alarm bit is set (R57). -/
def State.alarmLine (s : State) : Bool := s.aon.alarmPulled == (s.aon.fatal != 0)

/-! ## The register port -/

/-- A register access that is served: the port answers (R56) and no check of R55 refuses it. -/
def State.grants (s : State) (src : BitVec 4) (wr : Bool) (a : Nat) : Bool := s.regUp && s.rspCode src.toNat wr a == rspOk

/-- The port's answer to an access: RSP_VALID with a code and a data word (R53). -/
def State.answered (s t : State) (code : BitVec 3) (data : Word) : Prop :=
  t.rp.valid = true ∧ t.rp.code = code ∧ t.rp.data = data ∧ t.rp.shadows = s.rp.shadows

/-- Of all sequencers, exactly those whose armed load bank holds a program with a command that meets `p` are unarmed; nothing else of any
sequencer changes (R136, R311, R337). -/
def State.unarmed (s t : State) (p : Nat → Cmd → Bool) : Prop :=
  ∀ q, t.seqAt q = if q < s.cfg.nSeq ∧ (s.armedProgram q).any (p q) = true then (s.seqAt q).unarm else s.seqAt q

/-- A message has gone to every other die of the part, and nothing else to any (R33, R313). -/
def State.copiedOut (s t : State) (m : FedMsg) : Prop :=
  ∀ x, x ∈ t.fedOut ↔ x ∈ s.fedOut ∨ (x.2 = m ∧ x.1 ≤ s.boot.straps.fedDies.toNat ∧ x.1 ≠ s.boot.straps.dieId.toNat)

/-! ## Start-up -/

/-- Every port's PHY_EN is 0 and every ring pair is in bypass (R95, R108). -/
def State.dark (s : State) : Prop :=
  (∀ p, p < s.cfg.nPort → (s.portAt p).phyEn = false) ∧ ∀ i, i < s.cfg.nPair → s.aon.bypass.getD i true = true

/-- Start-up has ended in FAILED with a reason (R93, R99, R104); nothing but the island, the start-up registers, the ports, time and the
gleaner has changed. -/
def State.failedFrom (s t : State) (reason : BitVec 8) : Prop :=
  t.aon.power = .failed ∧ t.boot.phase = 0xFF ∧ t.boot.reason = reason ∧ t.dark ∧
    s.keeps t [.aon, .boot, .ports, .clk, .gln]

/-- Start-up has stopped with a reason that is not fatal (R93, R103): PHASE 0xFF in STARTING. -/
def State.stoppedAt (t : State) (reason : BitVec 8) : Prop := t.aon.power = .starting ∧ t.boot.phase = 0xFF ∧ t.boot.reason = reason

/-! ## Requests -/

/-- Kolate serves mailbox m next, and its oldest request has an opcode and passes the checks common to all commands (R80, R114-R119). -/
def State.serves (s : State) (m op : Nat) : Bool :=
  let r := (s.mbxAt m).headReq m
  s.memWf && s.shaped && s.kolateFree && s.nextMbx == some m && r.opcode.toNat == op && (s.take r).commonCheck r == 0

/-- The request that mailbox m's REQ_HEAD names. -/
def State.reqAt (s : State) (m : Nat) : Req := (s.mbxAt m).headReq m

/-- Argument k of that request. -/
def State.argAt (s : State) (m k : Nat) : Word := (s.reqAt m).arg k

/-- Is the request the warden's, or the domain's whose sequencer it names (R119)? -/
def State.mayName (s : State) (m q : Nat) : Bool := (s.issuer (s.reqAt m)).all (· == q)

/-- The request was taken and completed (R112, R113, R117): REQ_HEAD and CPL_TAIL of its mailbox advanced by one, and the completion with the
request's tag and opcode stands in the ring slot before CPL_TAIL; of the mailbox nothing else changed, but its ring size if the request set
that. -/
def State.completed (s t : State) (m code detail : Nat) (r1 r2 r3 : Word) : Prop :=
  let b := s.mbxAt m
  let c := t.mbxAt m
  let a := 0xC00 + 32 * (b.cplTail.toNat % max c.entries 1)
  c = { b with reqHead := b.reqHead + 1, cplTail := b.cplTail + 1, entries := c.entries, mem := c.mem } ∧
    c.mem.read64 a = word ((s.reqAt m).tag.toNat + (s.reqAt m).opcode.toNat % 256 * 2 ^ 16 + code % 256 * 2 ^ 24 + detail % 2 ^ 32 * 2 ^ 32) ∧
    c.mem.read64 (a + 8) = r1 ∧ c.mem.read64 (a + 16) = r2 ∧ c.mem.read64 (a + 24) = r3 ∧
    ∀ x, x < a ∨ a + 32 ≤ x → c.mem.read x = b.mem.read x

/-- Outside the named fields, taking and completing the request changed only its mailbox, the round-robin turn and the watchdog's service;
the control core holds no request. -/
def State.onlyAnswered (s t : State) (m : Nat) (l : List Field) : Prop :=
  (∀ k, k ≠ m → t.mbxAt k = s.mbxAt k) ∧
    t.kol = { s.kol with turn := (m + 1) % 16, wdogSince := s.clk.localTime } ∧
    s.keeps t ([.mbx, .kol] ++ l)

/-! ## Epochs and cells -/

/-- Domain d's epoch is aborting with a reason: nothing of it is in flight on its sequencer, no line of it is awaited past the cycle in which
the abort came, and no effect of it is left for a later cycle (R60, R210, R406). -/
def State.aborts (t : State) (d reason : Nat) : Prop :=
  (t.domAt d).state = .aborting ∧ (t.domAt d).reason = BitVec.ofNat 8 reason ∧
    (∀ r, (t.seqAt d).run = some r → r.flight = [] ∧ ∀ x ∈ r.stamps, x.cycle ≤ (t.domAt d).abortTime) ∧
    ∀ x ∈ t.agenda, x.seq = d → x.cycle ≤ (t.domAt d).abortTime

/-- The fields that an abort may change: the gleaner, the epoch, the coupler, the silos, what is sent, and what was to come. -/
def abortFields : List Field := [.gln, .seqs, .coll, .coup, .ports, .cores, .agenda]

/-- A port receives a cell that its code corrects, with a header and a payload (R355, R358). -/
def State.received (s : State) (c : RxCell) (h : CellHdr) (pay : Bytes) : Prop :=
  s.receives c.port = true ∧ ∃ b n, openCell c.bytes = some (b, n) ∧ cellParts b = (h, pay)

/-- The state in which a received cell of a link slot acts: it has come at its time, and its corrected symbols and its wait are recorded (R358,
R371); a cell in a control slot of its port is seen there (R406). -/
def State.afterRx (s : State) (c : RxCell) : State :=
  (((s.arrive c.port c.slot).openRx c).1.recordWait c.port c.wait).slotSeen c.port c.slot

end Machine
end Sys2Proof
end

