-- ==== Sys2Proof/Certificates/Slice0/Obligations.lean ====
section
/-! DEFINITION. The statements for the provers. Their own terms (`keeps`, `completed`, `aborts`, the invariants) are in Safety. -/

open Sys2Proof Sys2Proof.Machine

/-! ## The queue and the step -/

/-- A step takes the command at the front of the queue and runs it with the rest (the block's form of "a step runs its instruction"). -/
def Obligations.StepRunsTheFrontCommand : Prop :=
  ∀ (c : Instr) (rest : List Instr) (s : State), s.pending = c :: rest → step s = exec c { s with pending := rest }

/-- On an empty queue one CK_V cycle passes where the divided clocks run (the model's choice, notes/assumptions/1; R82, R88): both times count on,
and a response is no longer valid. Where no class O cell waits, nothing else happens before its cycle, and a line whose SP_WR grant is in this
cycle is stored, with no other byte changed (R60). Wherever a command waits for its time and nothing else is due, only the clock, the
response and the gleaner change. -/
def Obligations.IdleStepIsOneCycle : Prop :=
  (∀ (n : Nat) (s : State), s.quiet = true → s.keeps (s.pass n) [.clk, .rp, .gln]) ∧
  ∀ s : State, s.pending = [] → (∀ q ∈ s.ports, q.queue = [] ∧ q.elastic = []) →
    let now := s.clk.rackTime + 1
    let on : Clk := { s.clk with rackTime := now, localTime := s.clk.localTime + 1 }
    (s.clk.dividers = false → step s = .next s) ∧
    (s.clk.dividers = true → (∀ x ∈ s.agenda, now < x.cycle) → ∃ t, step s = .next t ∧ t.clk = on ∧ t.rp = { s.rp with valid := false } ∧
      s.keeps t [.clk, .rp, .gln]) ∧
    (∀ d pos line cells arrival rest, s.clk.dividers = true → s.agenda = ⟨now, d, .store pos line cells arrival⟩ :: rest →
      (∀ x ∈ rest, now < x.cycle) → ∃ t, step s = .next t ∧ t.clk = on ∧ t.agenda = rest ∧ t.sp = s.sp.overlay cells ∧
        (∀ a, (∀ c ∈ cells, c.1 ≠ a) → t.sp.read a = s.sp.read a) ∧ s.keeps t [.clk, .rp, .gln, .sp, .agenda, .seqs])

/-- Every command but DBG_ACCESS answers a next state in every state; DBG_ACCESS is refused exactly where the debug bus would act, whose
behaviour the spec does not describe, and nothing faults. -/
def Obligations.OnlyDebugAccessIsRefused : Prop :=
  ∀ (i : Instr) (s : State), (∃ t, exec i s = .next t) ∨
    ((∃ w, i = .dbgAccess w) ∧ s.aon.debug = .opened ∧ s.aon.power ≠ .off ∧ exec i s = .refused .debugBusNotDescribed)

/-! ## Invariants -/

/-- The reset state meets the invariants. -/
def Obligations.ResetMeetsInvariants : Prop :=
  State.reset.memWf = true ∧ State.reset.shaped = true ∧ State.reset.alarmLine = true

/-- Every step keeps every memory in its canonical form. -/
def Obligations.StepKeepsMemoriesCanonical : Prop :=
  ∀ s t : State, s.memWf = true → step s = .next t → t.memWf = true

/-- Every step keeps the configuration, and as many mailboxes, sequencers, domains, ports, cores and records as it has. -/
def Obligations.StepKeepsConfiguredShape : Prop :=
  ∀ s t : State, s.shaped = true → step s = .next t → t.shaped = true ∧ t.cfg = s.cfg

/-- ALARM_N is low exactly while a fatal alarm bit is set, and every step keeps it so (R57). -/
def Obligations.StepKeepsAlarmLine : Prop :=
  ∀ s t : State, s.alarmLine = true → step s = .next t → t.alarmLine = true

/-- What reset leaves (R92, R93, R96, R111, R311, R402, R439, R444): the values that the spec states. -/
def Obligations.ResetLeavesStatedValues : Prop :=
  State.reset.aon.power = .standby ∧ State.reset.aon.debug = .closed ∧ State.reset.aon.secLock = false ∧ State.reset.aon.fatal = 0 ∧
    State.reset.aon.resetCause = .powerOn ∧ State.reset.dark ∧ State.reset.win.unlocked = [] ∧ State.reset.coup.owner = 0xF ∧
    (∀ d, d < 8 → (State.reset.domAt d).state = .idle) ∧ State.reset.gln.thermLimits = 0x7364 ∧ State.reset.win.ceLimit = 0x10 ∧
    (∀ p, p < 43 → (State.reset.portAt p).ctl = 1) ∧ State.reset.coll.logicalId = 0xFFFF ∧
    (∀ m, m < 16 → (State.reset.mbxAt m).entries = 16 ∧ (State.reset.mbxAt m).owner = if m < 2 then 8 else 0xF)

/-! ## Power and cold reset (03 R92-R96) -/

/-- POWER_ON resets the always-on island and holds the main domain in cold reset; POWER_OFF enters OFF, releases ALARM_N and asserts every
bypass. Neither writes the surroundings' scratchpad. COLD_RESET_RELEASE starts the dividers, samples the straps and enters phase 0x01;
nothing else changes. REGISTER_PORT_READY: from 64 CK_C cycles after the release of cold reset on, the port is ready. TEST_RESET completes in
every state: the test access port returns to IDCODE and drives nothing, and nothing else changes. -/
def Obligations.PowerOnAndColdResetRelease : Prop :=
  ((∀ s : State, s.aon.power = .off → ∃ t, exec .powerOn s = .next t ∧ t.aon.power = .standby ∧ t.aon.debug = .closed ∧
     t.aon.secLock = false ∧ t.aon.fatal = 0 ∧ t.aon.alarmPulled = false ∧ t.aon.resetCause = .powerOn ∧ t.dark ∧
     t.clk.dividers = false ∧ t.cfg = s.cfg ∧ t.pending = s.pending ∧ Mem.same s.sp t.sp) ∧
   (∀ s : State, ∃ t, exec .powerOff s = .next t ∧ t.aon.power = .off ∧ t.aon.secLock = false ∧ t.aon.alarmPulled = false ∧ t.dark ∧
     t.cfg = s.cfg ∧ t.pending = s.pending ∧ Mem.same s.sp t.sp)) ∧
  (∀ (st : Straps) (s : State), s.aon.power = .standby → ∃ t, exec (.coldResetRelease st) s = .next t ∧
     t.clk.dividers = true ∧ t.clk.rackTime = 0 ∧ t.clk.rackSynced = false ∧ t.clk.regReady = false ∧
     t.aon = { s.aon with power := .starting } ∧
     t.boot = { s.boot with straps := st, phase := 1, debugOpened := s.aon.debug != .closed } ∧
     s.keeps t [.clk, .aon, .boot]) ∧
  (∀ s : State, s.released = true → s.clk.regReady = false → s.clk.dividers = true →
     let u := s.untilLocal 128
     ∃ t, exec .registerPortReady s = .next t ∧ t.clk = { u.clk with regReady := true } ∧ u.keeps t [.clk] ∧
       (s.quiet = true → 128 ≤ t.clk.localTime ∧ s.clk.localTime ≤ t.clk.localTime ∧ s.keeps t [.clk, .rp, .gln])) ∧
  (∀ s : State, ∃ t, exec .testReset s = .next t ∧ t.tap = ⟨0x02, [], [], false⟩ ∧ s.keeps t [.tap])

/-- MAIN_RESET_ASSERT clears the main domain, drops every PHY_EN and asserts every bypass; the island keeps its alarms, debug state and
SEC_LOCK, and records the cause. CLOCK_LOSS and REF_LOSS in RUNNING: the fatal alarm latches, ALARM_N falls, the block is HALTED, every
port is dropped into bypass, no release is left queued, and all scheduled work stops: no command is in flight and nothing of an epoch is left
for a later cycle. The scratchpad, the block's memories and every domain stand. -/
def Obligations.MainResetAndClockLossStopTheBlock : Prop :=
  (∀ (pin : ResetPin) (s : State), s.released = true → ∃ t, exec (.mainResetAssert pin) s = .next t ∧
     t.aon.power = .standby ∧ t.dark ∧ t.clk.dividers = false ∧
     t.aon.fatal = s.aon.fatal ∧ t.aon.firstFatal = s.aon.firstFatal ∧ t.aon.debug = s.aon.debug ∧ t.aon.secLock = s.aon.secLock ∧
     t.aon.alarmPulled = s.aon.alarmPulled ∧ t.aon.resetReason = s.aon.firstFatal ∧
     t.aon.resetCause = (match pin with | .rstN => .coldPin | _ => .coldSupply) ∧
     t.boot.ready = false ∧ t.win.unlocked = [] ∧ (∀ d, (t.partAt d).live = false) ∧ (∀ q, (t.seqAt q).run = none) ∧
     Mem.same [] t.cmdMem ∧ Mem.same [] t.ledger ∧ Mem.same [] t.tables ∧ Mem.same s.sp t.sp ∧ t.tap = s.tap ∧ t.pending = s.pending) ∧
  (∀ s : State, s.aon.power = .running → s.shaped = true →
     let halts (i : Instr) (code bit : BitVec 32) : Prop := ∃ t, exec i s = .next t ∧ t.aon.power = .halted ∧ t.aon.alarmPulled = true ∧
       t.aon.fatal = s.aon.fatal ||| bit ∧ (s.aon.firstFatal = 0 → t.aon.firstFatal.setWidth 32 = code) ∧ t.dark ∧
       (∀ q ∈ t.seqs, q.runq = []) ∧ (∀ q r, q < s.cfg.nSeq → (t.seqAt q).run = some r → r.flight = [] ∧ r.stamps = []) ∧
       (∀ x ∈ t.agenda, x.seq < s.cfg.nSeq → (s.seqAt x.seq).run.isSome = true → x.cycle ≤ s.clk.rackTime) ∧ t.coll.tx = s.coll.tx ∧
       s.keeps t [.aon, .ports, .gln, .seqs, .kol, .mbx, .agenda, .cores, .coup]
     halts .clockLoss 1 1 ∧ halts .refLoss 2 2)

/-! ## Start-up (02 R56, R73; 03 R99-R106; 05 R140, R149) -/

/-- REFERENCE_CHECK_DONE ends phase 0x01, at the earliest 320 cycles after the release: with federation straps that break R78 start-up ends
with FED_CONFIG, otherwise phase 0x03 begins. FEDERATION_CHECK_DONE: equal reports of every other die end phase 0x07; an unequal one ends
start-up with FED_CONFIG. BIST_DONE without a central failure and with no more failing cores than spares completes: with debug closed it
begins phase 0x04. BIST_TIMEOUT, SEC_TIMEOUT and FEDERATION_TIMEOUT complete in their phases: start-up ends with their reasons. -/
def Obligations.DieChecksAdvanceOrEndStartUp : Prop :=
  (∀ s : State, s.aon.power = .starting → s.boot.phase = 1 → let u := s.untilLocal 320
     ∃ t, exec .referenceCheckDone s = .next t ∧
     (u.fedStrapsOk = true → t.boot = { u.boot with phase := 3, since := u.clk.localTime } ∧ u.keeps t [.boot, .ports, .gln]) ∧
     (u.fedStrapsOk = false → u.failedFrom t 0x02)) ∧
  (∀ s : State, s.aon.power = .starting → s.boot.phase = 7 → s.federated = true →
     (∀ e ∈ s.fedPorts, (s.portAt e).partner.isSome = true) → ∃ t, exec .federationCheckDone s = .next t ∧
       ((∀ e ∈ s.fedPorts, s.fedEqual e = true) → t.boot.phase = 8 ∨ t.boot.phase = 9) ∧
       ((∃ e ∈ s.fedPorts, s.fedEqual e = false) → s.failedFrom t 0x02)) ∧
  (∀ (failed : List SramLoc) (s : State), s.aon.power = .starting → s.boot.phase = 3 → s.aon.debug = .closed →
     failed.any centralMem = false → (bistCores (s.cfg.nActive + s.cfg.nSpare) failed).length ≤ s.cfg.nSpare →
     ∃ t, exec (.bistDone failed) s = .next t ∧ t.boot.phase = 4 ∧
       t.boot.fenced = (bistCores (s.cfg.nActive + s.cfg.nSpare) failed).length ∧ s.keeps t [.boot, .cores]) ∧
  (∀ s : State, s.aon.power = .starting →
     (∀ loc, s.boot.phase = 3 → ∃ t, exec (.bistTimeout loc) s = .next t ∧ (s.untilLocal (s.boot.since + 1600000)).failedFrom t 0x08) ∧
     (s.boot.phase = 4 → s.boot.secReq = true → ∃ t, exec .secTimeout s = .next t ∧
       (s.untilLocal (s.boot.since + 2048)).failedFrom t 0x04) ∧
     (s.boot.phase = 7 → ∃ t, exec .federationTimeout s = .next t ∧ (s.untilLocal (s.boot.since + 1600000)).failedFrom t 0x02))

/-- BIST_DONE: a central failure, or more failing cores than spares, ends start-up with BIST_FAIL; otherwise the failing cores are fenced
for good and counted, every position whose core has not failed keeps it, and with debug closed the fuse reads begin. Self-test, fuse reads
and the federation check that exceed their limits end start-up fatally with BIST_TIMEOUT, SEC_TIMEOUT and FED_CONFIG, and not before 1 ms of
self-test, 1024 CK_C cycles of a request, and 1 ms of phase 0x07 have passed (from when the last runs is the model's choice,
notes/assumptions/98). -/
def Obligations.SelfTestFencesOrFails : Prop :=
  (∀ (failed : List SramLoc) (s : State), s.aon.power = .starting → s.boot.phase = 3 →
     let bad := bistCores (s.cfg.nActive + s.cfg.nSpare) failed
     ∃ t, exec (.bistDone failed) s = .next t ∧
       ((failed.any centralMem = true ∨ s.cfg.nSpare < bad.length) → s.failedFrom t 0x03) ∧
       (failed.any centralMem = false → bad.length ≤ s.cfg.nSpare → s.aon.debug = .closed →
         t.boot = { s.boot with fenced := bad.length, phase := 4, since := s.clk.localTime, fuseIndex := 0, secReq := true } ∧
         (∀ k ∈ bad, ∀ c, t.cores.phys[k]? = some c → c.state = .fenced ∧ c.byBist = true) ∧
         (∀ g k : Nat, s.cores.serve[g]? = some k → k ∉ bad → (t.cores.serve)[g]? = some k) ∧ s.keeps t [.boot, .cores])) ∧
  (∀ s : State, s.aon.power = .starting → s.quiet = true → s.clk.dividers = true →
     (∀ loc, s.boot.phase = 3 → ∃ t, exec (.bistTimeout loc) s = .next t ∧ s.boot.since + 1600000 ≤ t.clk.localTime ∧
       t.aon.power = .failed ∧ t.boot.phase = 0xFF ∧ t.boot.reason = 0x08 ∧ t.dark ∧ s.keeps t [.aon, .boot, .ports, .clk, .rp, .gln]) ∧
     (s.boot.phase = 4 → s.boot.secReq = true → ∃ t, exec .secTimeout s = .next t ∧ s.boot.since + 2048 ≤ t.clk.localTime ∧
       t.aon.power = .failed ∧ t.boot.phase = 0xFF ∧ t.boot.reason = 0x04 ∧ t.dark ∧ s.keeps t [.aon, .boot, .ports, .clk, .rp, .gln]) ∧
     (s.boot.phase = 7 → ∃ t, exec .federationTimeout s = .next t ∧ s.boot.since + 1600000 ≤ t.clk.localTime ∧
       t.aon.power = .failed ∧ t.boot.phase = 0xFF ∧ t.boot.reason = 0x02 ∧ t.dark ∧ s.keeps t [.aon, .boot, .ports, .clk, .rp, .gln]))

/-- FUSE_READ_ACK: the word is taken by its index and the next one is requested, in the second cycle after (that the request rises one CK_C cycle
after it fell is the model's choice, notes/assumptions/96); the serial's halves, KEYS_PROGRAMMED, words that are ignored, and the end after
word 31. SEC_RD_REQ is 0 in the cycle after the acknowledgement (R73). -/
def Obligations.FuseWordsAreTakenInOrder : Prop :=
  ∀ (w : Word) (s : State), s.aon.power = .starting → s.boot.phase = 4 → s.boot.secReq = true →
    let u := s.untilLocal s.boot.since
    let i := u.boot.fuseIndex
    ∃ t, exec (.fuseReadAck w false) s = .next t ∧ t.secRdReq = false ∧ (i < 31 ∨ u.slave = false → u.keeps t [.boot]) ∧
    (i < 31 → t.boot.fuseIndex = i + 1 ∧ t.boot.since = u.nextSecReq ∧ t.boot.secReq = u.boot.secReq ∧ t.boot.phase = u.boot.phase) ∧
    (i = 8 → t.boot.serial.setWidth 64 = w ∧ t.boot.serial >>> 64 = u.boot.serial >>> 64) ∧
    (i = 9 → (t.boot.serial >>> 64).setWidth 64 = w) ∧
    (i = 11 → t.boot.keysProgrammed = w.getLsbD 0) ∧
    (12 ≤ i → i < 31 → t.boot = { u.boot with fuseIndex := i + 1, since := u.nextSecReq }) ∧
    (i = 31 → u.slave = false → t.boot.phase = 5 ∧ t.boot.secReq = false)

/-- BOOT_GO of 1 is accepted only in phase 0x05, or in phase 0xFF with REASON FW_IMAGE, FW_AUTH or FW_START; else it changes nothing and
answers OK. An accepted one counts an attempt and checks the image registers: the fetch begins through the lowest-numbered unfenced core, or
start-up stops with FW_IMAGE. -/
def Obligations.BootGoIsAcceptedInItsPhases : Prop :=
  ∀ (data : Word) (s : State), s.grants 8 true 0x98 = true →
    let accepted := s.boot.phase = 5 ∨ (s.boot.phase = 0xFF ∧ (s.boot.reason = 5 ∨ s.boot.reason = 6 ∨ s.boot.reason = 9))
    let a := s.boot.imageAddr.toNat
    let n := s.boot.imageLen.toNat
    let good := a % 512 = 0 ∧ n % 512 = 0 ∧ 4096 ≤ n ∧ n ≤ 524288
    ∃ t, exec (.bootGo 8 data) s = .next t ∧ s.answered t rspOk 0 ∧
      (data.getLsbD 0 = true → ¬accepted → s.keeps t [.rp]) ∧
      (data.getLsbD 0 = true → accepted → t.boot.attempts = min 255 (s.boot.attempts + 1) ∧ s.keeps t [.rp, .boot] ∧
        (good → t.boot.phase = 6 ∧ t.boot.reason = s.boot.reason ∧ t.boot.fetchCore = s.cores.lowestUnfenced) ∧ (¬good → s.aon.power = .starting → t.stoppedAt 0x05))

/-- IMAGE_AUTHENTICATED starts Kolate on the image that stands in the scratchpad at BOOT_IMAGE_ADDR (with the bytes that other clients have put
there) if it authenticates, or on any image when debug was opened or no keys are programmed; otherwise start-up stops with FW_AUTH and the
control core stays as it was. FW_START_TIMEOUT stops the core, scrubs its instruction memory and sets FW_START. -/
def Obligations.KolateStartsOnAGoodImageOnly : Prop :=
  (∀ (given : List Host.Cell) (s : State), s.aon.power = .starting → s.boot.phase = 6 →
    let u : State := { s with sp := s.sp.overlay given }
    let image := u.sp.readBytes s.boot.imageAddr.toNat s.boot.imageLen.toNat
    let good := s.boot.debugOpened = true ∨ s.boot.keysProgrammed = false ∨ s.boot.authentic image = true
    (∀ a, (∀ c ∈ given, c.1 ≠ a) → u.sp.read a = s.sp.read a) ∧
    ∃ t, exec (.imageAuthenticated given) s = .next t ∧ t.sp = u.sp ∧
      (good → t.kol.running = true ∧ t.kol.imem = image ∧ t.boot.phase ≠ 6) ∧
      (¬good → t.stoppedAt 0x06 ∧ u.keeps t [.boot])) ∧
  (∀ s : State, s.aon.power = .starting → s.boot.phase = 6 → let u := s.untilLocal (s.boot.since + 3200000)
    ∃ t, exec .fwStartTimeout s = .next t ∧ t.boot.phase = 0xFF ∧ t.boot.reason = 0x09 ∧ t.aon = u.aon ∧
      t.kol = { u.kol with running := false, imem := [] } ∧ u.keeps t [.boot, .kol])

/-- WARM_RESET: the warden's 0xA5 scrubs block SRAM, locks every window and restarts at phase 0x04, keeping straps, alarms and debug
state; any other value is DENIED and changes nothing. -/
def Obligations.WarmResetNeedsItsMagicValue : Prop :=
  ∀ (data : Word) (s : State), s.grants 8 true 0xA8 = true → ∃ t, exec (.warmReset 8 data) s = .next t ∧
    (field data 0 8 ≠ 0xA5 → s.answered t rspDenied 0 ∧ s.keeps t [.rp]) ∧
    (field data 0 8 = 0xA5 → s.aon.debug = .closed → t.boot.phase = 4 ∧ t.boot.secReq = true ∧ t.boot.ready = false ∧
      t.aon.power = .starting ∧ t.aon.resetCause = .warm ∧ t.aon.fatal = s.aon.fatal ∧ t.aon.debug = s.aon.debug ∧
      t.boot.straps = s.boot.straps ∧ t.win.unlocked = [] ∧ Mem.same [] t.cmdMem ∧ Mem.same [] t.ledger ∧ Mem.same [] t.tables ∧
      Mem.same [] t.coup.chains ∧ Mem.same [] t.cores.sheaves ∧ (∀ d, (t.partAt d).live = false) ∧ (∀ q, (t.seqAt q).run = none) ∧
      Mem.same s.sp t.sp ∧ t.clk = s.clk ∧ t.tap = s.tap)

/-! ## The test access port and debug (02 R74-R77; 03 R96; 05 R150) -/

/-- The scans that move no boundary cell: IDCODE, BYPASS and reserved codes, DBG_STATUS, DBG_ACCESS outside OPEN; and TEST_RESET. Each
completes in every powered state and changes the TAP alone. The code of a debug status is a free value of the model (notes/assumptions/10).
EXTEST and SAMPLE/PRELOAD complete too: they capture the boundary cells and shift the scanned bits into the latches, which EXTEST alone
drives. Only the TAP changes, and the count of free values that stand for the levels of inputs (notes/assumptions/9). -/
def Obligations.TapScansChangeOnlyTheTap : Prop :=
  (∀ s : State, s.aon.power ≠ .off →
     (∃ t, exec .idcode s = .next t ∧ t.tap.ir = 0x02 ∧ t.tap.dr = (List.range 32).map s.idcode.getLsbD ∧ s.keeps t [.tap]) ∧
     (∀ code tdi, code ∉ ([0x00, 0x01, 0x02, 0x20, 0x21, 0x22] : List (BitVec 8)) → ∃ t, exec (.bypass code tdi) s = .next t ∧
       t.tap.ir = code ∧ t.tap.dr = [false, tdi] ∧ s.keeps t [.tap]) ∧
     (∃ t, exec .dbgStatus s = .next t ∧ t.tap.ir = 0x20 ∧ t.tap.dr.length = 8 ∧ s.keeps t [.tap]) ∧
     (∀ w, s.aon.debug ≠ .opened → ∃ t, exec (.dbgAccess w) s = .next t ∧ t.tap.dr = List.replicate 104 false ∧ s.keeps t [.tap]) ∧
     (∃ t, exec .testReset s = .next t ∧ t.tap.ir = 0x02 ∧ t.tap.driving = false ∧ s.keeps t [.tap])) ∧
  (∀ (scan : List Bool) (s : State), s.aon.power ≠ .off →
     let shifts (i : Instr) (drive : Bool) : Prop := ∃ t, exec i s = .next t ∧ t.tap.driving = drive ∧
       t.tap.boundary.length = t.tap.dr.length ∧ t.tap.boundary = (t.tap.dr ++ scan).drop scan.length ∧
       t = { s with tap := t.tap, free := s.free + 3 }
     shifts (.extest scan) true ∧ shifts (.samplePreload scan) false)

/-- DBG_OPEN in MAINTENANCE with debug not OPEN stops the control core, which lets go of every request and posts nothing more, erases every key
and the mailbox data areas, raises SEC_LOCK and enters ERASE_PENDING; otherwise only the TAP changes. SEC_ERASED then makes the state OPEN.
Before and after, the other scans complete in every powered state: EXTEST, SAMPLE/PRELOAD, IDCODE, BYPASS and DBG_STATUS, and DBG_ACCESS
outside OPEN, change the TAP and the count of free values alone and leave their instruction selected. -/
def Obligations.DebugOpensOnlyAfterTheErase : Prop :=
  (∀ s : State, s.aon.power = .maintenance → s.clk.regReady = true → s.aon.debug ≠ .opened →
    ∃ t, exec (.dbgOpen true) s = .next t ∧ t.kol.running = false ∧ t.kol.held = none ∧ t.kol.waiting = [] ∧ t.kol.cleaning = none ∧
    (∀ e ∈ t.kol.epochs, e.mute = true) ∧ t.boot.hasKeys = false ∧
    t.boot.drk = 0 ∧ t.boot.fak = 0 ∧ t.boot.dik = 0 ∧ t.boot.dwk = 0 ∧ (∀ d, (t.partAt d).hasKey = false ∧ (t.partAt d).key = 0) ∧
    (∀ p ∈ t.ports, (∀ c ∈ p.txCtr, c = 0) ∧ ∀ c ∈ p.rxCtr, c = 0) ∧
    (∀ b ∈ t.mbx, ∀ a, 0x1000 ≤ a → a < 0x2000 → b.mem.read a = 0) ∧
    Mem.same [] t.kol.dmem ∧ t.aon = { s.aon with debug := .erasePending, secLock := true } ∧
    s.keeps t [.tap, .aon, .kol, .boot, .parts, .ports, .mbx]) ∧
  (∀ (r : Bool) (s : State), s.aon.power ≠ .off → r = false ∨ s.aon.power ≠ .maintenance ∨ s.aon.debug = .opened ∨ s.clk.regReady = false →
    ∃ t, exec (.dbgOpen r) s = .next t ∧ t.tap.dr = [false] ∧ s.keeps t [.tap]) ∧
  (∀ s : State, s.aon.debug = .erasePending → s.aon.secLock = true → s.boot.erased = true → ∃ t, exec .secErased s = .next t ∧
    t.aon.debug = .opened ∧ t = { s with aon := { s.aon with debug := .opened } }) ∧
  (∀ s : State, s.aon.power ≠ .off →
    let scans (i : Instr) (code : BitVec 8) : Prop := ∃ t, exec i s = .next t ∧ t.tap.ir = code ∧ s.keeps t [.tap, .free]
    (∀ scan, scans (.extest scan) 0x00 ∧ scans (.samplePreload scan) 0x01) ∧ scans .idcode 0x02 ∧ scans .dbgStatus 0x20 ∧
    (∀ code tdi, bypassCode code = true → scans (.bypass code tdi) code) ∧
    ∀ w, s.aon.debug ≠ .opened → scans (.dbgAccess w) 0x22)

/-! ## The register port (02 R53-R57; 04 R111-R115; 17 R440; 18 R443-R455) -/

/-- The response code of an access is the first that applies in the order of R55; a refused access is answered with its code and zero data
and changes nothing else (R54). SLAVE is the code of every access of a slave that names no register of the identity block; NOT_READY spares
the start-up registers besides. -/
def Obligations.RefusedAccessesChangeNothing : Prop :=
  ∀ (src : BitVec 4) (addr : BitVec 24) (s : State), s.regUp = true →
    let a := addr.toNat
    let code (wr : Bool) := s.rspCode src.toNat wr a
    let applies (wr : Bool) : List (Bool × BitVec 3) :=
      [(decide (a % 8 ≠ 0), rspMisaligned),
       (decide (s.boot.straps.fedDies ≠ 0 ∧ s.boot.straps.fedMaster = false) && !s.identityAt a, rspSlave),
       (!s.boot.ready && !s.identityAt a && regionOf a != .startup, rspNotReady),
       (decide (s.aon.power = .halted) && !haltedServes wr (regionOf a), rspHalted),
       ((s.readWord a).isNone && !s.hidden src.toNat wr (regionOf a), rspUnmapped),
       (!s.allowed src.toNat wr (regionOf a), rspDenied)]
    (∀ wr, code wr = (((applies wr).find? Prod.fst).map Prod.snd).getD rspOk) ∧
    (∀ data, code true ≠ rspOk → ∃ t, exec (.registerWrite src addr data) s = .next t ∧ s.answered t (code true) 0 ∧ s.keeps t [.rp]) ∧
    (code false ≠ rspOk → ∃ t, exec (.recordWord0Read src addr) s = .next t ∧ s.answered t (code false) 0 ∧ s.keeps t [.rp])

/-- REGISTER_WRITE that is granted completes: the answer is that of its register; a read-only register is answered OK and unchanged, a W1C
register loses the bits written as 1, and reserved bits are stored as 0. A gleaner register of the die that GLN_DIE names is written there. -/
def Obligations.RegisterWriteStoresByAccessType : Prop :=
  (∀ (src : BitVec 4) (addr : BitVec 24) (data : Word) (s : State), s.grants src true addr.toNat = true →
    ∃ t, exec (.registerWrite src addr data) s = .next t ∧ t.rp.valid = true ∧ t.rp.code = (s.writeReg addr.toNat data).1 ∧ t.rp.data = 0) ∧
  (∀ (src : BitVec 4) (data : Word) (s : State), s.gln.die.toNat % 8 ≠ s.boot.straps.dieId.toNat → s.grants src true 0x50008 = true →
    ∃ t, exec (.registerWrite src 0x50008 data) s = .next t ∧ s.answered t rspOk 0 ∧
      t.fedOut = (s.gln.die.toNat % 8, FedMsg.write 0x50008 0 data) :: s.fedOut ∧ s.keeps t [.rp, .fedOut]) ∧
  (∀ (src : BitVec 4) (data : Word) (s : State), s.gln.die.toNat % 8 = s.boot.straps.dieId.toNat →
    (s.grants src true 0x50008 = true → ∃ t, exec (.registerWrite src 0x50008 data) s = .next t ∧ s.answered t rspOk 0 ∧
      t.gln = { s.gln with warn := s.gln.warn &&& ~~~(data.setWidth 32) } ∧ s.keeps t [.rp, .gln]) ∧
    (s.grants src true 0x50010 = true → ∃ t, exec (.registerWrite src 0x50010 data) s = .next t ∧ s.answered t rspOk 0 ∧
      t.gln = { s.gln with irqEn := data &&& 0xFFFFFFFF } ∧ s.keeps t [.rp, .gln]) ∧
    (s.grants src true 0x50018 = true → ∃ t, exec (.registerWrite src 0x50018 data) s = .next t ∧ s.answered t rspOk 0 ∧
      s.keeps t [.rp]) ∧
    (s.grants src true 0x88 = true → ∃ t, exec (.registerWrite src 0x88 data) s = .next t ∧ s.answered t rspOk 0 ∧
      t.boot = { s.boot with imageAddr := data &&& 0xFFFFFFFFFF } ∧ s.keeps t [.rp, .boot]))

/-- REQ_TAIL and CPL_HEAD store a counter, and set OVERRUN when it stands more than ENTRIES from its counterpart. MBX_RESET clears the
counters, OVERRUN and the reservations, at once where Kolate holds no request of the mailbox; else it raises RESET_BUSY. ALARM_FATAL is
W1C, and the last fatal bit to clear releases ALARM_N; counts and the first code stay. SNAP_RELEASE of 1 unfreezes the snapshot. A granted
REGISTER_WRITE completes with the answer of its register; to MBX_IRQ_EN it stores the enable, and to the data area of a mailbox its word. -/
def Obligations.CountersAlarmsAndSnapshotsClear : Prop :=
  (∀ (src : BitVec 4) (m : Nat) (data : Word) (s : State), m < 16 → s.shaped = true →
     let b := s.mbxAt m
     let only (t : State) (b' : Mailbox) (l : List Field) : Prop :=
       s.answered t rspOk 0 ∧ t.mbxAt m = b' ∧ (∀ k, k ≠ m → t.mbxAt k = s.mbxAt k) ∧ s.keeps t l
     let v : BitVec 16 := data.setWidth 16
     (s.grants src true (0x1008 + 0x2000 * m) = true → ∃ t, exec (.reqTail src m data) s = .next t ∧
       only t { b with reqTail := v, overrun := b.overrun || decide (b.entries < (v - b.reqHead).toNat) } [.rp, .mbx]) ∧
     (s.grants src true (0x1020 + 0x2000 * m) = true → ∃ t, exec (.cplHead src m data) s = .next t ∧
       only t { b with cplHead := v, overrun := b.overrun || decide (b.entries < (b.cplTail - v).toNat) } [.rp, .mbx]) ∧
     (s.grants src true (0x1038 + 0x2000 * m) = true → ∃ t, exec (.mbxReset src m data) s = .next t ∧
       (data.getLsbD 0 = false → s.answered t rspOk 0 ∧ s.keeps t [.rp]) ∧
       (data.getLsbD 0 = true → s.holds m = true → only t { b with resetBusy := true } [.rp, .mbx]) ∧
       (data.getLsbD 0 = true → s.holds m = false →
         only t { b with reqTail := 0, reqHead := 0, cplTail := 0, cplHead := 0, overrun := false, resetBusy := false, reserved := 0 }
           [.rp, .mbx, .kol] ∧
         t.kol = { s.kol with epochs := s.kol.epochs.map fun e => if e.mbox = m then { e with mute := true } else e }))) ∧
  (∀ (src : BitVec 4) (data : Word) (s : State), s.gln.die.toNat % 8 = s.boot.straps.dieId.toNat →
     (s.grants src true 0x50000 = true → ∃ t, exec (.alarmFatalClear src data) s = .next t ∧ s.answered t rspOk 0 ∧
       let f := s.aon.fatal &&& ~~~(data.setWidth 32)
       t.aon = { s.aon with fatal := f, alarmPulled := s.aon.alarmPulled && f != 0 } ∧ s.keeps t [.rp, .aon]) ∧
     (s.grants src true 0x50338 = true → ∃ t, exec (.snapRelease src data) s = .next t ∧ s.answered t rspOk 0 ∧
       t.gln = { s.gln with snapValid := s.gln.snapValid && !data.getLsbD 0 } ∧ s.keeps t [.rp, .gln])) ∧
  (∀ (src : BitVec 4) (addr : BitVec 24) (data : Word) (s : State), s.grants src true addr.toNat = true →
    ∃ t, exec (.registerWrite src addr data) s = .next t ∧ s.pending = t.pending ∧ t.rp.valid = true ∧
      t.rp.code = (s.writeReg addr.toNat data).1 ∧ t.rp.data = 0 ∧
      (∀ m, m < 16 → s.mbx.length = 16 → addr.toNat = 0x1030 + 0x2000 * m → s.answered t rspOk 0 ∧
        t.mbxAt m = { s.mbxAt m with irqEn := data.getLsbD 0 } ∧ (∀ k, k ≠ m → t.mbxAt k = s.mbxAt k) ∧ s.keeps t [.rp, .mbx]) ∧
      (∀ m a, m < 16 → s.shaped = true → s.memWf = true → 0x1000 ≤ a → a < 0x2000 → addr.toNat = 0x1000 + 0x2000 * m + a →
        s.answered t rspOk 0 ∧ Mem.stored (s.mbxAt m).mem (t.mbxAt m).mem a data ∧
        t.mbxAt m = { s.mbxAt m with mem := (t.mbxAt m).mem } ∧ (∀ k, k ≠ m → t.mbxAt k = s.mbxAt k) ∧ s.keeps t [.rp, .mbx]))

/-- CMD_DATA and TBL_DATA: a read returns the selected word, a write stores it, and each advances WORD, which wraps after the last word. A
write into a segment's active bank, or into a table in use, is DENIED with its sticky bit and moves no selector; a write into a load bank
empties that bank. -/
def Obligations.WindowDataPortsAdvance : Prop :=
  ∀ (src : BitVec 4) (data : Word) (s : State), s.memWf = true → s.shaped = true →
    let bank := field s.win.cmdSel 24 1
    let w := field s.win.cmdSel 3 15
    let q := w * 8 / s.cfg.segBytes
    let x := field s.win.tblSel 8 9
    let i := field s.win.tblSel 0 5
    let cmdNext (t : State) : Prop := field t.win.cmdSel 3 15 = (if w = 32767 then 0 else w + 1) ∧ field t.win.cmdSel 24 1 = bank ∧
      t.win = { s.win with cmdSel := t.win.cmdSel }
    let tblNext (t : State) : Prop := (x < 320 → field t.win.tblSel 8 9 = if x = 319 then 0 else x + 1) ∧ field t.win.tblSel 0 5 = i ∧
      t.win = { s.win with tblSel := t.win.tblSel }
    (s.grants src false 0x110008 = true → ∃ t, exec (.cmdDataRead src) s = .next t ∧
      s.answered t rspOk (s.cmdMem.read64 (262144 * bank + 8 * w)) ∧ cmdNext t ∧ s.keeps t [.rp, .win]) ∧
    (s.grants src false 0x130008 = true → ∃ t, exec (.tblDataRead src) s = .next t ∧
      s.answered t rspOk (s.tables.read64 (2560 * i + 8 * x)) ∧ tblNext t ∧ s.keeps t [.rp, .win]) ∧
    (s.grants src true 0x110008 = true → ∃ t, exec (.cmdDataWrite src data) s = .next t ∧
      ((s.seqAt q).activeBank % 2 = bank → s.answered t rspDenied 0 ∧ t.win = { s.win with seqErr := s.win.seqErr ||| 1 } ∧
        s.keeps t [.rp, .win]) ∧
      ((s.seqAt q).activeBank % 2 ≠ bank → s.answered t rspOk 0 ∧ cmdNext t ∧
        Mem.stored s.cmdMem t.cmdMem (262144 * bank + 8 * w) data ∧
        t.seqAt q = { s.seqAt q with load := .empty, session := none, imgLen := (s.seqAt q).imgLen.set bank 0 } ∧
        (∀ k, k ≠ q → t.seqAt k = s.seqAt k) ∧ s.keeps t [.rp, .win, .cmdMem, .seqs])) ∧
    (s.grants src true 0x130008 = true → ∃ t, exec (.tblDataWrite src data) s = .next t ∧
      (s.tableInUse i = true → s.answered t rspDenied 0 ∧ t.win = { s.win with feErr := s.win.feErr ||| 1 } ∧ s.keeps t [.rp, .win]) ∧
      (s.tableInUse i = false → s.answered t rspOk 0 ∧ tblNext t ∧ Mem.stored s.tables t.tables (2560 * i + 8 * x) data ∧
        s.keeps t [.rp, .win, .tables]))

/-- A read of word 0 of STATUS_REC[q] copies the record into the requester's shadow; a read of a later word of the record that tags the
shadow returns the shadow's word. SR_RESULT is the generator's value for the seed, index and stage in the window. -/
def Obligations.RecordsAreReadThroughTheShadow : Prop :=
  (∀ (src : BitVec 4) (q : Nat) (s : State), q < 8 → s.shaped = true → s.grants src false (0x22000 + 0x200 * q) = true →
    ∃ t, exec (.recordWord0Read src (BitVec.ofNat 24 (0x22000 + 0x200 * q))) s = .next t ∧
      t.rp.valid = true ∧ t.rp.code = rspOk ∧ t.rp.data = (s.seqAt q).status.w0 ∧
      t.rp.shadows[src.toNat]? = some ⟨some (0x22000 + 0x200 * q), (s.seqAt q).status⟩ ∧
      (∀ n, n ≠ src.toNat → t.rp.shadows[n]? = s.rp.shadows[n]?) ∧ s.keeps t [.rp]) ∧
  (∀ (src : BitVec 4) (q k : Nat) (r : W4) (s : State), q < 8 → 0 < k → k < 4 → s.grants src false (0x22000 + 0x200 * q + 8 * k) = true →
    s.rp.shadows[src.toNat]? = some ⟨some (0x22000 + 0x200 * q), r⟩ →
    ∃ t, exec (.recordWord0Read src (BitVec.ofNat 24 (0x22000 + 0x200 * q + 8 * k))) s = .next t ∧ s.answered t rspOk (r.get k) ∧
      s.keeps t [.rp]) ∧
  (∀ (src : BitVec 4) (s : State), s.grants src false 0x140020 = true → ∃ t, exec (.srResultRead src) s = .next t ∧
    s.answered t rspOk (word (srBits (s.win.srSeed.setWidth 32) (s.win.srLHi.toNat % 65536 * 2 ^ 64 + s.win.srLLo.toNat)
      (s.win.srStage.toNat % 65536))) ∧ s.keeps t [.rp])

/-- POS_MAP names the core that serves a position and the one that shadows it. A core that leaves becomes FREE if it is a spare and FENCED
otherwise; a write that names a fenced core or another position's core, or meets a running epoch, is DENIED. A position of another die is
written there, and whether that die takes it is a free value of the model (notes/assumptions/21). COUPLER_OWNER and the chain records:
refused while any epoch runs; otherwise stored with their reserved bits forced to zero and copied to every die of the part, and armed
programs that depend on them are unarmed. -/
def Obligations.PositionMapAndCouplerSettings : Prop :=
  (∀ (src : BitVec 4) (g : Nat) (data : Word) (s : State), s.shaped = true → g < 1024 →
     s.grants src true (0x120000 + 8 * g) = true →
     let n := s.cfg.nActive
     let l := g % n
     let k := field data 0 8
     let h := field data 8 8
     let old := s.cores.serve.getD l l
     let good := s.posRuns g = false ∧ s.coreFor l k = true ∧ (h = 0xFF ∨ (s.coreFor l h = true ∧ h ≠ k))
     let denied (t u : State) : Prop := u.answered t rspDenied 0 ∧ t.win = { u.win with vaErr := u.win.vaErr ||| 1 }
     ∃ t, exec (.posMapWrite src g data) s = .next t ∧
       (g / n = s.boot.straps.dieId.toNat →
         (good → s.answered t rspOk 0 ∧ t.cores.serve.getD l l = k ∧ t.cores.shadow.getD l none = (if h = 0xFF then none else some h) ∧
           (∀ x, x ≠ l → t.cores.serve[x]? = s.cores.serve[x]? ∧ t.cores.shadow[x]? = s.cores.shadow[x]?) ∧
           (old ≠ k → old ≠ h → ∀ c, t.cores.phys[old]? = some c → c.state = if n ≤ old then .free else .fenced) ∧
           (old ≠ k → ∀ c, t.cores.phys[k]? = some c → c.state = .serving) ∧ s.keeps t [.rp, .cores]) ∧
         (¬good → denied t s ∧ s.keeps t [.rp, .win])) ∧
       (g / n ≠ s.boot.straps.dieId.toNat →
         (s.posRuns g = true → denied t s ∧ s.keeps t [.rp, .win]) ∧
         (s.posRuns g = false → t.fedOut = (g / n, FedMsg.write (0x120000 + 8 * g) 0 data) :: s.fedOut ∧ t.free = s.free + 1 ∧
           ((s.answered t rspOk 0 ∧ t.win = s.win) ∨ denied t s) ∧ s.keeps t [.rp, .win, .fedOut, .free]))) ∧
  ((∀ (src : BitVec 4) (data : Word) (s : State), s.shaped = true → s.grants src true 0x170000 = true →
     ∃ t, exec (.couplerOwnerWrite src data) s = .next t ∧
       (s.anyEpoch = true → s.answered t rspDenied 0 ∧ s.keeps t [.rp]) ∧
       (s.anyEpoch = false → s.answered t rspOk 0 ∧ t.coup = { s.coup with owner := data.setWidth 4 } ∧
         s.copiedOut t (.write 0x170000 0 (data &&& 15)) ∧
         s.unarmed t (fun _ c => c.dst == 3) ∧ s.keeps t [.rp, .coup, .seqs, .fedOut])) ∧
   (∀ (src : BitVec 4) (q c w : Nat) (data : Word) (s : State), s.memWf = true → s.shaped = true → q < s.cfg.nSeq → c < 8 → w < 8 →
     let v := data &&& (if w = 0 then 0x1FFFFFFFFF else if w = 7 then 0x3FFFFFFFFFFFFF else 0xFFFFFFFFFFFFFFFF)
     s.grants src true (0x171000 + 0x200 * q + 0x40 * c + 8 * w) = true → ∃ t, exec (.chainRecWrite src q c w data) s = .next t ∧
       (s.anyEpoch = true → s.answered t rspDenied 0 ∧ s.keeps t [.rp]) ∧
       (s.anyEpoch = false → s.answered t rspOk 0 ∧ Mem.stored s.coup.chains t.coup.chains (512 * q + 64 * c + 8 * w) v ∧
         t.coup = { s.coup with chains := t.coup.chains } ∧ s.copiedOut t (.write (0x171000 + 0x200 * q + 0x40 * c + 8 * w) 0 v) ∧
         s.unarmed t (fun i x => i == q && x.chains.contains c) ∧ s.keeps t [.rp, .coup, .seqs, .fedOut])))

/-- PORT_CTL: ENABLE and FORCE_MAINT stand while an epoch runs; LPBK acts only in MAINTENANCE on a port without a channel; ENABLE 0 brings
the port down with PHY_EN 0 and reason DISABLED (an absent port stays absent). PAIR_BYPASS stores its bits, and a present pair that enters
asserts its output; one that would leave stays while a port of it is not enabled. -/
def Obligations.PortControlAndPairBypass : Prop :=
  (∀ (src : BitVec 4) (p : Nat) (data : Word) (s : State), s.shaped = true → p < s.cfg.nPort → s.grants src true (0x180000 + 8 * p) = true →
    let old := (s.portAt p).ctl
    let lpbk := data.getLsbD 2 && decide (s.aon.power = .maintenance) && !s.carriesChannel p
    ∃ t, exec (.portCtlWrite src p data) s = .next t ∧
      (s.anyEpoch = true → field data 0 2 ≠ field old 0 2 →
        s.answered t rspDenied 0 ∧ t.win = { s.win with linkErr := s.win.linkErr ||| 1 } ∧ s.keeps t [.rp, .win]) ∧
      (s.anyEpoch = false ∨ field data 0 2 = field old 0 2 → s.answered t rspOk 0 ∧
        t.win = { s.win with linkErr := if data.getLsbD 2 && !lpbk then s.win.linkErr ||| 2 else s.win.linkErr } ∧
        (t.portAt p).ctl = (data &&& 3) ||| (if lpbk then 4 else 0) ∧ (t.portAt p).phyLpbk = lpbk ∧
        (data.getLsbD 0 = true → t.portAt p = { s.portAt p with ctl := (t.portAt p).ctl, phyLpbk := lpbk } ∧
          (∀ x, x ≠ p → t.portAt x = s.portAt x) ∧ s.keeps t [.rp, .win, .ports]) ∧
        (data.getLsbD 0 = false → (t.portAt p).phyEn = false ∧
          (s.strapValid p = true → (t.portAt p).state = .down ∧ (t.portAt p).reason = 0x0B) ∧
          (s.strapValid p = false → (t.portAt p).state = .absent) ∧ s.keeps t [.rp, .win, .ports, .gln, .aon]))) ∧
  (∀ (src : BitVec 4) (data : Word) (s : State), s.shaped = true → s.grants src true 0x180200 = true →
    ∃ t, exec (.pairBypassWrite src data) s = .next t ∧
      (s.anyEpoch = true → s.answered t rspDenied 0 ∧ t.win = { s.win with linkErr := s.win.linkErr ||| 1 } ∧ s.keeps t [.rp, .win]) ∧
      (s.anyEpoch = false → s.answered t rspOk 0 ∧ s.keeps t [.rp, .ports, .gln, .aon, .pairHeld] ∧
        ∀ i, i < s.cfg.nPair → t.pairHeld.getD i false = data.getLsbD i ∧
          (data.getLsbD i = true → s.pairHeld.getD i false = false → s.pairAbsent i = false → t.aon.bypass.getD i false = true) ∧
          (data.getLsbD i = s.pairHeld.getD i false ∨ (data.getLsbD i = false ∧ s.pairEnabled i = false) →
            t.aon.bypass.getD i false = s.aon.bypass.getD i false) ∧
          (data.getLsbD i = false → s.pairHeld.getD i false = true → s.pairAbsent i = false → s.pairEnabled i = true →
            t.aon.bypass.getD i true = false)))

/-- LEDGER_WORD stores a word of an entry that passes the checks of LEDGER_SET but IN_USE, unarms armed programs that name the entry when a
static field changes, and stores a checkpoint where it moves HEAD or CURSOR of a context entry in an epoch; a word that fails a check, or
changes a static field while an epoch runs, is DENIED. A word of another die's ledger is written there, and whether that die takes it is a
free value of the model (notes/assumptions/21). CIRC_WORD and ROUTE_WORD write the pending job only, their reserved bits as 0. -/
def Obligations.LedgerAndJobWordsAreChecked : Prop :=
  (∀ (src : BitVec 4) (k : Nat) (data : Word) (s : State), k < 4 → s.memWf = true → s.shaped = true → s.ledgerHere = true →
    s.grants src true (0x1A0008 + 8 * k) = true →
    let i := field s.win.ledgerSel 0 17
    let x := setEntryWord (s.entry i) k data.toNat
    let bad := s.ledgerCheck [(i, x)] ≠ 0 ∨ (s.anyEpoch = true ∧ x.statics ≠ (s.entry i).statics)
    ∃ t, exec (.ledgerWordWrite src k data) s = .next t ∧
      (bad → s.answered t rspDenied 0 ∧ t.win = { s.win with granErr := s.win.granErr ||| 1 } ∧ s.keeps t [.rp, .win]) ∧
      (¬bad → s.answered t rspOk 0 ∧ Mem.stored s.ledger t.ledger (32 * i + 8 * k) data ∧
        (s.movesSpan i x = false → t.ckpt = s.ckpt) ∧ (s.movesSpan i x = true → ∃ c ∈ t.ckpt, c.1 = i) ∧
        s.unarmed t (fun _ c => decide (x.statics ≠ (s.entry i).statics) && inRanges c.entries i) ∧
        s.keeps t [.rp, .ledger, .seqs, .ckpt])) ∧
  (∀ (src : BitVec 4) (k : Nat) (data : Word) (s : State), k < 4 → s.ledgerHere = false → s.grants src true (0x1A0008 + 8 * k) = true →
    ∃ t, exec (.ledgerWordWrite src k data) s = .next t ∧ t.free = s.free + 1 ∧
      t.fedOut = (field s.win.ledgerSel 32 3, FedMsg.write (0x1A0008 + 8 * k) (field s.win.ledgerSel 0 17) data) :: s.fedOut ∧
      ((s.answered t rspOk 0 ∧ t.win = s.win) ∨ (s.answered t rspDenied 0 ∧ t.win = { s.win with granErr := s.win.granErr ||| 1 })) ∧
      s.keeps t [.rp, .win, .fedOut, .free]) ∧
  (∀ (src : BitVec 4) (reg : CircReg) (data : Word) (s : State), s.shaped = true →
    (∀ w, reg = .circ w → w < 4) →
    let a := match reg with
      | .circ w => 0x190008 + 8 * w
      | .route => 0x190048
    let sel := match reg with
      | .circ _ => s.win.circSel
      | .route => s.win.routeSel
    let put (j : Job) : Job := match reg with
      | .circ w => { j with circuits := j.circuits.set (4 * field s.win.circSel 8 11 + w) (if w = 0 then data &&& 0x1FFFFFFFFFFFFFFF else data) }
      | .route =>
        let i := field s.win.routeSel 8 7
        { j with routes := j.routes.set i
                   (data &&& if i = 0 then 0x3FFFFFFFFFFFFF else if i < 3 then 0xFFFFFFFFFFFF else 0x3F3FFFFFFFFF) }
    let d := field sel 0 3
    s.grants src true a = true → ∃ t, exec (.circRouteWordWrite src reg data) s = .next t ∧
      (field sel 24 1 = 1 → s.answered t rspDenied 0 ∧ t.win = { s.win with collErr := s.win.collErr ||| 1 } ∧ s.keeps t [.rp, .win]) ∧
      (field sel 24 1 = 0 → s.anyEpoch = true → s.answered t rspDenied 0 ∧ s.keeps t [.rp]) ∧
      (field sel 24 1 = 0 → s.anyEpoch = false → d < s.cfg.nSeq → s.answered t rspOk 0 ∧
        t.domAt d = { s.domAt d with pendingJob := (s.domAt d).pendingJob.map put } ∧
        (∀ e, e ≠ d → t.domAt e = s.domAt e) ∧ s.keeps t [.rp, .coll]))

/-! ## Ronno requests (04 R112-R126; 05 R132-R137; 07 R187-R192, R213; 14 R336-R337; 15 R379; 16 R383-R388; 17 R425-R426) -/

/-- ECHO, STATUS, MBX_CONFIG, and an opcode that the table does not list. -/
def Obligations.SimpleRequestsComplete : Prop :=
  ∀ (m : Nat) (s : State),
    (s.serves m 0x01 = true → ∃ t, exec (.echo m) s = .next t ∧ s.completed t m 0 0 (s.argAt m 1) 0 0 ∧ s.onlyAnswered t m []) ∧
    (s.serves m 0x02 = true → ∃ t, exec (.status m) s = .next t ∧
      s.completed t m 0 0
        (word (s.kol.version.toNat + (match s.aon.power with | .running => 0 | .maintenance => 1 | _ => 2) * 2 ^ 32))
        0x0000000230040100 (word s.clk.rackTime) ∧ s.onlyAnswered t m []) ∧
    (s.serves m 0x03 = true →
      let k := field (s.argAt m 1) 0 4
      let n := field (s.argAt m 1) 16 6
      let b := s.mbxAt k
      let head := if k = m then b.reqHead + 1 else b.reqHead
      let rest := b.reqTail = head ∧ b.cplTail = b.cplHead ∧ b.reserved = 0
      ∃ t, exec (.mbxConfig m) s = .next t ∧
        (n = 0 ∨ 32 < n → s.completed t m 0x06 0 0 0 0 ∧ s.onlyAnswered t m []) ∧
        (1 ≤ n → n ≤ 32 → ¬rest → s.completed t m 0x04 0 0 0 0 ∧ s.onlyAnswered t m []) ∧
        (1 ≤ n → n ≤ 32 → rest → (t.mbxAt k).entries = n ∧ s.completed t m 0 0 0 0 0 ∧
          (∀ j, j ≠ m → j ≠ k → t.mbxAt j = s.mbxAt j) ∧ (k ≠ m → t.mbxAt k = { s.mbxAt k with entries := n }) ∧ s.keeps t [.mbx, .kol])) ∧
    (s.memWf = true → s.shaped = true → s.kolateFree = true → s.nextMbx = some m → s.aon.power ≠ .halted →
      opcodes.contains (s.reqAt m).opcode.toNat = false →
      ∃ t, exec (.badOpcode m) s = .next t ∧ s.completed t m 0x01 0 0 0 0 ∧ s.onlyAnswered t m [])

/-- EXPERT_UNLOCK adds a window to the unlocked ones, and discards every load session when it is the SEQUENCER's; EXPERT_LOCK removes it
and answers FINGERPRINT[0]. A capability without a window is BAD_ARG. -/
def Obligations.ExpertWindowsUnlockAndLock : Prop :=
  ∀ (m : Nat) (s : State),
    let id := field (s.argAt m 1) 0 16
    (s.serves m 0x08 = true → ∃ t, exec (.expertUnlock m) s = .next t ∧
      (id < 2 ∨ 11 < id → s.completed t m 0x02 0 0 0 0 ∧ s.onlyAnswered t m []) ∧
      (2 ≤ id → id ≤ 11 → s.completed t m 0 0 0 0 0 ∧ s.onlyAnswered t m [.win, .seqs] ∧ (∀ k, k ∈ t.win.unlocked ↔ k = id ∨ k ∈ s.win.unlocked) ∧
        t.win = { s.win with unlocked := t.win.unlocked } ∧ (id ≠ 2 → t.seqs = s.seqs) ∧
        (id = 2 → s.unlocked 2 = false → ∀ q ∈ t.seqs, q.session = none))) ∧
    (s.serves m 0x09 = true → ∃ t, exec (.expertLock m) s = .next t ∧
      (id < 2 ∨ 11 < id → s.completed t m 0x02 0 0 0 0 ∧ s.onlyAnswered t m []) ∧
      (2 ≤ id → id ≤ 11 → s.completed t m 0 0 (t.domAt 0).fingerprint 0 0 ∧ s.onlyAnswered t m [.win, .coll] ∧
        (∀ k, k ∈ t.win.unlocked ↔ k ≠ id ∧ k ∈ s.win.unlocked) ∧
        (id ≠ 10 → t.win = { s.win with unlocked := t.win.unlocked }) ∧ (s.unlocked id = false → t.coll = s.coll ∧ t.win = s.win)))

/-- PROG_BEGIN opens a session on a sequencer without one, PROG_CHUNK copies bytes of the data area into the load bank's segment, and
PROG_COMMIT closes the session with the verifier's verdict, which arms the load bank or empties it. -/
def Obligations.ProgramsAreLoadedAndVerified : Prop :=
  ∀ (m : Nat) (s : State),
    let q := field (s.argAt m 1) 0 3
    let mine := q < s.cfg.nSeq ∧ s.mayName m q = true ∧ s.unlocked 2 = false
    let x := s.seqAt q
    let bank := 1 - x.activeBank
    let others (t : State) : Prop := ∀ k, k ≠ q → t.seqAt k = s.seqAt k
    let refused (t : State) (code : Nat) : Prop := s.completed t m code 0 0 0 0 ∧ s.onlyAnswered t m []
    (s.serves m 0x10 = true → mine →
      let n := field (s.argAt m 2) 0 18
      ∃ t, exec (.progBegin m) s = .next t ∧
        (n % 4 ≠ 0 ∨ n = 0 ∨ s.cfg.segBytes < n → refused t 0x06) ∧
        (n % 4 = 0 → 4 ≤ n → n ≤ s.cfg.segBytes → x.session.isSome = true → refused t 0x04) ∧
        (n % 4 = 0 → 4 ≤ n → n ≤ s.cfg.segBytes → x.session = none → s.completed t m 0 0 0 0 0 ∧ s.onlyAnswered t m [.seqs] ∧ others t ∧
          t.seqAt q = { x with load := .loading, session := some ⟨n, []⟩, imgLen := x.imgLen.set bank 0 })) ∧
    (s.serves m 0x11 = true → mine →
      let off := field (s.argAt m 2) 0 18
      let src := field (s.argAt m 3) 0 12
      let n := field (s.argAt m 3) 16 13
      off % 4 = 0 → src % 8 = 0 → n % 4 = 0 → 4 ≤ n → n ≤ 4096 → ∃ t, exec (.progChunk m) s = .next t ∧
        (x.session = none → refused t 0x08) ∧
        (∀ y, x.session = some y → 0x1000 < src + n ∨ y.len < off + n → refused t 0x07) ∧
        (∀ y, x.session = some y → src + n ≤ 0x1000 → off + n ≤ y.len → s.completed t m 0 0 0 0 0 ∧ s.onlyAnswered t m [.seqs, .cmdMem] ∧ others t ∧
          let a := s.segAddr q bank + off
          t.cmdMem.readBytes a n = (s.mbxAt m).mem.readBytes (0x1000 + src) n ∧
          (∀ b, b < a ∨ a + n ≤ b → t.cmdMem.read b = s.cmdMem.read b) ∧
          t.seqAt q = { x with session := some { y with present := y.present.writeBytes off (List.replicate n 1) } })) ∧
    (s.serves m 0x12 = true → mine → ∃ t, exec (.progCommit m) s = .next t ∧
      (x.session = none → refused t 0x08) ∧
      (∀ y, x.session = some y →
        let got := (y.present.filter fun c => c.1 < y.len).length
        let ws := (s.partAt q).words
        let v := verify (s.env q ws ((s.domAt q).nextJob) 0) s.coll.logicalId.toNat (s.cmdMem.readBytes (s.segAddr q bank) y.len)
        (got < y.len → refused t 0x10) ∧
        (y.len ≤ got → ∀ f, v.reject = some f → s.completed t m 0x09 (f.code + f.idx % 65536 * 65536) 0 0 (word f.off) ∧
          s.onlyAnswered t m [.seqs] ∧ others t ∧ t.seqAt q = { x with session := none, load := .empty, imgLen := x.imgLen.set bank 0 }) ∧
        (y.len ≤ got → v.reject = none → s.completed t m 0 0 (word v.bundles) (word v.length) v.warn ∧
          s.onlyAnswered t m [.seqs] ∧ others t ∧
          t.seqAt q = { x with session := none, load := .armed, imgLen := x.imgLen.set bank y.len, armedAt := s.clk.rackTime })))

/-- EPOCH_RUN and RUN_PREFIX: with no armed or accepted program NOT_ARMED, with a start less than 16,000 cycles ahead LATE; otherwise each
named sequencer swaps in an armed bank and queues the release, and the request waits for it with both completion slots reserved (it holds its
mailbox only: the model's choice, notes/assumptions/13). A full run queue stalls the control core, which keeps the request; once a sequencer
has taken an entry the request goes on without a second check. -/
def Obligations.EpochRequestsQueueReleases : Prop :=
  let queued (s t : State) (r : Req) (stopAt : Option Nat) (snap : Nat) : Prop :=
    let mask := field (r.arg 1) 0 8
    let start := (r.arg 2).toNat
    let epoch : BitVec 8 := ((r.arg 1) >>> 8).setWidth 8
    (∀ q, t.seqAt q = if mask.testBit q then
        let x := if (s.seqAt q).load = .armed then (s.seqAt q).swapBanks else s.seqAt q
        { x with runq := x.runq ++ [.release start epoch stopAt snap r.mbox r.tag] }
      else s.seqAt q) ∧
    t.kol.held = none ∧ t.kol.waiting = s.kol.waiting ++ [r] ∧
    t.kol.epochs = s.kol.epochs ++ [⟨r.mbox, r.tag, start, epoch, false, false, (seqsOf mask).map fun q => ⟨q, false, false, 0, 0⟩⟩]
  (∀ (m : Nat) (s : State),
    let mask := field (s.argAt m 1) 0 8
    let start := (s.argAt m 2).toNat
    let named (q : Nat) : Prop := mask.testBit q = true
    let free := mask ≠ 0 ∧ mask < 2 ^ s.cfg.nSeq ∧ (s.issuer (s.reqAt m)).all (fun d => mask == 2 ^ d) = true ∧ s.unlocked 2 = false ∧
      s.aon.boundaryHalt = 0 ∧ start % s.cfg.nSlice = 0 ∧ s.clk.rackSynced = true ∧ ∀ q, named q → (s.seqAt q).busy = false
    let armed (q : Nat) : Prop := partPens (s.partAt q).words ≠ 0 ∧ (s.partAt q).live = true ∧
      ((s.seqAt q).load = .armed ∨ (s.seqAt q).imgLen.getD (s.seqAt q).activeBank 0 ≠ 0)
    let took (t : State) : Prop :=
      t.mbxAt m = { s.mbxAt m with reqHead := (s.mbxAt m).reqHead + 1, reserved := (s.mbxAt m).reserved + 1 } ∧
      (∀ k, k ≠ m → t.mbxAt k = s.mbxAt k) ∧ s.keeps t [.mbx, .kol, .seqs]
    let cases (t : State) (stopAt : Option Nat) (snap : Nat) : Prop :=
      ((∃ q, named q ∧ ¬armed q) → s.completed t m 0x0A 0 0 0 0 ∧ s.onlyAnswered t m []) ∧
      ((∀ q, named q → armed q) → start < s.clk.rackTime + 16000 → s.completed t m 0x0C 0 0 0 0 ∧ s.onlyAnswered t m []) ∧
      ((∀ q, named q → armed q) → s.clk.rackTime + 16000 ≤ start → (∀ q, named q → (s.seqAt q).runq.length < 8) →
        queued s t (s.reqAt m) stopAt snap ∧ took t) ∧
      ((∀ q, named q → armed q) → s.clk.rackTime + 16000 ≤ start → (∃ q, named q ∧ 8 ≤ (s.seqAt q).runq.length) →
        t.kol.stalled = true ∧ t.kol.stalls = s.kol.stalls + 1 ∧ t.kol.held = some (s.reqAt m) ∧ t.seqs = s.seqs ∧ took t)
    (s.serves m 0x13 = true → free → ∃ t, exec (.epochRun m) s = .next t ∧ cases t none 0) ∧
    (s.serves m 0x14 = true → free →
      let snap := field (s.argAt m 4) 0 12
      snap % 8 = 0 → snap + 256 * (seqsOf mask).length ≤ 0x1000 →
      ∃ t, exec (.runPrefix m) s = .next t ∧ cases t (some (field (s.argAt m 3) 0 32)) snap)) ∧
  (∀ (r : Req) (s : State), s.kol.held = some r → s.kol.works = true → s.kol.stalled = false → s.shaped = true →
    field (r.arg 1) 0 8 < 2 ^ s.cfg.nSeq → (∀ q, (field (r.arg 1) 0 8).testBit q = true → (s.seqAt q).runq.length < 8) →
    (r.opcode = 0x13 → ∃ t, exec (.epochRun r.mbox) s = .next t ∧ queued s t r none 0 ∧ s.keeps t [.kol, .seqs]) ∧
    (r.opcode = 0x14 → ∃ t, exec (.runPrefix r.mbox) s = .next t ∧
      queued s t r (some (field (r.arg 3) 0 32)) (field (r.arg 4) 0 12) ∧ s.keeps t [.kol, .seqs]))

/-- EPOCH_ABORT leaves a sequencer with neither a running nor a queued epoch unchanged, discards a queued release, whose part of its request
ends, and aborts a running epoch with the reason EPOCH_ABORT: nothing of it is in flight any more. A request of which no release is left
queued waits no longer. -/
def Obligations.EpochAbortStopsNamedEpochs : Prop :=
  ∀ (m : Nat) (s : State), s.serves m 0x15 = true →
    let mask := field (s.argAt m 1) 0 8
    let queued (q : Nat) : Bool := (s.seqAt q).runq.any RunEntry.isRelease
    mask < 2 ^ s.cfg.nSeq → (s.issuer (s.reqAt m)).all (fun d => mask == 2 ^ d || mask == 0) = true → s.unlocked 2 = false →
    ∃ t, exec (.epochAbort m) s = .next t ∧
      ((∀ q, mask.testBit q = true → (s.seqAt q).run = none ∧ queued q = false) → s.completed t m 0 0 0 0 0 ∧ s.onlyAnswered t m []) ∧
      (∀ q, mask.testBit q = true → (t.seqAt q).runq.any RunEntry.isRelease = false) ∧
      (∀ q start ep st sn mb tg, mask.testBit q = true →
        (s.seqAt q).runq.find? RunEntry.isRelease = some (.release start ep st sn mb tg) →
        ∀ e ∈ t.kol.epochs, e.mbox = mb → e.tag = tg → e.start = start → ∀ p ∈ e.parts, p.seq = q → p.done = true) ∧
      (∀ q start ep st sn w, mask = 2 ^ q → (s.seqAt q).runq = [.release start ep st sn w.mbox w.tag] →
        (∀ k, k ≠ q → (s.seqAt k).runq = []) → s.kol.waiting = [w] → t.kol.waiting = []) ∧
      (∀ q, mask.testBit q = true → (s.seqAt q).run.isSome = true → queued q = false → (s.domAt q).state.live = true →
        t.aborts q 0x21 ∧ (t.domAt q).abortTime = s.clk.rackTime) ∧
      (∀ q, mask.testBit q = false → t.seqAt q = s.seqAt q ∧ t.domAt q = s.domAt q) ∧
      s.keeps t ([.mbx, .kol] ++ abortFields)

/-- TABLE_LOAD copies 2560 bytes of the data area into a table index that is not in use; LEDGER_SET copies whole entries that pass the
checks of R336, and unarms armed programs that name an entry whose static fields change. Both write every die of the part. Fingerprints
follow; nothing else changes. That an index in use is answered before an unlocked window is the model's choice (notes/assumptions/109). -/
def Obligations.TablesAndLedgerAreWritten : Prop :=
  ∀ (m : Nat) (s : State),
    let off := field (s.argAt m 2) 0 12
    (s.serves m 0x18 = true →
      let i := field (s.argAt m 1) 0 5
      (s.issuer (s.reqAt m)).all (fun d => (partTables (s.partAt d).words).testBit i) = true →
      ∃ t, exec (.tableLoad m) s = .next t ∧
        (0x600 < off → s.completed t m 0x07 0 0 0 0 ∧ s.onlyAnswered t m []) ∧
        (off ≤ 0x600 → s.tableInUse i = true → s.completed t m 0x12 0 0 0 0 ∧ s.onlyAnswered t m []) ∧
        (off ≤ 0x600 → s.tableInUse i = false → s.unlocked 4 = true → s.completed t m 0x0E 0 0 0 0 ∧ s.onlyAnswered t m []) ∧
        (off ≤ 0x600 → s.tableInUse i = false → s.unlocked 4 = false → s.completed t m 0 0 0 0 0 ∧
          s.onlyAnswered t m [.tables, .coll, .fedOut] ∧ s.copiedOut t (.table i ((s.mbxAt m).mem.readBytes (0x1000 + off) 2560)) ∧
          t.tables.readBytes (2560 * i) 2560 = (s.mbxAt m).mem.readBytes (0x1000 + off) 2560 ∧
          (∀ b, b < 2560 * i ∨ 2560 * i + 2560 ≤ b → t.tables.read b = s.tables.read b) ∧
          ∀ d, t.domAt d = { s.domAt d with fingerprint := (t.domAt d).fingerprint })) ∧
    (s.serves m 0x19 = true →
      let first := field (s.argAt m 1) 0 17
      let n := field (s.argAt m 1) 32 8
      let ws := s.ledgerData m off first n
      1 ≤ n → n ≤ 128 → off + 32 * n ≤ 0x1000 → first + n ≤ 131072 →
      (s.issuer (s.reqAt m)).all (fun d => (List.range n).all fun k => inLedger (s.partAt d).words (first + k)) = true →
      ∃ t, exec (.ledgerSet m) s = .next t ∧
        (s.ledgerCheck ws ≠ 0 → s.completed t m (s.ledgerCheck ws) 0 0 0 0 ∧ s.onlyAnswered t m []) ∧
        (s.ledgerCheck ws = 0 → (ws.any fun x => s.entryInUse x.1) = true → s.completed t m 0x12 0 0 0 0 ∧ s.onlyAnswered t m []) ∧
        (s.ledgerCheck ws = 0 → (ws.any fun x => s.entryInUse x.1) = false → s.unlocked 11 = false →
          s.completed t m 0 0 0 0 0 ∧ s.onlyAnswered t m [.ledger, .seqs, .coll, .ckpt, .fedOut] ∧
          ((∀ x ∈ ws, s.movesSpan x.1 x.2 = false) → t.ckpt = s.ckpt) ∧ (s.boot.straps.fedDies = 0 → t.fedOut = s.fedOut) ∧
          (s.boot.straps.fedDies ≠ 0 → ∀ x ∈ ws, ∀ e, e ≤ s.boot.straps.fedDies.toNat → e ≠ s.boot.straps.dieId.toNat →
            (e, FedMsg.ledger x.1 (x.2.words.map (BitVec.ofNat 64))) ∈ t.fedOut) ∧
          t.ledger.readBytes (32 * first) (32 * n) = (s.mbxAt m).mem.readBytes (0x1000 + off) (32 * n) ∧
          (∀ b, b < 32 * first ∨ 32 * first + 32 * n ≤ b → t.ledger.read b = s.ledger.read b) ∧
          s.unarmed t (fun _ c => (s.staticChanges ws).any (inRanges c.entries)) ∧
          ∀ d, t.domAt d = { s.domAt d with fingerprint := (t.domAt d).fingerprint }))

/-- JOB_LOAD stages blocks of each part in order; a block out of order discards the staging. INSTALL checks the staged job: one that
passes becomes the pending job and unarms the domain's armed program, one that fails is answered with its code; both leave nothing staged.
-/
def Obligations.JobsAreStagedAndInstalled : Prop :=
  ∀ (m : Nat) (s : State), s.serves m 0x1A = true →
    let b := s.block (s.reqAt m)
    let off := field (s.argAt m 2) 0 12
    let len := field (s.argAt m 2) 16 13
    let d := b.dom
    let good := off + len ≤ 0x1000 ∧ 16 ≤ len ∧ (len - 16) % recordBytes b.part = 0 ∧ b.bad = false ∧ d < s.cfg.nSeq ∧
      (s.issuer (s.reqAt m)).all (fun e => e == d && b.part != 0) = true ∧ s.unlocked 10 = false ∧ (b.part = 0 → s.unlocked 9 = false)
    let others (t : State) : Prop := ∀ e, e ≠ d → t.domAt e = s.domAt e
    let staged (i : Instr) : Prop := ∃ t, exec i s = .next t ∧
      ((s.domAt d).outOfOrder b = true → s.completed t m 0x02 0 0 0 0 ∧ s.onlyAnswered t m [.coll] ∧ t.domAt d = (s.domAt d).discard ∧ others t) ∧
      ((s.domAt d).outOfOrder b = false → s.completed t m 0 0 0 0 0 ∧ s.onlyAnswered t m [.coll] ∧ t.domAt d = (s.domAt d).stage b ∧ others t)
    good →
      (b.part = 0 → b.install = false → b.last = false → staged (.jobLoadWiring m)) ∧
      (b.part = 1 → b.install = false → staged (.jobLoadRoutes m)) ∧
      (b.part = 2 → b.install = false → staged (.jobLoadCircuits m)) ∧
      (b.part = 3 → b.install = false → staged (.jobLoadSeeds m)) ∧
      (1 ≤ b.part → b.part ≤ 3 → b.install = true → b.last = true → (s.domAt d).outOfOrder b = false →
        let c := (s.domAt d).stage b
        let whole := c.routes.last = true ∧ c.circuits.last = true
        let j := c.staged
        ∃ t, exec (.jobInstall m) s = .next t ∧
          (∀ e, e ≠ d → t.domAt e = { s.domAt e with fingerprint := (t.domAt e).fingerprint }) ∧
          (¬whole → s.completed t m 0x02 0 0 0 0 ∧ s.onlyAnswered t m [.coll] ∧ t.domAt d = c.discard) ∧
          (whole → (s.jobCheck d j).1 ≠ 0 → s.completed t m (s.jobCheck d j).1 (s.jobCheck d j).2 0 0 0 ∧ s.onlyAnswered t m [.coll] ∧
            t.domAt d = c.discard) ∧
          (whole → (s.jobCheck d j).1 = 0 → s.completed t m 0 0 0 0 0 ∧ s.onlyAnswered t m [.coll, .seqs, .ledger, .ckpt] ∧
            t.domAt d = { c.discard with pendingJob := some j, fingerprint := (t.domAt d).fingerprint } ∧
            (t.seqAt d).load ≠ .armed ∧
            ∀ e, (∀ w ∈ j.seeds, field w 0 17 ≠ e) → e < 131072 → t.entry e = s.entry e))

/-- PART_SET on an idle sequencer records the domain and is adopted at once: its mailboxes take the domain's number, and without anything
leaving the request completes; on a running one the record waits as an ADOPT entry, and the domain acts under the record before; a full run
queue stalls the control core. PART_SET with ACTIVE 0 deletes it. PARTITION_ADOPT adopts the waiting record; PARTITION_CLEAN_DONE makes it
the one that the domain acts under, zeroes what left and completes the request. -/
def Obligations.PartitionsAreRecordedAdoptedAndCleaned : Prop :=
  (∀ (m : Nat) (s : State), s.serves m 0x20 = true →
    let d := field (s.argAt m 1) 0 3
    let scrub := (s.argAt m 1).getLsbD 9
    let off := field (s.argAt m 2) 0 12
    let ws := (List.range 16).map fun i => (s.mbxAt m).mem.read64 (0x1000 + off + 8 * i)
    let old := if (s.partAt d).live then (s.partAt d).words else List.replicate 16 0
    let records (t : State) (live : Bool) (new : List Word) : Prop :=
      ((s.seqAt d).run = none ∨ (s.seqAt d).runq.length < 8 →
        (t.partAt d).live = live ∧ (t.partAt d).words = new ∧ (∀ e, e ≠ d → t.partAt e = s.partAt e) ∧ t.kol.held = none) ∧
      ((s.seqAt d).run = none → (t.partAt d).pending = false ∧ (t.partAt d).liveNow = live ∧ (t.partAt d).wordsNow = new ∧
        ((Removal.any ⟨old, new⟩) = true → ∃ c, t.kol.cleaning = some c ∧ c.dom = d ∧ c.adopted = true ∧ c.req = s.reqAt m) ∧
        ((Removal.any ⟨old, new⟩) = false → t.kol.cleaning = none ∧ (t.mbxAt m).cplTail = (s.mbxAt m).cplTail + 1) ∧
        ∀ k, k < 16 → (partMbxs new).testBit k = true → (t.mbxAt k).owner = BitVec.ofNat 4 d) ∧
      ((s.seqAt d).run.isSome = true → (s.seqAt d).runq.length < 8 → (t.partAt d).pending = true ∧
        (t.partAt d).liveNow = (s.partAt d).liveNow ∧ (t.partAt d).wordsNow = (s.partAt d).wordsNow ∧
        t.seqAt d = { s.seqAt d with runq := (s.seqAt d).runq ++ [.adopt] } ∧
        ∃ c, t.kol.cleaning = some c ∧ c.dom = d ∧ c.adopted = false ∧ c.req = s.reqAt m) ∧
      ((s.seqAt d).run.isSome = true → 8 ≤ (s.seqAt d).runq.length →
        t.kol.stalled = true ∧ t.kol.held = some (s.reqAt m) ∧ s.keeps t [.mbx, .kol])
    d < s.cfg.nSeq → (scrub = true → s.anyEpoch = false) →
      ((s.argAt m 1).getLsbD 8 = true → off % 8 = 0 → off ≤ 0xF80 → recBadArg ws = false → s.recBadRange d ws = false →
        ((s.seqAt d).run.isSome = true → (s.partAt d).words.drop 8 = ws.drop 8) →
        ∃ t, exec (.partSetActive m) s = .next t ∧ records t true ws) ∧
      ((s.argAt m 1).getLsbD 8 = false → (s.partAt d).live = false →
        ∃ t, exec (.partSetDelete m) s = .next t ∧ s.completed t m 0 0 0 0 0 ∧ s.onlyAnswered t m []) ∧
      ((s.argAt m 1).getLsbD 8 = false → (s.partAt d).live = true → ((s.seqAt d).run.isSome = true → partKeyGen (s.partAt d).words = 0) →
        ∃ t, exec (.partSetDelete m) s = .next t ∧ records t false (List.replicate 16 0))) ∧
  (∀ (q : Nat) (c : Cleaning) (s : State), s.kol.cleaning = some c → c.dom = q → c.adopted = false →
    ∃ t, exec (.partitionAdopt q) s = .next t ∧ (t.partAt q).pending = false ∧ .adopt ∉ (t.seqAt q).runq ∧ t.kol.stalled = false ∧
      ∀ e, t.kol.cleaning = some e → e.adopted = true) ∧
  (∀ (c : Cleaning) (s : State), s.kol.cleaning = some c → c.adopted = true → s.shaped = true →
    (c.awaitEpoch = true → (s.seqAt c.dom).run = none) →
    let r : Removal := ⟨c.oldWords, (s.partAt c.dom).words⟩
    ∃ t, exec .partitionCleanDone s = .next t ∧ t.kol.cleaning = none ∧
      t.partAt c.dom = { s.partAt c.dom with liveNow := (s.partAt c.dom).live, wordsNow := (s.partAt c.dom).words } ∧
      (∀ e, e ≠ c.dom → t.partAt e = s.partAt e) ∧
      (∀ i ∈ r.tables, ∀ b, 2560 * i ≤ b → b < 2560 * i + 2560 → t.tables.read b = 0) ∧
      (∀ g ∈ r.ledger, ∀ b, 32 * g.1 ≤ b → b < 32 * g.2 → t.ledger.read b = 0) ∧
      (∀ k ∈ r.mbxs, k < 16 → k ≠ c.req.mbox → (t.mbxAt k).owner = 0xF ∧ (t.mbxAt k).mem = []) ∧
      (c.scrubSp = false → t.sp = s.sp) ∧
      (c.scrubSp = true → ∀ g ∈ r.bytes, ∀ b, g.1 ≤ b → b < g.2 → t.sp.read b = 0))

/-- PORT_BYPASS asserts a pair's output with both ports in BYPASS, or releases it and lets both ports train, which holds the request.
MAINT_ENTER and MAINT_LEAVE move between RUNNING and MAINTENANCE; leaving discards breaks that have not fired. None acts while an epoch
runs. -/
def Obligations.BypassAndMaintenanceRequests : Prop :=
  ∀ (m : Nat) (s : State),
    let busy (t : State) : Prop := s.completed t m 0x05 0 0 0 0 ∧ s.onlyAnswered t m []
    let i := field (s.argAt m 1) 0 3
    let a := (s.cfg.pairPorts i).1
    let b := (s.cfg.pairPorts i).2
    (s.serves m 0x21 = true → i < s.cfg.nPair → s.pairAbsent i = false →
      ((s.argAt m 1).getLsbD 8 = true → ∃ t, exec (.portBypassEnter m) s = .next t ∧ (s.anyEpoch = true → busy t) ∧
        (s.anyEpoch = false → s.unlocked 9 = false → s.completed t m 0 0 (t.portStatus0 a) (t.portStatus0 b) 0 ∧
          s.onlyAnswered t m [.ports, .gln, .aon, .pairHeld] ∧ t.aon = { s.aon with bypass := s.aon.bypass.set i true } ∧
          t.pairHeld = s.pairHeld.set i true ∧ (t.portAt a).state = .bypass ∧ (t.portAt a).phyEn = false ∧
          (t.portAt b).state = .bypass ∧ (t.portAt b).phyEn = false ∧ ∀ p, p ≠ a → p ≠ b → t.portAt p = s.portAt p)) ∧
      ((s.argAt m 1).getLsbD 8 = false → ∃ t, exec (.portBypassRelease m) s = .next t ∧ (s.anyEpoch = true → busy t) ∧
        (s.anyEpoch = false → s.unlocked 9 = false → t.pairHeld = s.pairHeld.set i false ∧
          (s.aon.bypass.getD i true = true → s.pairEnabled i = true → t.aon = { s.aon with bypass := s.aon.bypass.set i false } ∧
            (t.portAt a).state = .training ∧ (t.portAt b).state = .training ∧ t.kol.held = some (s.reqAt m) ∧
            s.keeps t [.mbx, .kol, .ports, .gln, .aon, .pairHeld]) ∧
          (s.aon.bypass.getD i true = false → s.pairTraining i = false →
            s.completed t m 0 0 (s.portStatus0 a) (s.portStatus0 b) 0 ∧ s.onlyAnswered t m [.pairHeld])))) ∧
    (s.serves m 0x22 = true → ∃ t, exec (.maintEnter m) s = .next t ∧ (s.anyEpoch = true → busy t) ∧
      (s.anyEpoch = false → s.aon.power ≠ .running → s.completed t m 0x0D 0 0 0 0 ∧ s.onlyAnswered t m []) ∧
      (s.anyEpoch = false → s.aon.power = .running → s.completed t m 0 0 0 0 0 ∧ t.aon = { s.aon with power := .maintenance } ∧
        t.coll = { s.coll with tx := t.coll.tx } ∧ s.onlyAnswered t m [.aon, .coll, .ports, .gln, .free])) ∧
    (s.serves m 0x23 = true → ∃ t, exec (.maintLeave m) s = .next t ∧ (s.anyEpoch = true → busy t) ∧
      (s.anyEpoch = false → s.aon.power ≠ .maintenance ∨ s.boot.debugOpened = true ∨ s.aon.debug ≠ .closed →
        s.completed t m 0x0D 0 0 0 0 ∧ s.onlyAnswered t m []) ∧
      (s.anyEpoch = false → s.aon.power = .maintenance → s.boot.debugOpened = false → s.aon.debug = .closed →
        s.completed t m 0 0 0 0 0 ∧ t.aon = { s.aon with power := .running } ∧ (∀ q, t.seqAt q = { s.seqAt q with brk := none }) ∧
        (∀ p ∈ t.ports, p.phyLpbk = false) ∧ s.onlyAnswered t m [.aon, .seqs, .coll, .ports, .gln, .free]))

/-- BREAK_SET keeps a count break or a tag break for the sequencer's next release, or clears it; outside MAINTENANCE it is WRONG_STATE. -/
def Obligations.BreaksArePlacedInMaintenance : Prop :=
  ∀ (m : Nat) (s : State), s.serves m 0x24 = true →
    let q := field (s.argAt m 1) 0 3
    let kind := field (s.argAt m 1) 8 2
    let v := field (s.argAt m 2) 0 24
    let snap := field (s.argAt m 3) 0 12
    let row := if kind = 1 then Instr.breakCount m else if kind = 2 then Instr.breakTag m else Instr.breakClear m
    ∃ t, exec row s = .next t ∧
      (s.aon.power ≠ .maintenance → s.completed t m 0x0D 0 0 0 0 ∧ s.onlyAnswered t m []) ∧
      (s.aon.power = .maintenance → kind = 3 ∨ (kind = 2 ∧ 128 ≤ v) → s.completed t m 0x02 0 0 0 0 ∧ s.onlyAnswered t m []) ∧
      (s.aon.power = .maintenance → kind ≠ 3 → (kind = 2 → v < 128) → q < s.cfg.nSeq → s.mayName m q = true → s.unlocked 2 = false →
        (kind ≠ 0 → snap % 8 ≠ 0 ∨ 0xF00 < snap → s.completed t m 0x07 0 0 0 0 ∧ s.onlyAnswered t m []) ∧
        (kind = 0 ∨ (snap % 8 = 0 ∧ snap ≤ 0xF00) → s.completed t m 0 0 0 0 0 ∧ s.onlyAnswered t m [.seqs] ∧
          t.seqAt q = { s.seqAt q with brk := if kind = 0 then none else some ⟨kind == 2, v, snap⟩ } ∧ ∀ k, k ≠ q → t.seqAt k = s.seqAt k))

/-- FENCE_CORE: FENCE puts a spare in the serving core's place and fences it, SHADOW lets a spare shadow a position, SHADOW_END frees it,
and RESTORE gives the position its own core back and frees the spare. RES1 is the position's POS_MAP word. A request that fails a check of
R426 is BAD_ARG with its DETAIL and changes nothing. The core's work takes 384 cycles, after which the position changes. A request for another
die's position is completed too; what that die answers is a free value of the model (notes/assumptions/21). -/
def Obligations.CoresAreFencedShadowedAndRestored : Prop :=
  ∀ (m : Nat) (s : State), s.serves m 0x25 = true →
    let pos := field (s.argAt m 1) 0 11
    let action := field (s.argAt m 1) 16 2
    let spare := field (s.argAt m 1) 24 4
    let g := pos % s.cfg.nActive
    let here := pos / s.cfg.nActive = s.boot.straps.dieId.toNat
    let bad := s.fenceBad pos action spare
    let row := if action = 0 then Instr.fenceCoreFence m else if action = 1 then .fenceCoreShadow m
      else if action = 2 then .fenceCoreShadowEnd m else .fenceCoreRestore m
    ∃ t, exec row s = .next t ∧
      (here ∨ s.boot.straps.fedDies.toNat < pos / s.cfg.nActive → bad ≠ 0 → s.completed t m 0x02 bad 0 0 0 ∧ s.onlyAnswered t m []) ∧
      (here → bad = 0 → s.unlocked 3 = true → s.completed t m 0x0E 0 0 0 0 ∧ s.onlyAnswered t m []) ∧
      (here → bad = 0 → s.unlocked 3 = false → s.posBusy pos = true → s.completed t m 0x05 0 0 0 0 ∧ s.onlyAnswered t m []) ∧
      (here → bad = 0 → s.unlocked 3 = false → s.posBusy pos = false →
        let u := (s.take (s.reqAt m)).pass 384
        let old := u.cores.serve.getD g g
        let set (l : List PhysCore) (k : Nat) (st : CoreState) : Prop := ∀ c, l[k]? = some c → c.state = st
        u.keeps t [.mbx, .kol, .gln, .cores] ∧
        (s.quiet = true → s.completed t m 0 0 (t.cores.posMap g) 0 0 ∧ s.onlyAnswered t m [.clk, .rp, .gln, .cores]) ∧
        (∀ x, x ≠ g → t.cores.serve[x]? = u.cores.serve[x]? ∧ t.cores.shadow[x]? = u.cores.shadow[x]?) ∧
        (action = 0 → ∀ k, u.cores.chosen s.cfg.nActive g 0 spare = some k → g < u.cores.serve.length → g < u.cores.shadow.length →
          t.cores.serve.getD g g = k ∧ set t.cores.phys k .serving ∧
          (old ≠ k → set t.cores.phys old .fenced) ∧ t.cores.shadow.getD g none = (if u.cores.shadow.getD g none = some k then none
            else u.cores.shadow.getD g none) ∧ ∀ b, 65536 * g ≤ b → b < 65536 * g + 65536 → t.cores.sheaves.read b = 0) ∧
        (action = 1 → ∀ k, u.cores.chosen s.cfg.nActive g 1 spare = some k → u.cores.shadow[g]? = some none →
          t.cores.shadow.getD g none = some k ∧
          set t.cores.phys k .shadowing ∧ t.cores.serve = u.cores.serve ∧ t.cores.sheaves = u.cores.sheaves) ∧
        (action = 2 → g < u.cores.shadow.length →
          t.cores.shadow.getD g none = none ∧ t.cores.serve = u.cores.serve ∧ t.cores.sheaves = u.cores.sheaves ∧
          ∀ k, u.cores.shadow.getD g none = some k → k ≠ old → set t.cores.phys k (if s.cfg.nActive ≤ k then .free else .fenced)) ∧
        (action = 3 → g < u.cores.serve.length → t.cores.serve.getD g g = g ∧ set t.cores.phys g .serving ∧
          (old ≠ g → set t.cores.phys old .free) ∧
          ∀ b, 65536 * g ≤ b → b < 65536 * g + 65536 → t.cores.sheaves.read b = 0)) ∧
      (¬here → pos / s.cfg.nActive ≤ s.boot.straps.fedDies.toNat → s.quiet = true →
        t.kol.held = none ∧ (t.mbxAt m).cplTail = (s.mbxAt m).cplTail + 1 ∧ t.free = s.free + 1 ∧ t.cores = s.cores ∧
        s.keeps t [.mbx, .kol, .clk, .rp, .gln, .free, .fedOut])

/-! ## The control core and halts (04 R128; 17 R431-R434) -/

/-- A window overflow spills the window that the call needs, an underflow refills it; each completes with the handler's return from W7 (the
handler is part of the one event, notes/assumptions/34), and nothing but the control core changes. The trap's cause is a free value of the
model. With 32 windows spilled the overflow halts the firmware with SPILL_EXHAUSTED, and a trap while W7 is current with DOUBLE_FAULT. -/
def Obligations.WindowTrapsSpillAndRefill : Prop :=
  ∀ s : State, s.kol.executes = true →
    (s.kol.inTrap = false → s.kol.spill.length < 32 →
      let n := (s.kol.cwp + 1) % 7
      ∃ t, exec .windowOverflowTrap s = .next t ∧ s.keeps t [.kol, .free] ∧
        t.kol = { s.kol with spill := s.kol.spill ++ [s.kol.windows.getD n []], cwp := n, live := 7, trapCause := t.kol.trapCause }) ∧
    (∀ l w, s.kol.inTrap = false → s.kol.spill = l ++ [w] →
      let n := (s.kol.cwp + 6) % 7
      ∃ t, exec .windowUnderflowTrap s = .next t ∧ s.keeps t [.kol, .free] ∧
        t.kol = { s.kol with spill := l, windows := s.kol.windows.set n w, cwp := n, live := 1, trapCause := t.kol.trapCause }) ∧
    (s.kol.inTrap = false → 32 ≤ s.kol.spill.length → ∃ t, exec .windowOverflowTrap s = .next t ∧ t.kol.fwHalted = true ∧ t.kol.inTrap = true ∧
      t.kol.fatalRec.w0 = word (0xFFFF + 0x8F * 2 ^ 16 + 2 * 2 ^ 32)) ∧
    (s.kol.inTrap = true → (∃ t, exec .windowOverflowTrap s = .next t ∧ t.kol.fwHalted = true ∧
        t.kol.fatalRec.w0 = word (0xFFFF + 0x8F * 2 ^ 16 + 1 * 2 ^ 32)) ∧
      ∃ t, exec .windowUnderflowTrap s = .next t ∧ t.kol.fwHalted = true ∧ t.kol.fatalRec.w0 = word (0xFFFF + 0x8F * 2 ^ 16 + 1 * 2 ^ 32))

/-- FIRMWARE_HALT records reason, RACK_TIME and two free words (notes/assumptions/10) in FW_FATAL_REC and sets FW_HALTED. In start-up it
ends in FAILED with FW_FATAL; later the block halts with the fatal alarm FW_FATAL when no epoch is left, and the halt is pending
otherwise. The watchdog is the same halt with the reason watchdog, 2,000,000 CK_V cycles after the last service; in a stall it does nothing
(R129). A window trap halts nothing where there is room: WINDOW_OVERFLOW_TRAP completes with one window more in the spill area, and
WINDOW_UNDERFLOW_TRAP with one less, whatever the block does. -/
def Obligations.FirmwareHaltsAreRecorded : Prop :=
  let halts (s t : State) (reason : Nat) : Prop :=
    t.kol.fwHalted = true ∧ t.kol.held = none ∧ t.kol.waiting = [] ∧ t.kol.cleaning = none ∧
      t.kol.fatalRec.w0 = word (0xFFFF + 0x8F * 2 ^ 16 + reason * 2 ^ 32) ∧
      t.kol.fatalRec.w2 = word t.clk.rackTime ∧ t.kol.fatalRec.w1 = t.kol.fwPc ∧ t.kol.fatalRec.w3 = t.kol.trapCause ∧
      (s.aon.power = .starting → t.aon.power = .failed ∧ t.boot.phase = 0xFF ∧ t.boot.reason = 0x07 ∧ t.dark) ∧
      (s.aon.power.serves = true → s.epochLeft = false → t.aon.power = .halted ∧ t.aon.fatal = s.aon.fatal ||| 0x40 ∧
        t.aon.alarmPulled = true ∧ t.aon.boundaryHalt = 0) ∧
      (s.aon.power.serves = true → s.epochLeft = true → t.aon = { s.aon with boundaryHalt := s.aon.boundaryHalt ||| 0x40 }) ∧
      (s.aon.power.serves = true → ∀ q ∈ t.seqs, q.runq = []) ∧
      s.keeps t [.kol, .mbx, .free, .aon, .gln, .seqs, .boot, .ports]
  (∀ (reason : FwHalt) (s : State), s.coreRuns = true → ∃ t, exec (.firmwareHalt reason) s = .next t ∧ halts s t (fwHaltCode reason)) ∧
  (∀ s : State, s.kol.executes = true → let u := s.untilLocal (s.kol.wdogSince + 2000000)
    ∃ t, exec .watchdog s = .next t ∧ (u.kol.executes = true → halts u t 5) ∧
      (s.quiet = true → s.clk.dividers = true → t.kol.fwHalted = true ∧ s.kol.wdogSince + 2000000 ≤ t.clk.localTime)) ∧
  (∀ s : State, s.kol.stalled = true → exec .watchdog s = .next s) ∧
  (∀ s : State, s.kol.executes = true → s.kol.inTrap = false →
    (s.kol.spill.length < 32 → ∃ t, exec .windowOverflowTrap s = .next t ∧ t.kol.spill.length = s.kol.spill.length + 1 ∧
      t.kol.fwHalted = false ∧ t.kol.cwp = (s.kol.cwp + 1) % 7 ∧ s.keeps t [.kol, .free]) ∧
    (s.kol.spill ≠ [] → ∃ t, exec .windowUnderflowTrap s = .next t ∧ t.kol.spill.length + 1 = s.kol.spill.length ∧
      t.kol.fwHalted = false ∧ t.kol.cwp = (s.kol.cwp + 6) % 7 ∧ s.keeps t [.kol, .free]))

/-- EPOCH_BOUNDARY_HALT waits while an epoch is left; then the block is HALTED with no release queued. FW_FATAL latches at the boundary.
-/
def Obligations.BoundaryHaltWaitsForEpochs : Prop :=
  ∀ s : State, s.aon.power.serves = true → s.aon.boundaryHalt ≠ 0 → ∃ t, exec .epochBoundaryHalt s = .next t ∧
    (s.epochLeft = true → t = s) ∧
    (s.epochLeft = false → t.aon.power = .halted ∧ t.aon.boundaryHalt = 0 ∧ (∀ q ∈ t.seqs, q.runq = []) ∧
      (s.aon.boundaryHalt.getLsbD 6 = true → t.aon.fatal = s.aon.fatal ||| 0x40 ∧ t.aon.alarmPulled = true) ∧
      (s.aon.boundaryHalt.getLsbD 6 = false → t.aon = { s.aon with power := .halted, boundaryHalt := 0 }) ∧
      s.keeps t [.aon, .gln, .seqs, .kol, .mbx])

/-! ## Sequencing (04 R116; 06 R176-R183; 07 R191-R213; 16 R387, R404) -/

/-- EPOCH_RELEASE at its start time: the pending job becomes active, the domain's epoch runs under the record that its sequencer has adopted, and
its sequencer starts with flags, tallies, predicates, table slots and halt record cleared and nothing released; the sheaves of its pens are
zero. The request that waited for it is answered, and the stall of the control core ends. -/
def Obligations.EpochReleaseStartsAnEpoch : Prop :=
  ∀ (q start : Nat) (epoch : BitVec 8) (stopAt : Option Nat) (snap mbox : Nat) (tag : BitVec 16) (s : State), s.shaped = true →
    q < s.cfg.nSeq → (s.seqAt q).runq.find? RunEntry.isRelease = some (.release start epoch stopAt snap mbox tag) →
    (s.seqAt q).run = none → s.aon.power.serves = true → s.aon.boundaryHalt = 0 → (s.domAt q).state = .idle →
    let u := s.until start
    ∃ t, exec (.epochRelease q) s = .next t ∧
      let x := t.seqAt q
      let c := t.domAt q
      x.flags = 0 ∧ x.tallies = List.replicate 32 0 ∧ x.preds = 0 ∧ x.slots = [none, none, none, none] ∧ x.halt = W4.zero ∧
        x.brk = none ∧ x.epochNo = epoch ∧ x.runq.any RunEntry.isRelease = false ∧ x.activeBank = (u.seqAt q).activeBank ∧
        (∃ r, x.run = some r ∧ r.start = start ∧ r.epoch = epoch ∧ r.nextIdx = 0 ∧ r.released = 0 ∧ r.completed = 0 ∧ r.flight = [] ∧
          r.words = u.wordsOf q) ∧
        c.state = .running ∧ c.epoch = epoch ∧ c.activeJob = (u.domAt q).nextJob ∧ c.pendingJob = none ∧ c.status = W4.zero ∧ c.reason = 0 ∧
        (∀ k, k ≠ q → t.seqAt k = u.seqAt k) ∧ t.kol.stalled = false ∧
        (∀ w, (u.kol.waiting.find? fun r => r.mbox == mbox && r.tag == tag) = some w → t.kol.waiting = u.kol.waiting.erase w) ∧
        (s.quiet = true → s.clk.dividers = true → t.clk.rackTime = max s.clk.rackTime start) ∧
        (let lo := 65536 * (partFirstPen (u.wordsOf q) % max u.cfg.nPen 1 * 16)
         ∀ b, lo ≤ b → b < lo + 65536 * 16 * partPens (u.wordsOf q) → t.cores.sheaves.read b = 0) ∧
        u.keeps t [.gln, .seqs, .kol, .mbx, .coll, .ledger, .cores]

/-- COMPUTE, SYNC, SWAP and END: the next command of its kind is released in its cycle of the cycle model once its waits hold: it is
counted and in flight until its modelled completion. A COMPUTE whose predicate turns it off does nothing; one that runs stores nothing at its
release: each line that its cores write waits for the cycle in which SP_WR accepts it, and no other store is added. A SWAP exchanges the
banks and leaves the table slots until it completes; without a bank armed before it, it halts with SWAP_UNARMED. A ledger-tally wait that
does not hold in its window's last cycle halts with SCHEDULE_SLIP (the flag wait of the same command is not examined again: the model's
choice, notes/assumptions/108). A command whose epoch has ended by its cycle is not released. -/
def Obligations.CommandsAreReleasedInOrder : Prop :=
  ∀ (q : Nat) (inp : ComputeIn) (r : Run) (c : Cmd) (rest : List Cmd) (tm : Timing) (ct : CmdTime) (s : State), s.memWf = true → s.shaped = true →
    s.nextCmd q = some (r, c, rest) →
    let e := s.runEnv q r
    timeCmd e r.timing c rest s.coll.logicalId.toNat = some (tm, ct) → mayRelease r c ct.rel = true →
    s.landedBefore r e (c :: rest) ct.rel = true →
    let time := r.start + ct.rel
    let u := s.until time
    let row : Instr := if c.hdr.kind = 0 then .compute q inp else if c.hdr.kind = 1 then .sync q else if c.hdr.kind = 2 then .swap q else .endEpoch q
    ((u.seqAt q).run = none ∨ (u.domAt q).state ≠ .running → exec row s = .next u) ∧
    (∀ now, (u.seqAt q).run = some now → (u.domAt q).state = .running →
      let holds := u.ledgerHolds now c (time - 1) = true
      let off := c.hdr.pen = true ∧ (u.seqAt q).preds.getLsbD c.hdr.psel ≠ c.hdr.psense
      let runs (i : Instr) (k : Nat) (fields : List Field) (more : State → Prop) : Prop := c.hdr.kind = k → ∃ t, exec i s = .next t ∧
        (¬holds → t.aborts q 1 ∧ u.keeps t abortFields) ∧
        (holds → (k = 2 → u.armedBefore q time = true) →
          (t.seqAt q).lastReleased = BitVec.ofNat 16 c.idx ∧ (∀ j, j ≠ q → t.seqAt j = u.seqAt j) ∧
          (∃ r', (t.seqAt q).run = some r' ∧ r'.start = now.start ∧ r'.released = now.released + 1 ∧ r'.completed = now.completed ∧
            r'.ended = (k == 3) ∧ r'.nextIdx = (if k = 2 then 0 else c.idx + 1) ∧
            ∃ f, r'.flight = now.flight ++ [f] ∧ f.idx = c.idx ∧ f.release = ct.rel ∧ f.done = ct.done ∧ f.kind = k ∧ f.sig = c.signal ∧
              (f.skipped = true ↔ off)) ∧
          (t.seqAt q).slots = (if k = 2 then (u.seqAt q).slots else tm.slots.map fun y => y.map (·.1)) ∧ u.keeps t fields ∧ more t)
      let u1 : State := { u with sp := u.sp.overlay inp.given }
      let cos := u1.coreOuts e c
      runs (.compute q inp) 0 [.seqs, .coll, .sp, .cores, .coup, .agenda, .free]
        (fun t => t.sp = u1.sp ∧ (off → t.cores = u.cores ∧ t.coup = u.coup ∧ t.agenda = u.agenda) ∧
          (∀ x ∈ t.agenda, x ∈ u.agenda ∨ (x.seq = q ∧ ∀ pos line cells arr, x.act = .store pos line cells arr → arr = false ∧
            ∃ co ∈ cos, ∃ y ∈ ct.cores, y.x.rank = co.1.rank ∧ pos = y.x.idx ∧ (x.cycle - r.start, line, cells) ∈ coreStores e c y co.1 co.2)) ∧
          (¬off → c.zeroLen = false → ∀ co ∈ cos, ∀ y, (ct.cores.find? fun y => y.x.rank == co.1.rank) = some y →
            ∀ g line cells, (g, line, cells) ∈ coreStores e c y co.1 co.2 → inWindow e.part line = true →
              ⟨r.start + g, q, .store y.x.idx line cells false⟩ ∈ t.agenda)) ∧
      runs (.sync q) 1 [.seqs, .coll] (fun _ => True) ∧
      runs (.endEpoch q) 3 [.seqs, .coll] (fun _ => True) ∧
      runs (.swap q) 2 [.seqs, .coll] (fun t => (t.seqAt q).flags = 0 ∧ (t.seqAt q).tallies = List.replicate 32 0 ∧ (t.seqAt q).preds = 0 ∧
        (u.slave = false → (t.seqAt q).activeBank = 1 - (u.seqAt q).activeBank ∧ (t.seqAt q).load = .empty)) ∧
      (c.hdr.kind = 2 → holds → u.armedBefore q time = false → ∃ t, exec (.swap q) s = .next t ∧ t.aborts q 5 ∧ u.keeps t abortFields) ∧
      (c.ledgerWaits ≠ [] → c.hdr.kind ≠ 2 → ∃ t, exec (.tallyWaitWindowEnd q) s = .next t ∧
        (holds → ∃ r', (t.seqAt q).run = some r' ∧ r'.released = now.released + 1 ∧ r'.nextIdx = c.idx + 1) ∧
        (¬holds → t.aborts q 1 ∧ u.keeps t abortFields)))

/-- COMMAND_COMPLETION: in its modelled cycle the command leaves the list of those in flight, its lines leave the silos, and its signal,
predicate and status record take effect; an append moves CURSOR and TALLY of its entry, and a SWAP empties the table slots. One whose epoch
has ended by then does nothing. A completed END ends the epoch's running. -/
def Obligations.CompletionsTakeEffectInTheirCycle : Prop :=
  ∀ (q : Nat) (r : Run) (f : InFlight) (s : State), s.memWf = true → s.shaped = true → (s.seqAt q).run = some r → r.firstDue = some f →
    s.aon.power.serves = true → (s.domAt q).state = .running →
    s.landedBefore r (s.runEnv q r) ((s.activeProgram q).drop r.nextIdx) f.done = true →
    let u := s.until (r.start + f.done)
    ∃ t, exec (.commandCompletion q) s = .next t ∧
      ((u.domAt q).state ≠ .running → t = u) ∧
      (∀ now, (u.seqAt q).run = some now → (u.domAt q).state = .running → f.kind ≠ 3 →
        let x := u.seqAt q
        let y := t.seqAt q
        (∃ r', y.run = some r' ∧ r'.completed = now.completed + 1 ∧ r'.flight = (now.flight.filter fun z => z.idx != f.idx) ∧
          r'.released = now.released) ∧
        (∀ i v, f.sig = (1, i, v) → y.flags = x.flags ||| BitVec.ofNat 64 (2 ^ i) ∧ y.tallies = x.tallies) ∧
        (∀ i v, f.sig = (2, i, v) → y.flags = x.flags &&& ~~~(BitVec.ofNat 64 (2 ^ i)) ∧ y.tallies = x.tallies) ∧
        (∀ i v, f.sig = (3, i, v) → y.flags = x.flags ∧ y.tallies = x.tallies.modify i (· + BitVec.ofNat 24 v)) ∧
        (∀ i v, f.sig = (0, i, v) → y.flags = x.flags ∧ y.tallies = x.tallies) ∧
        (f.pred = none → y.preds = x.preds) ∧
        (∀ i v, f.pred = some (i, v) → i < 16 → ∀ k, k < 16 → y.preds.getLsbD k = if k = i then v else x.preds.getLsbD k) ∧
        y.status = f.status.getD x.status ∧ y.activeBank = x.activeBank ∧ (∀ j, j ≠ q → t.seqAt j = u.seqAt j) ∧
        y.slots = (if f.kind = 2 then [none, none, none, none] else x.slots) ∧
        t.cores = { u.cores with silos := u.cores.silos.filter fun z => z.seq != q || z.idx != f.idx } ∧
        (f.appends = [] → f.retiers = [] → t.ledger = u.ledger ∧ t.ckpt = u.ckpt) ∧
        (∀ i n, f.appends = [(i, n)] → f.retiers = [] → (t.entry i).cursor = ((u.entry i).cursor + n) % 2 ^ 23 ∧
          (t.entry i).tally = ((u.entry i).tally + n) % 2 ^ 24 ∧ (t.entry i).head = (u.entry i).head ∧
          ∀ j, j ≠ i → t.entry j = u.entry j) ∧
        u.keeps t [.gln, .seqs, .kol, .mbx, .ledger, .ckpt, .cores]) ∧
      ((u.domAt q).state = .running → (u.seqAt q).run.isSome = true → f.kind = 3 → r.stopAtEnd = 0 →
        (t.domAt q).state ≠ .running ∧ (t.domAt q).endTime = u.clk.rackTime)

/-- SP_READ_DATA in its stamp cycle: the position's silo takes the line, or with POISON its core halts; data in any other cycle, data that no
stamp expects, and a stamp that passes without its line are SCHEDULE_SLIPs. An SP_WR request that is refused stays pending for a later grant
of the position, with an SP_STALL (that no tally moves with it is the model's choice, notes/assumptions/105). -/
def Obligations.LinesComeAtTheirStamps : Prop :=
  ∀ (q pos : Nat) (chan : RdChan) (line : Nat) (r : Run) (s : State), (s.seqAt q).run = some r → s.runsAt q r pos = true →
    let live (u : State) : Prop := (u.domAt q).state.live = true ∧ q < u.seqs.length ∧ q < u.coll.doms.length
    (∀ x time, r.stampOf pos chan line = some x →
      (time = x.cycle → let u := s.until time
        (∀ now, (u.seqAt q).run = some now → live u → ∃ t, exec (.spReadData q pos chan line time false) s = .next t ∧
          t.seqAt q = { u.seqAt q with run := some { now with stamps := now.stamps.erase x } } ∧ (∀ k, k ≠ q → t.seqAt k = u.seqAt k) ∧
          t.cores = { u.cores with silos := ⟨q, x.pos, x.idx, x.line, (u.seenBy q x.pos).readBytes (512 * x.line) 512⟩ :: u.cores.silos } ∧
          u.keeps t [.seqs, .cores]) ∧
        (live u → ∃ t, exec (.spReadData q pos chan line time true) s = .next t ∧ t.aborts q 2 ∧ u.keeps t abortFields ∧
          (field (u.seqAt q).halt.w0 8 1 = 0 → field (t.seqAt q).halt.w0 0 8 = 2 ∧ field (t.seqAt q).halt.w0 8 1 = 1))) ∧
      (∀ p, time ≠ x.cycle → let u := s.until (min time (x.cycle + 1))
        live u → ∃ t, exec (.spReadData q pos chan line time p) s = .next t ∧ t.aborts q 1 ∧ u.keeps t abortFields) ∧
      (∀ refused, let u := s.until (x.cycle + 1)
        live u → ∃ t, exec (.lineStampExpiry q pos (.rd chan) line refused) s = .next t ∧ t.aborts q 1 ∧ u.keeps t abortFields)) ∧
    (r.stampOf pos chan line = none → ∀ time p, let u := s.until time
      live u → ∃ t, exec (.spReadData q pos chan line time p) s = .next t ∧ t.aborts q 1 ∧ u.keeps t (.free :: abortFields)) ∧
    (∀ x, (s.agenda.find? fun y => y.storesAt q pos line) = some x →
      let u := ({ s with agenda := s.agenda.erase x } : State).until x.cycle
      live u → ∃ t, exec (.lineStampExpiry q pos .wr line true) s = .next t ∧ t.sp = u.sp ∧
        (∃ y ∈ t.agenda, y.seq = q ∧ y.act = x.act ∧ x.cycle < y.cycle) ∧ t.gln.warn.getLsbD 4 = true ∧
        u.keeps t [.agenda, .gln])

/-! ## The matrix coupler (02 R64-R66; 13 R320-R329) -/

/-- EPILOGUE_BEAT in its modelled cycle is taken: buffered and counted in its generation, which its last beat closes. A beat while MC_HOLD
is 1 is the fatal alarm COUPLER_HOLD, one outside any open generation a COUPLER_GEN halt, one in another cycle, or with MC_EPI_LAST out of
its place, a SCHEDULE_SLIP, and is taken all the same. MC_DRAIN marks its generation drained, after its deadline with a SCHEDULE_SLIP first;
one that names no open generation, or names it again, is a COUPLER_GEN halt. -/
def Obligations.EpilogueBeatsAndDrains : Prop :=
  ∀ (time : Nat) (gen : BitVec 4) (s : State), s.clk.dividers = true →
    let now := max s.clk.rackTime time
    let u := s.until now
    let q := u.coup.owner.toNat
    let live (v : State) (d : Nat) : Prop := (v.domAt d).state.live = true ∧ d < v.seqs.length ∧ d < v.coll.doms.length
    let target := s.coup.gens.find? fun g => g.num == gen && g.isOpen now && g.closed.isNone
    let drains := s.coup.gens.find? fun g => g.num == gen && !g.drained && (g.isOpen now || s.coup.abortWait)
    (∀ last data, s.mcHold (now - 2) = true → ∃ t, exec (.epilogueBeat time gen last data) s = .next t ∧
      t.aon.fatal = u.aon.fatal ||| 8 ∧ t.aon.alarmPulled = true ∧ (u.aon.power.serves = true → t.aon.power = .halted)) ∧
    (∀ last data, s.mcHold (now - 2) = false → target = none → live u q →
      ∃ t, exec (.epilogueBeat time gen last data) s = .next t ∧ t.aborts q 4 ∧ u.keeps t abortFields) ∧
    (∀ last data g r x l, s.mcHold (now - 2) = false → target = some g → s.genCycles g = some (r, x, l) →
      let ch := Chain.ofMem u.coup.chains g.seq g.chain
      let due := s.beatDue g r x
      let fin := max now ((u.coup.ends.head?.map (·.2)).getD 0) + ch.beatCycles
      let inPlace := last = (g.beats + 1 == (Chain.ofMem s.coup.chains g.seq g.chain).nBeat)
      (now = due → inPlace → ∃ t, exec (.epilogueBeat time gen last data) s = .next t ∧ u.keeps t [.coup] ∧
        t.coup.ends = ((now, fin) :: u.coup.ends).take 8 ∧ t.coup.chains = u.coup.chains ∧ t.coup.epiStatus = u.coup.epiStatus ∧
        ∀ y ∈ u.coup.gens, y.num = g.num →
          let after : Gen := { y with beats := y.beats + 1, fin := fin, closed := if last then some now else none,
                                      data := if y.landed then [] else y.data ++ [data.take u.cfg.mcBytes] }
          ¬(after.over = true ∧ after.landed = true) → after ∈ t.coup.gens) ∧
      (now ≠ due ∨ ¬inPlace → let w := s.until (min now (due + 1))
        live w g.seq → ∃ t v : State, exec (.epilogueBeat time gen last data) s = .next t ∧ v.aborts g.seq 1 ∧ w.keeps v abortFields ∧
          (v.until now).keeps t [.coup])) ∧
    (∀ g, drains = some g →
      ((∀ due, s.drainDue g = some due → now ≤ due) → ∃ t, exec (.mcDrain time gen) s = .next t ∧ u.keeps t [.coup] ∧
        t.coup.chains = u.coup.chains ∧ ∀ y ∈ u.coup.gens, y.num = gen → let after : Gen := { y with drained := true }
          ¬(after.over = true ∧ after.landed = true) → after ∈ t.coup.gens) ∧
      (∀ due, s.drainDue g = some due → due < now → let w := s.until (due + 1)
        live w g.seq → ∃ t v : State, exec (.mcDrain time gen) s = .next t ∧ v.aborts g.seq 1 ∧ w.keeps v abortFields ∧
          (v.until now).keeps t [.coup])) ∧
    (drains = none → s.coup.owner.toNat < s.cfg.nSeq → live u q →
      ∃ t, exec (.mcDrain time gen) s = .next t ∧ t.aborts q 4 ∧ u.keeps t abortFields)

/-- LANDING_COMPLETE: four cycles after its last beat's processing a closed generation lands: its sheaves are written, EPI_STATUS follows,
and the chain's tally counts one. No other byte of any sheaf changes. -/
def Obligations.LandingsWriteTheirSheaves : Prop :=
  ∀ (g : Gen) (r : Run) (s : State), s.memWf = true → s.shaped = true → g.seq < s.cfg.nSeq →
    (s.coup.gens.find? fun g => g.closed.isSome && !g.landed) = some g → (s.seqAt g.seq).run = some r →
    let u := s.until (g.fin + 4)
    let e := u.runEnv g.seq r
    let ch := Chain.ofMem u.coup.chains g.seq g.chain
    let at_ (k : Nat) := landPosition ch u.cores.sheaves g.data (e.pos k).idx k
    ∃ t, exec .landingComplete s = .next t ∧ (s.quiet = true → s.clk.dividers = true → t.clk.rackTime = max s.clk.rackTime (g.fin + 4)) ∧
      (∀ b, (∀ k ∈ localRanks e, let lo := 65536 * (e.pos k).idx + 4096 * ch.firstSheaf
          (b < lo ∨ lo + (at_ k).1.length ≤ b) ∧
          ∀ st, ch.reduce = some st → let lo := 65536 * (e.pos k).idx + 4096 * st.sheaf
            b < lo ∨ lo + 4 * (at_ k).2.1.length ≤ b) → t.cores.sheaves.read b = u.cores.sheaves.read b) ∧
      t.cores = { u.cores with sheaves := t.cores.sheaves } ∧
      (ch.sigEn = true → t.seqAt g.seq = { u.seqAt g.seq with tallies := (u.seqAt g.seq).tallies.modify ch.sigTally (· + 1) }) ∧
      (ch.sigEn = false → t.seqs = u.seqs) ∧ (∀ k, k ≠ g.seq → t.seqAt k = u.seqAt k ∧ t.coup.epiStatus[k]? = u.coup.epiStatus[k]?) ∧
      t.coup.chains = u.coup.chains ∧ u.keeps t [.cores, .coup, .seqs, .free]

/-- A drain or a beat that is missing in the cycle after its modelled one is a SCHEDULE_SLIP of the coupler; a generation still open 65,536
cycles after an abort is the fatal alarm COUPLER_STUCK. -/
def Obligations.CouplerDeadlinesAreKept : Prop :=
  let live (v : State) (d : Nat) : Prop := (v.domAt d).state.live = true ∧ d < v.seqs.length ∧ d < v.coll.doms.length
  (∀ (g : Gen) (r : Run) (x : GenCycles) (l : List Cmd) (s : State), s.genCycles g = some (r, x, l) → g.complete s l = true →
    ((s.coup.gens.find? fun g => !g.drained) = some g → let u := s.until (r.start + x.d + 1)
      live u g.seq → ∃ t, exec .drainDeadline s = .next t ∧ t.aborts g.seq 1 ∧ u.keeps t abortFields) ∧
    ((s.coup.gens.find? fun g => g.closed.isNone) = some g → let u := s.until (s.beatDue g r x + 1)
      live u g.seq → ∃ t, exec .epilogueBeatNotPresented s = .next t ∧ t.aborts g.seq 1 ∧ u.keeps t abortFields)) ∧
  (∀ s : State, s.coup.abortWait = true → let u := s.until ((s.domAt s.coup.owner.toNat).abortTime + 65536)
    ∃ t, exec .couplerStuck s = .next t ∧ t.aon.fatal = u.aon.fatal ||| 0x10 ∧
    t.aon.alarmPulled = true ∧ (u.aon.power.serves = true → t.aon.power = .halted) ∧
    (u.aon.power.serves = false → u.keeps t [.gln, .aon]))

/-! ## Link training (15 R363-R373; 02 R70, R72; 03 R106) -/

/-- The training steps. PHY_READY ends step 1, and cells are received 32 CK_L cycles later; 64 ALIGN cells with consecutive equal counts on
the eight lane groups end step 2; 1,024 good cells end step 3 with a TRAIN_ID; in step 4 a TRAIN_ID of another class takes the port down, one
with ACK starts step 5; 16 equal round trips end step 5; the partner's TRAIN_DONE ends step 6. A TRAIN_TIME carries the time at which it is
launched and the two times of the last one received. -/
def Obligations.TrainingFollowsItsSteps : Prop :=
  (∀ (p : Nat) (s : State), s.inStep p 1 = true →
    exec (.phyReady p) s = .next (s.onPort p fun q => { q with step := 2, phyRdy := true, rdyAt := s.clk.localTime })) ∧
  (∀ (p : Nat) (counts : List Nat) (skew : Nat) (s : State), s.inStep p 2 = true →
    (s.receives p = false → exec (.alignCell p counts skew) s = .next s) ∧
    (s.receives p = true → let q := s.portAt p
      ∃ t, exec (.alignCell p counts skew) s = .next t ∧ s.keeps t [.ports] ∧ (∀ k, k ≠ p → t.portAt k = s.portAt k) ∧
      (8 < skew → t.portAt p = { q with alignRun := 0, alignLast := none, failReason := 3 }) ∧
      (∀ n, skew ≤ 8 → n < 16 → counts = List.replicate 8 n →
        let run := if q.alignLast = some ((n + 15) % 16) then q.alignRun + 1 else 1
        t.portAt p = { q with alignRun := run, alignLast := some n, failReason := 0, step := if 64 ≤ run then 3 else 2 }) ∧
      (skew ≤ 8 → (∀ n, n < 16 → counts ≠ List.replicate 8 n) → t.portAt p = { q with alignRun := 0, alignLast := none, failReason := 0 }))) ∧
  (∀ (c : RxCell) (h : CellHdr) (pay : Bytes) (tRx : Nat) (s : State), s.received c h pay →
    let u := s.afterRx c
    let q := u.portAt c.port
    let x := PartnerId.ofPayload pay
    let kept : Port := { q with partner := some x, partnerAcked := x.ack, neighPort := x.port.setWidth 6, neighLogical := x.logical }
    let sent (t : State) (ts : List (BitVec 5)) : Prop := ∃ l : List TxCell, t.coll = { u.coll with tx := u.coll.tx ++ l } ∧
      l.map (fun y => (y.port, y.slot, y.hdr.type)) = ts.map fun k => (c.port, none, k)
    let only (t : State) : Prop := ∀ k, k ≠ c.port → t.portAt k = u.portAt k
    let lost (i : Instr) (reason : BitVec 8) : Prop := u.strapValid c.port = true → ∃ v, exec i s = .next v.trainingEnded ∧
      (v.portAt c.port).state = .down ∧ (v.portAt c.port).reason = reason ∧ (v.portAt c.port).phyEn = false ∧ u.keeps v [.ports, .gln, .aon]
    u.chanDom c.port = none →
    (h.type = 0 → u.inStep c.port 3 = true → ∃ t, exec (.idleCell c) s = .next t ∧ u.keeps t [.ports, .coll] ∧ only t ∧
      (q.idleRun < 1023 → t.portAt c.port = { q with idleRun := q.idleRun + 1 } ∧ sent t []) ∧
      (1023 ≤ q.idleRun → t.portAt c.port = { q with idleRun := q.idleRun + 1, step := 4 } ∧ sent t [8])) ∧
    (h.type = 8 → u.inStep c.port 4 = true →
      (x.cls.toNat ≠ u.strap c.port → lost (.trainId c) 5) ∧
      (x.cls.toNat = u.strap c.port → ∃ t, exec (.trainId c) s = .next t ∧ u.keeps t [.ports, .coll] ∧ only t ∧
        (x.ack = false → t.portAt c.port = kept ∧ sent t [8]) ∧
        (x.ack = true → t.portAt c.port = { kept with step := 5, calibRun := 0, exchange := q.exchange + 1 } ∧ sent t [8, 9]))) ∧
    (h.type = 9 → let w := u.untilLocal (tRx / 4)
      w.inStep c.port 5 = true →
      let z := w.portAt c.port
      let tTx := payNum pay 0 8
      let echo := payNum pay 8 8
      let rx := payNum pay 16 8
      let phi := payByte pay 24
      let dOut := (rx : Int) - echo
      let dIn := (tRx : Int) - tTx
      let padFor (l : Nat) : Nat := ((4 * (w.cfg.portBudget c.port : Int) + 44 - (l + phi : Nat)) / 5).toNat
      let k := if w.cfg.portClass c.port = 4 then Calib.ofRound dOut dIn else Calib.ofTrip dOut dIn
      let n := if 0 < z.calibRun ∧ z.calibL = k.lIn.toNat ∧ z.calibLOut = k.lOut.toNat then z.calibRun + 1 else 1
      let heard : Port := { z with lastTRx := some (tTx, tRx), partnerPhi := phi, exchange := z.exchange + 1, padDue := false,
                                   pad := if z.padDue = true ∧ w.cfg.portClass c.port ≠ 4 then padFor z.lIn else z.pad }
      let others (t : State) : Prop := w.keeps t [.ports, .coll] ∧ ∀ k, k ≠ c.port → t.portAt k = w.portAt k
      let sends (t : State) (ts : List (BitVec 5)) : Prop := ∃ l y, t.coll = { w.coll with tx := w.coll.tx ++ (l ++ [y]) } ∧
        (l ++ [y]).map (fun y => (y.port, y.slot, y.hdr.type)) = ts.map (fun k => (c.port, none, k)) ∧
        payNum y.payload 0 8 = w.launchTime % 2 ^ 64 ∧ payNum y.payload 8 8 = tTx ∧ payNum y.payload 16 8 = tRx % 2 ^ 64 ∧
        payByte y.payload 24 = w.phi
      (echo = 0 → rx = 0 → ∃ t, exec (.trainTime c tRx) s = .next t ∧ others t ∧ t.portAt c.port = heard ∧ sends t [9]) ∧
      (echo ≠ 0 ∨ rx ≠ 0 → w.calibFault c.port k = none → ∃ t, exec (.trainTime c tRx) s = .next t ∧ others t ∧
        (n ≠ 16 → t.portAt c.port = { heard with calibL := k.lIn.toNat, calibLOut := k.lOut.toNat, calibRun := n } ∧ sends t [9]) ∧
        (n = 16 → (t.portAt c.port).step = 6 ∧ (t.portAt c.port).lIn = k.lIn.toNat ∧ (t.portAt c.port).lOut = k.lOut.toNat ∧
          (w.cfg.portClass c.port ≠ 4 → (t.portAt c.port).pad = padFor k.lIn.toNat) ∧
          (t.portAt c.port).clockOffset = k.offset ∧ (t.portAt c.port).unchecked = w.boot.ready ∧ sends t [10, 9]))) ∧
    (h.type = 10 → u.inStep c.port 6 = true →
      (∀ st r, u.upState c.port = (st, some r) → payByte pay 0 = 4 ∨ (payByte pay 0 = 3 ∧ st ≠ .up) →
        ∃ v, exec (.trainDone c) s = .next v.trainingEnded ∧ u.keeps v [.ports, .gln] ∧ only v ∧
          v.portAt c.port = { q with state := st, reason := BitVec.ofNat 8 r, trainedAt := u.clk.localTime, calibRun := 0 }) ∧
      (u.upState c.port = (.up, some 0) → payByte pay 0 = 3 → ∃ v, exec (.trainDone c) s = .next v.trainingEnded ∧ u.keeps v [.ports, .gln] ∧
        only v ∧ (v.portAt c.port).state = .maintOnly ∧ (v.portAt c.port).reason = 0x12) ∧
      (payByte pay 0 ≠ 3 → payByte pay 0 ≠ 4 → lost (.trainDone c) 4)))

/-- Loss and retraining. TRAINING_LIMIT_EXPIRY and PORT_LOSS take the port down, with its ring pair into bypass: a fall of the signal always,
a count of receive clock edges only outside 12 to 13, or 12 to 14 on class O. PORT_RETRAIN trains a down port again, or its pair leaves
bypass and BYPASS_SWITCH_WAIT starts both. `trainingEnded` is what follows when a port ends training. -/
def Obligations.PortsAreLostAndRetrained : Prop :=
  ∀ (p : Nat) (s : State), s.shaped = true → p < s.cfg.nPort → s.strapValid p = true →
    let q := s.portAt p
    let down (u : State) (i : Instr) (reason : BitVec 8) (los : Bool) : Prop := ∃ v, exec i s = .next v.trainingEnded ∧
      (v.portAt p).state = .down ∧ (v.portAt p).reason = reason ∧ (v.portAt p).phyEn = false ∧ (los = true → (v.portAt p).los = true) ∧
      (∀ k, u.cfg.pairOf p = some k → v.aon.bypass.getD k true = true) ∧
      v.aon = { u.aon with bypass := v.aon.bypass } ∧ u.keeps v [.gln, .ports, .aon]
    let fits (n : Nat) : Prop := 12 ≤ n ∧ n ≤ if s.cfg.portClass p = 4 then 14 else 13
    (q.state = .training → q.phyEn = true → let u := s.untilLocal (q.lastTry + s.trainLimit p)
      (s.quiet = true → s.clk.dividers = true → u.clk.localTime = max s.clk.localTime (q.lastTry + s.trainLimit p)) ∧
      (u.shaped = true → u.cfg = s.cfg → u.strapValid p = true →
        down u (.trainingLimitExpiry p) (if q.failReason = 0 then 4 else q.failReason) false)) ∧
    (q.trained = true → down s (.portLoss p .los) 0x09 true ∧
      ∀ n, q.phyEn = true → ¬fits n → down s (.portLoss p (.rate n)) 0x0A false) ∧
    (∀ n, fits n ∨ q.phyEn = false → exec (.portLoss p (.rate n)) s = .next s) ∧
    (∀ cause, q.state = .training → q.phyRdy = true → (∀ n, cause = .rate n → q.phyEn = true ∧ ¬fits n) →
      exec (.portLoss p cause) s = .next (s.onPort p fun q => { q with phyRdy := false, step := 1, idleRun := 0, alignRun := 0 })) ∧
    (s.mayRetrain p = true → let u := s.untilLocal (q.lastTry + 16000000)
      (s.quiet = true → s.clk.dividers = true → u.clk.localTime = max s.clk.localTime (q.lastTry + 16000000)) ∧
      (u.mayRetrain p = false → exec (.portRetrain p) s = .next u) ∧
      (u.shaped = true → u.mayRetrain p = true → ∃ t, exec (.portRetrain p) s = .next t ∧ u.keeps t [.gln, .ports, .aon] ∧
        (t.portAt p).state = .training ∧
        (u.cfg.pairOf p = none → (t.portAt p).step = 1 ∧ (t.portAt p).phyEn = true ∧ (t.portAt p).partner = none ∧ t.aon = u.aon ∧
          ∀ k, k ≠ p → t.portAt k = u.portAt k) ∧
        (∀ k, u.cfg.pairOf p = some k → t.aon = { u.aon with bypass := u.aon.bypass.set k false } ∧ (t.portAt p).phyEn = false))) ∧
    (∀ k, k < s.cfg.nPair → s.aon.bypass.getD k true = false →
      let a := (s.cfg.pairPorts k).1
      let b := (s.cfg.pairPorts k).2
      let u := s.untilLocal ((s.portAt a).lastTry + 3200)
      (∀ x, x = a ∨ x = b → (s.portAt x).state = .training ∧ (s.portAt x).phyEn = false) → u.shaped = true → u.cfg = s.cfg →
      ∃ t, exec (.bypassSwitchWait k) s = .next t ∧
        (∀ x, x = a ∨ x = b → (t.portAt x).state = .training ∧ (t.portAt x).step = 1 ∧ (t.portAt x).phyEn = true) ∧
        (∀ x, x ≠ a → x ≠ b → t.portAt x = u.portAt x) ∧ u.keeps t [.gln, .ports] ∧
        (s.quiet = true → s.clk.dividers = true → t.clk.localTime = max s.clk.localTime ((s.portAt a).lastTry + 3200)))

/-! ## Cells of channels (15 R356-R361, R370; 05 R146; 16 R391, R394, R400, R401) -/

/-- A cell of the running epoch in its channel's slot on a port of class P, B or K. A DATA cell that passes the checks of a delivering
circuit is written into the shadow region line by line, each line at its SP_WR grant, and then counts once (R391, R394); a CHANNEL_BARRIER
counts once and writes nothing; one that fails a check is missing, and one outside the window is a SCHEDULE_SLIP. A TAG confirms its group
or aborts with TAG_FAIL. On class O the cell of every kind waits in the elastic buffer while that holds fewer than 2 (R375). -/
def Obligations.ChannelCellsAreCheckedAndDelivered : Prop :=
  (∀ (c : RxCell) (h : CellHdr) (pay : Bytes) (d : Nat) (x : SlotUse) (r : Run) (s : State), s.received c h pay →
    let u := s.afterRx c
    u.memWf = true → u.isUp c.port = true → u.inMap c.port = true → u.cfg.portClass c.port ≠ 4 → u.chanDom c.port = some d →
    u.openSlot d c.port c.slot = some x → (u.domAt d).state = .running → (u.seqAt d).run = some r →
    let g := x.circ.gIn u.cfg
    let isTag := isTagCell g x.circ.inPat.cells x.k = true
    let n := dataIndex g x.k
    let check := u.rxCheck d x h true true n (some (x.t * u.inData x.circ + n))
    let e := x.circ.dstChannel
    let en := u.entry e
    let bits := en.count * u.entryWidth e
    let base := en.shadowLine * 512 + x.t * 512 * ((bits + 4095) / 4096) + 224 * n
    let len := min 224 ((bits + 7) / 8 - 224 * n)
    let now := u.clk.rackTime
    let grants := (u.runEnv d r).cellGrants e x.t n
    let due (line : Nat) : Nat := max now (((grants.find? fun y => y.1 == line).map (·.2)).getD 0)
    let inside (line : Nat) : Bool := inWindow (u.runWords d r) line
    let pos := en.home % u.cfg.nActive
    let marked (t : State) : Prop := t.coll.tx = u.coll.tx ∧ t.domAt d = { u.domAt d with cellIdx := (u.domAt d).cellIdx ++ [(c.port, c.slot)] }
    let missing (t : State) : Prop := t.aborts d 0x23 ∧ u.keeps t abortFields
    let slip := (u.markSlot d c.port c.slot).until ((u.stampAt c.port c.slot : Int) + (-c.wait) / 4).toNat
    (h.type = 1 → outOfWindow c.wait = true → (slip.domAt d).state.live = true →
      ∃ t, exec (.data c) s = .next t ∧ t.aborts d 1 ∧ slip.keeps t abortFields) ∧
    (outOfWindow c.wait = false → ¬isTag → h.type = 1 →
      (x.circ.role = 1 → x.circ.ins = [c.port] → check = .pass → pay.length = 224 → u.protectedDom c.port ≠ some d → ∃ t, exec (.data c) s = .next t ∧
        marked t ∧ u.keeps t [.coll, .agenda] ∧
        (∀ y ∈ u.agenda, y ∈ t.agenda) ∧
        (∃ m, (∀ y ∈ grants, y.2 ≤ m) ∧ ⟨m, d, .count e⟩ ∈ t.agenda ∧
          ∀ y ∈ t.agenda, y ∈ u.agenda ∨ y = ⟨m, d, .count e⟩ ∨ ∃ line cells, (line, cells) ∈ u.shadowRuns e x.t n pay ∧
            y = ⟨due line, d, if inside line = true then .store pos line cells true else .outside 0 0 pos 4 line⟩) ∧
        (∀ k, k < len → ∃ line cells, cells.contains (base + k, pay.getD k 0) = true ∧ line = (base + k) / 512 ∧
          ⟨due line, d, if inside line = true then .store pos line cells true else .outside 0 0 pos 4 line⟩ ∈ t.agenda) ∧
        (∀ line cells, (line, cells) ∈ u.shadowRuns e x.t n pay → ∀ y ∈ cells, ∃ k, k < len ∧ y = (base + k, pay.getD k 0))) ∧
      (check = .missing → ∃ t, exec (.data c) s = .next t ∧ missing t ∧ (t.portAt c.port).missing = sat16 (u.portAt c.port).missing) ∧
      (check = .tenant → ∃ t, exec (.data c) s = .next t ∧ missing t ∧
        (t.portAt c.port).tenantMismatch = sat16 (u.portAt c.port).tenantMismatch)) ∧
    (outOfWindow c.wait = false → h.type = 3 → payByte pay 0 ≠ 1 → payByte pay 0 ≠ 2 → u.rxCheck d x h true false 0 (some x.t) = .pass →
      (u.printHolds d pay = false → ∃ t, exec (.channelBarrier c) s = .next t ∧ t.aborts d 0x25 ∧ u.keeps t abortFields) ∧
      (u.printHolds d pay = true → x.circ.role = 1 → x.circ.ins = [c.port] → ∃ t, exec (.channelBarrier c) s = .next t ∧ marked t ∧
        (t.entry e).tally = (en.tally + 1) % 2 ^ 24 ∧ (∀ k, k ≠ e → t.entry k = u.entry k) ∧ u.keeps t [.ledger, .coll, .seqs])) ∧
    (outOfWindow c.wait = false → isTag → h.type = 2 → u.rxCheck d x h true false 0 none = .pass →
      let own (y : TagGroup) : Bool := y.circuit == x.idx && y.port == c.port
      (∀ y, (u.domAt d).groups.find? own = some y → u.tagHolds d y pay = true → ∃ t, exec (.tag c) s = .next t ∧ u.keeps t [.coll] ∧
        t.domAt d = { u.domAt d with groups := (u.domAt d).groups.filter (fun z => !own z),
                                     cellIdx := (u.domAt d).cellIdx ++ [(c.port, c.slot)] }) ∧
      ((∀ y, (u.domAt d).groups.find? own = some y → u.tagHolds d y pay = false) → ∃ t, exec (.tag c) s = .next t ∧ t.aborts d 0x24 ∧
        u.keeps t abortFields ∧ (t.portAt c.port).poisoned = sat16 (u.portAt c.port).poisoned))) ∧
  (∀ (c : RxCell) (s : State), s.buffered c.port = true → (s.portAt c.port).elastic.length < 2 → ∀ row : Instr × CellKind,
    row ∈ [(.idleCell c, .idle), (.data c, .data), (.tag c, .tag), (.channelBarrier c, .channelBarrier), (.barrierVote c, .barrierVote),
      (.barrierDecision c, .barrierDecision), (.abort c, .abort), (.bundle c, .bundle), (.reservedTypeCell c, .reserved),
      (.trainId c, .trainId), (.rolled c, .rolled), (.rollbackDone c, .rollbackDone), (.syncMessage c, .syncMessage),
      (.maintAck c, .maintAck), (.counter c, .counter)] →
    exec row.1 s = .next (if rxKind c = row.2 then
      s.onPort c.port fun q => { q with elastic := q.elastic ++ [c], elasticAt := s.localSlot } else s))

/-- Cells that do not come as they should: poisoned cells, IDLE cells in a channel's slot, cells of a reserved TYPE and slots that pass
without a cell. In a channel's or a control slot each aborts the epoch, with POISONED, MISSING or TAG_FAIL; elsewhere a reserved cell only
counts. A slave that misses a bundle cell has lost its bundle: its sequencers halt. -/
def Obligations.LostCellsAbortTheEpoch : Prop :=
  (∀ (p slot d : Nat) (s : State), s.receives p = true → s.buffered p = false →
    let u := (s.arrive p slot).recordWait p (s.fixedWait p slot)
    (u.portAt p).trained = true → u.fedSlot p slot = false → u.chanDom p = some d → u.slotMarked d p slot = false →
    u.usesOf d p slot ≠ [] ∨ u.controlUse d p slot = true → ∃ t, exec (.poison p slot) s = .next t ∧ t.aborts d 0x22 ∧ u.keeps t abortFields ∧
      (t.portAt p).poisoned = sat16 (u.portAt p).poisoned) ∧
  (∀ (p slot d : Nat) (s : State), s.slave = false ∨ s.fedSlot p slot = false → s.chanDom p = some d → p < s.ports.length →
    let u := s.until (s.stampAt p slot)
    (s.quiet = true → s.clk.dividers = true → u.clk.rackTime = max s.clk.rackTime (s.stampAt p slot)) ∧
    ((u.domAt d).state.live = true → u.shaped = true → u.cfg = s.cfg → p < s.cfg.nPort →
      (∀ x, s.openSlot d p slot = some x → s.cfg.portClass p ≠ 4 →
        ∃ t, exec (.cellStampExpiry p slot) s = .next t ∧ t.aborts d (missingReason s.cfg x) ∧ u.keeps t abortFields ∧
          (missingReason s.cfg x = 0x23 → (t.portAt p).missing = sat16 (u.portAt p).missing) ∧
          (missingReason s.cfg x = 0x24 → (t.portAt p).poisoned = sat16 (u.portAt p).poisoned)) ∧
      (∀ x, s.openSlot d p slot = some x → s.cfg.portClass p = 4 → (s.portAt p).trained = false →
        ∃ t, exec (.cellStampExpiry p slot) s = .next t ∧ t.aborts d (missingReason s.cfg x) ∧ s.keeps t abortFields) ∧
      (s.openSlot d p slot = none → s.stamped p = true → s.controlUse d p slot = true → s.slotMarked d p slot = false →
        ∃ t, exec (.cellStampExpiry p slot) s = .next t ∧ t.aborts d 0x23 ∧ u.keeps t abortFields ∧
          (t.portAt p).missing = sat16 (u.portAt p).missing))) ∧
  (∀ (p slot : Nat) (s : State), s.slave = true → s.fedSlot p slot = true → let u := s.until (s.stampAt p slot)
    u.shaped = true → ∃ t, exec (.cellStampExpiry p slot) s = .next t ∧ u.keeps t abortFields ∧
      ∀ q r, (u.seqAt q).run = some r → r.ended = false → (u.domAt q).state.live = true → t.aborts q 7) ∧
  (∀ (c : RxCell) (h : CellHdr) (pay : Bytes) (s : State), s.received c h pay → s.buffered c.port = false →
    let u := s.afterRx c
    let reserved := h.type.toNat = 0x07 ∨ h.type.toNat = 0x0B ∨ 0x0F ≤ h.type.toNat
    (∀ d x, u.chanDom c.port = some d → u.openSlot d c.port c.slot = some x →
      (h.type = 0 → u.isUp c.port = true → ∃ t, exec (.idleCell c) s = .next t ∧ t.aborts d (missingReason u.cfg x) ∧ u.keeps t abortFields) ∧
      (reserved → ∃ t, exec (.reservedTypeCell c) s = .next t ∧ t.aborts d (missingReason u.cfg x) ∧ u.keeps t abortFields)) ∧
    (reserved → u.chanDom c.port = none →
      exec (.reservedTypeCell c) s = .next (u.onPort c.port fun q => { q with missing := sat16 q.missing })))

/-! ## Votes, decisions and aborts (16 R401-R408) -/

/-- Control cells of a domain's live epoch, in its control slots. A BARRIER cell with another fingerprint aborts the epoch, whatever its KIND.
ABORT aborts with its reason and origin and is sent on; a vote is kept, and with every vote the root commits or aborts; a decision comes from
the parent and is sent to the children; a cell outside its window is a SCHEDULE_SLIP; DECISION_WATCHDOG aborts. -/
def Obligations.ControlCellsDecideTheEpoch : Prop :=
  (∀ (c : RxCell) (h : CellHdr) (pay : Bytes) (d : Nat) (s : State), s.received c h pay → s.buffered c.port = false →
    let u := s.afterRx c
    let rowOf : Instr := if h.type = 4 then .abort c else if payByte pay 0 = 1 then .barrierVote c else .barrierDecision c
    h.type = 4 ∨ (h.type = 3 ∧ (payByte pay 0 = 1 ∨ payByte pay 0 = 2)) → u.controlDom c h = some d →
    (u.stamped c.port = true → outOfWindow c.wait = true →
      let w := (u.markSlot d c.port c.slot).until ((u.stampAt c.port c.slot : Int) + (-c.wait) / 4).toNat
      (w.domAt d).state.live = true → ∃ t, exec rowOf s = .next t ∧ t.aborts d 1 ∧ w.keeps t abortFields) ∧
    (u.stamped c.port = false ∨ outOfWindow c.wait = false →
      let v := u.avail c.port c.slot
      let y := v.domAt d
      y.state.live = true → ∀ j, y.activeJob = some j →
      let sends (t : State) (type : BitVec 5) (p : Nat) (body : Bytes) : Prop :=
        ∃ x ∈ t.coll.tx, x.port = p ∧ x.slot = some (controlSlot v.clk.rackTime) ∧ x.hdr.type = type ∧ x.payload = body
      (h.type = 4 → ∃ t, exec (.abort c) s = .next t ∧ t.aborts d (payByte pay 0) ∧ (t.domAt d).remote = true ∧
        (t.domAt d).origin = BitVec.ofNat 16 (payNum pay 2 2) ∧ v.keeps t abortFields ∧
        ∀ p ∈ portsOf j.jobPorts, v.carriesFor d p = true → sends t 4 p (abortPayload (payByte pay 0) (payNum pay 2 2) (payNum pay 8 8))) ∧
      (h.type = 3 → v.printHolds d pay = false → ∃ t, exec rowOf s = .next t ∧ t.aborts d 0x25 ∧ v.keeps t abortFields) ∧
      (h.type = 3 → payByte pay 0 = 1 → v.printHolds d pay = true →
        let votes := y.childVotes.filter (fun x => x.1 != c.port) ++
          [(c.port, payNum pay 6 2 + 1, if payByte pay 1 = 1 then none else some (payByte pay 2))]
        let all := y.state = .voting ∧ y.myVoteSent = false ∧ y.groups = [] ∧ v.elasticDone d = true ∧
          ∀ p ∈ portsOf j.childMask, votes.any (fun x => x.1 == p) = true
        (j.childMask.testBit c.port = false → ∃ t, exec (.barrierVote c) s = .next t ∧ t.coll = v.coll ∧
          (t.portAt c.port).missing = sat16 (v.portAt c.port).missing ∧ v.keeps t [.ports]) ∧
        (j.childMask.testBit c.port = true →
          (¬all → ∃ t, exec (.barrierVote c) s = .next t ∧ t.domAt d = { y with childVotes := votes } ∧ v.keeps t [.coll] ∧
            t.coll.tx = v.coll.tx) ∧
          (all → v.isRoot d = true → votes.all (fun x => x.2.2.isNone) = true → votes.foldl (fun n x => n + x.2.1) 1 = j.participants →
            ∃ t, exec (.barrierVote c) s = .next t ∧ (t.domAt d).state = .committing ∧ (t.domAt d).commitTime = v.clk.rackTime ∧
              v.keeps t [.coll] ∧
              ∀ p ∈ portsOf j.childMask, v.carriesFor d p = true → sends t 3 p (v.barrierPayload d 2 1 0 0)) ∧
          (all → v.isRoot d = true → votes.all (fun x => x.2.2.isNone) = true → votes.foldl (fun n x => n + x.2.1) 1 ≠ j.participants →
            ∃ t, exec (.barrierVote c) s = .next t ∧ t.aborts d 0x25 ∧ v.keeps t abortFields) ∧
          (∀ r, all → v.isRoot d = true → votes.findSome? (fun x => x.2.2) = some r → ∃ t, exec (.barrierVote c) s = .next t ∧ t.aborts d r ∧
            v.keeps t abortFields) ∧
          (all → v.isRoot d = false → ∃ t, exec (.barrierVote c) s = .next t ∧ (t.domAt d).state = .voting ∧ (t.domAt d).myVoteSent = true ∧
            v.keeps t [.coll] ∧ (v.carriesFor d j.parentPort = true →
              ∃ x ∈ t.coll.tx, x.port = j.parentPort ∧ x.hdr.type = 3 ∧ payByte x.payload 0 = 1)))) ∧
      (h.type = 3 → payByte pay 0 = 2 → v.printHolds d pay = true →
        (j.parentPort ≠ c.port ∨ (payByte pay 1 = 1 ∧ y.state ≠ .voting) → ∃ t, exec (.barrierDecision c) s = .next t ∧ t.coll = v.coll ∧
          v.keeps t [.ports] ∧ (t.portAt c.port).missing = sat16 (v.portAt c.port).missing) ∧
        (j.parentPort = c.port → y.state = .voting → payByte pay 1 = 1 → ∃ t, exec (.barrierDecision c) s = .next t ∧
          (t.domAt d).state = .committing ∧ (t.domAt d).commitTime = v.clk.rackTime ∧ v.keeps t [.coll] ∧
          ∀ p ∈ portsOf j.childMask, v.carriesFor d p = true → sends t 3 p pay) ∧
        (j.parentPort = c.port → payByte pay 1 ≠ 1 → ∃ t, exec (.barrierDecision c) s = .next t ∧
          t.aborts d (payByte pay 2) ∧ (t.domAt d).origin = BitVec.ofNat 16 (payNum pay 4 2) ∧ v.keeps t abortFields ∧
          ∀ p ∈ portsOf j.childMask, v.carriesFor d p = true → sends t 3 p pay)))) ∧
  (∀ (d : Nat) (s : State), (s.domAt d).state = .voting → s.aon.power.serves = true →
    let u := s.until ((s.domAt d).endTime + s.barrierWd d)
    (s.quiet = true → s.clk.dividers = true → u.clk.rackTime = max s.clk.rackTime ((s.domAt d).endTime + s.barrierWd d)) ∧
    ((u.domAt d).state.live = true → ∃ t, exec (.decisionWatchdog d) s = .next t ∧ t.aborts d 0x26 ∧ u.keeps t abortFields))

/-! ## Commit and rollback (13 R351; 16 R405-R410) -/

/-- COMMIT_COPY_DONE: the domain is idle with its epoch committed, its checkpoint words are clear, and the only scratchpad bytes that
change lie in the landing regions of its KEEP entries; a single KEEP entry's landing region holds its shadow region. `n` is the cycle of the
last write. -/
def Obligations.CommitCopiesKeepEntries : Prop :=
  ∀ (d : Nat) (s : State), s.memWf = true → (s.domAt d).state = .committing → s.aon.power.serves = true →
    let es := s.keepEntries d
    let land (e : Nat) := 512 * (s.entry e).landLine
    let size (e : Nat) := 512 * s.shadowLines d e
    ∃ (m : Mem) (n : Nat) (t : State), exec (.commitCopyDone d) s = .next t ∧ (s.domAt d).commitTime ≤ n ∧
      (∀ b, (∀ e ∈ es, b < land e ∨ land e + size e ≤ b) → m.read b = s.sp.read b) ∧
      (∀ e b, es = [e] → b < size e →
        let sh := 512 * (s.entry e).shadowLine
        (land e + size e ≤ sh ∨ sh + size e ≤ land e) → m.read (land e + b) = s.sp.read (sh + b)) ∧
      (let u : State := ({ s with sp := m } : State).until n
       (s.quiet = true → u.sp = m ∧ (s.clk.dividers = true → u.clk.rackTime = max s.clk.rackTime n)) ∧
       ((u.domAt d).state = .committing → d < u.coll.doms.length →
         t.sp = u.sp ∧ (t.domAt d).state = .idle ∧ (t.domAt d).lastCommit = (u.domAt d).epoch ∧
         (t.domAt d).commitValid = true ∧ (∀ k, k ≠ d → t.domAt k = u.domAt k) ∧
         (∀ x ∈ t.ckpt, inLedger (u.wordsOf d) x.1 = false) ∧ (∀ x ∈ u.ckpt, inLedger (u.wordsOf d) x.1 = false → x ∈ t.ckpt) ∧
         t.seqAt d = { u.seqAt d with run := none } ∧ (∀ k, k ≠ d → t.seqAt k = u.seqAt k) ∧
         u.keeps t [.gln, .ckpt, .coll, .seqs, .kol, .mbx, .ports, .free]))

/-- LOCAL_ROLLBACK_DONE clears the sequencer's flags, tallies and predicates and the sheaves of the domain's pens, and restores HEAD and
CURSOR of the domain's entries from their checkpoint words, and the bytes that arrivals have overwritten in shadow regions; no other
scratchpad byte changes. A domain without a job is idle at once, a participant that is not the root is rolled. ROLLED is counted by the root,
which completes with the last; ROLLBACK_DONE makes the sequencer idle; ROLLBACK_WATCHDOG restores what is not restored yet, makes the
sequencer idle and is the fatal alarm PARTITION_LOSS. -/
def Obligations.AbortedEpochsRollBack : Prop :=
  (∀ (d : Nat) (s : State), s.memWf = true → d < s.seqs.length → (s.domAt d).state = .aborting → s.countersDone d = true →
    (s.coup.abortWait = false ∨ s.coup.owner.toNat ≠ d) →
    let ws := s.wordsOf d
    let lo := 65536 * (partFirstPen ws % max s.cfg.nPen 1 * 16)
    let hi := lo + 65536 * 16 * partPens ws
    ∃ t, exec (.localRollbackDone d) s = .next t ∧ (t.seqAt d).flags = 0 ∧ (t.seqAt d).tallies = List.replicate 32 0 ∧ (t.seqAt d).preds = 0 ∧
      (t.seqAt d).halt = (s.seqAt d).halt ∧ (t.seqAt d).activeBank = (s.seqAt d).activeBank ∧ (∀ k, k ≠ d → t.seqAt k = s.seqAt k) ∧
      (∀ b, t.cores.sheaves.read b = if lo ≤ b ∧ b < hi then 0 else s.cores.sheaves.read b) ∧
      t.cores = { s.cores with sheaves := t.cores.sheaves } ∧
      ((s.seqAt d).run = none → t.sp = s.sp) ∧
      (∀ r, (s.seqAt d).run = some r → (∀ b, (∀ x ∈ r.undo, x.1 ≠ b) → t.sp.read b = s.sp.read b) ∧
        (∀ b v l, r.undo = l ++ [(b, v)] → t.sp.read b = v)) ∧
      (∀ i h c, s.ckpt = [(i, h, c)] → inLedger ws i = true → (t.entry i).head = h % 2 ^ 23 ∧ (t.entry i).cursor = c % 2 ^ 23 ∧ t.ckpt = []) ∧
      (∀ k, k ≠ d → t.domAt k = s.domAt k) ∧
      ((s.domAt d).activeJob = none → (t.domAt d).state = .idle ∧ (t.seqAt d).run = none) ∧
      (s.isRoot d = false → (t.domAt d).state = .rolled ∧ (t.seqAt d).run = (s.seqAt d).run.map fun r => { r with undo := [] }) ∧
      s.keeps t [.gln, .seqs, .coll, .ledger, .ckpt, .cores, .kol, .mbx, .ports, .free, .sp]) ∧
  (∀ (c : RxCell) (h : CellHdr) (pay : Bytes) (s : State), s.received c h pay → s.buffered c.port = false →
    let u := s.afterRx c
    let d := payByte pay 6
    let y := u.domAt d
    let l := BitVec.ofNat 16 (payNum pay 4 2) :: y.rolledFrom.erase (BitVec.ofNat 16 (payNum pay 4 2))
    let ended (t : State) : Prop := (t.domAt d).state = .idle ∧ (t.seqAt d).run = none ∧ (∀ k, k ≠ d → t.seqAt k = u.seqAt k) ∧
      u.keeps t [.gln, .seqs, .coll, .kol, .mbx, .ports, .free]
    h.type = 0x0C → u.carries c.port = true → u.chanDom c.port = none → h.seq = (u.portAt c.port).mrxSeq →
    payNum pay 2 2 = u.coll.logicalId.toNat → d < u.cfg.nSeq → u.ofEpoch d pay = true →
    (payByte pay 0 = 2 → u.isRoot d = true →
      (l.length < y.participants ∨ y.state ≠ .rolled → ∃ t, exec (.rolled c) s = .next t ∧ t.domAt d = { y with rolledFrom := l } ∧
        u.keeps t [.ports, .coll] ∧ t.coll.tx = u.coll.tx) ∧
      (y.participants ≤ l.length → y.state = .rolled → ∃ t, exec (.rolled c) s = .next t ∧ ended t)) ∧
    (payByte pay 0 = 3 → y.state = .rolled → u.aon.power.serves = true → ∃ t, exec (.rollbackDone c) s = .next t ∧ ended t)) ∧
  (∀ (d : Nat) (s : State), ((s.domAt d).state = .aborting ∨ (s.domAt d).state = .rolled) → s.aon.power.serves = true →
    let u := s.until ((s.domAt d).abortTime + s.barrierWd d)
    (s.quiet = true → s.clk.dividers = true → u.clk.rackTime = max s.clk.rackTime ((s.domAt d).abortTime + s.barrierWd d)) ∧
    ((u.domAt d).state = .aborting ∨ (u.domAt d).state = .rolled → u.aon.power.serves = true → u.memWf = true → u.shaped = true →
      ∃ t, exec (.rollbackWatchdog d) s = .next t ∧ t.aon.power = .halted ∧ t.aon.fatal = u.aon.fatal ||| 0x20 ∧ t.aon.alarmPulled = true ∧
        (t.domAt d).state = .idle ∧ (t.domAt d).reason = 0x28 ∧ (t.domAt d).remote = false ∧ (∀ q ∈ t.seqs, q.runq = []) ∧
        ((u.domAt d).state = .rolled → t.sp = u.sp ∧ t.ledger = u.ledger ∧ t.ckpt = u.ckpt) ∧
        ((u.domAt d).state = .aborting → (t.seqAt d).flags = 0 ∧ (t.seqAt d).tallies = List.replicate 32 0 ∧ (t.seqAt d).preds = 0 ∧
          (∀ x ∈ t.ckpt, inLedger (u.wordsOf d) x.1 = false) ∧
          ∀ i h c, u.ckpt = [(i, h, c)] → inLedger (u.wordsOf d) i = true → (t.entry i).head = h % 2 ^ 23 ∧ (t.entry i).cursor = c % 2 ^ 23)))

/-! ## Synchronisation (03 R89; 16 R413-R415) -/

/-- A SYNC in sequence on a port of class P, B or K: a newer one whose target lies ahead is accepted and sent on by every trained port of those
classes, a newer one that comes too late counts in SYNC_LATE, an older one changes nothing. At the target edge rack time is 0, running epochs
abort with RESYNC and no release is queued. -/
def Obligations.SynchronisationRestartsRackTime : Prop :=
  (∀ (c : RxCell) (h : CellHdr) (pay : Bytes) (s : State), s.received c h pay →
    let u := s.afterRx c
    let num := BitVec.ofNat 16 (payNum pay 8 2)
    let newer := (num - u.coll.syncNum).toNat
    let target := (payNum pay 16 8 : Int) + (u.portAt c.port).clockOffset
    h.type = 0x0C → u.carries c.port = true → u.chanDom c.port = none → h.seq = (u.portAt c.port).mrxSeq →
    u.cfg.portClass c.port ≠ 4 →
    (payByte pay 0 = 1 → ∃ t, exec (.syncMessage c) s = .next t ∧ u.keeps t [.ports, .coll, .gln] ∧ (t.portAt c.port).mrxSeq = h.seq + 1 ∧
      (0 < newer → newer < 2 ^ 15 → 4 * u.clk.localTime < target → t.coll.syncNum = num ∧ t.coll.syncSeen = num ∧
        t.coll.syncTarget = some target.toNat ∧ t.coll.syncLate = u.coll.syncLate ∧
        ∀ k, k < u.cfg.nPort → (t.portAt k).mtxSeq =
          if u.carries k = true ∧ u.cfg.portClass k ≠ 4 then (u.portAt k).mtxSeq + 1 else (u.portAt k).mtxSeq) ∧
      (0 < newer → newer < 2 ^ 15 → target ≤ 4 * u.clk.localTime → t.coll = { u.coll with
        syncLate := sat32 u.coll.syncLate, syncSeen := if (num - u.coll.syncSeen).toNat < 2 ^ 15 then num else u.coll.syncSeen }) ∧
      (newer = 0 ∨ 2 ^ 15 ≤ newer → t.coll = u.coll)) ∧
    (payByte pay 0 = 0 ∨ 3 < payByte pay 0 →
      exec (.syncMessage c) s = .next (u.onPort c.port fun q => { q with mrxSeq := q.mrxSeq + 1, ackDue := true }))) ∧
  (∀ (k : Nat) (s : State), s.coll.syncTarget = some k → s.clk.dividers = true →
    let u := s.untilLocal (k / 4)
    (s.quiet = true → u.clk.localTime = max s.clk.localTime (k / 4)) ∧
    (u.shaped = true → ∃ t, exec .rackSyncEdge s = .next t ∧
      t.clk = { u.clk with rackTime := 0, anchor := u.clk.localTime, rackSynced := true } ∧ t.coll.syncTarget = none ∧
      (∀ d, (u.domAt d).state.live = true → t.aborts d 0x27) ∧ (∀ q ∈ t.seqs, q.runq.any RunEntry.isRelease = false) ∧
      (∀ d, (u.domAt d).state = .idle → (t.domAt d).state = .idle) ∧
      u.keeps t [.clk, .gln, .coup, .coll, .ports, .seqs, .kol, .mbx, .cores, .agenda]))

/-! ## Maintenance traffic and federation bundles (05 R146; 07 R186; 15 R377) -/

/-- Maintenance cells are taken in sequence: one out of sequence only brings a negative acknowledgement. A COUNTER cell that authenticates
sets the expected counter of the domain's key, and one that does not is only acknowledged (what authenticates it is the model's free function
Config.counterTag, notes/assumptions/83); an acknowledgement is cumulative and a negative one resends; acknowledgements are sent when due; a
timeout resends the window. A slave collects the bundle cells of federation slots: a whole bundle follows those of the sequencer's running
program, or announces an epoch's release. -/
def Obligations.MaintenanceCellsComeInSequence : Prop :=
  (∀ (c : RxCell) (h : CellHdr) (pay : Bytes) (s : State), s.received c h pay → s.buffered c.port = false →
    let u := s.afterRx c
    let q := u.portAt c.port
    let acks (t : State) : Prop := (∀ k, k ≠ c.port → t.portAt k = u.portAt k) ∧ u.keeps t [.ports, .coll] ∧ ∃ x : TxCell,
      t.coll = { u.coll with tx := u.coll.tx ++ [x] } ∧ x.port = c.port ∧ x.hdr.type = 0x0D ∧ payByte x.payload 2 = 1 ∧
      payNum x.payload 0 2 = (q.mrxSeq - 1).toNat ∧ t.portAt c.port = { q with ackDue := false }
    (u.chanDom c.port = none →
      (u.carries c.port = true → h.seq ≠ q.mrxSeq →
        (h.type = 0x0E → ∃ t, exec (.counter c) s = .next t ∧ acks t) ∧
        (h.type = 0x0C → payByte pay 0 = 2 → ∃ t, exec (.rolled c) s = .next t ∧ acks t) ∧
        (h.type = 0x0C → payByte pay 0 = 3 → ∃ t, exec (.rollbackDone c) s = .next t ∧ acks t) ∧
        (h.type = 0x0C → payByte pay 0 ≠ 2 → payByte pay 0 ≠ 3 → ∃ t, exec (.syncMessage c) s = .next t ∧ acks t)) ∧
      (u.carries c.port = true → h.seq = q.mrxSeq → h.type = 0x0E →
        let n := payNum pay 0 8
        let genuine (d : Nat) : Prop := payNum pay 8 16 = (Config.counterTag (u.partAt d).key
          (groupInfo q.neighLogical.toNat q.neighPort.toNat (partKeyGen (u.wordsOf d)) n)).toNat
        let taken : Port := { q with mrxSeq := q.mrxSeq + 1, ackDue := true }
        ∃ t, exec (.counter c) s = .next t ∧ u.keeps t [.ports, .coll] ∧ (∀ k, k ≠ c.port → t.portAt k = u.portAt k) ∧ t.coll.tx = u.coll.tx ∧
          (∀ d, u.protectedDom c.port = some d → genuine d → t.portAt c.port = { taken with rxCtr := q.rxCtr.set d (BitVec.ofNat 64 n) } ∧
            t.domAt d = { u.domAt d with counterWait := (u.domAt d).counterWait.erase c.port,
                                         counterGot := (u.domAt d).counterGot ++ [c.port] }) ∧
          ((∀ d, u.protectedDom c.port = some d → ¬genuine d) → t.portAt c.port = taken ∧ t.coll = u.coll)) ∧
      (u.carries c.port = true → h.type = 0x0D →
        let left := q.unacked.filter fun x => decide (2 ^ 15 ≤ (BitVec.ofNat 16 (payNum pay 0 2) - x.1).toNat)
        ∃ t, exec (.maintAck c) s = .next t ∧ u.keeps t [.ports, .coll] ∧ (t.portAt c.port).unacked = left ∧
          (∀ k, k ≠ c.port → t.portAt k = u.portAt k) ∧
          (payByte pay 2 ≠ 1 → t.portAt c.port = { q with unacked := left } ∧
            t.coll.tx.length = u.coll.tx.length + ((left.take 32).drop (32 - (q.unacked.length - left.length))).length) ∧
          (payByte pay 2 = 1 → t.coll.tx.length =
            u.coll.tx.length + ((left.take 32).drop (32 - (q.unacked.length - left.length))).length + (left.take 32).length)) ∧
      (h.type = 5 → u.slave = false ∨ u.fedSlot c.port c.slot = false →
        exec (.bundle c) s = .next (u.onPort c.port fun q => { q with missing := sat16 q.missing }))) ∧
    (h.type = 5 → u.slave = true → u.fedSlot c.port c.slot = true → let v := u.avail c.port c.slot
      (u.fedSeq h = none → exec (.bundle c) s = .next v) ∧
      (∀ d, u.fedSeq h = some d → d < v.seqs.length →
        let bytes := ((v.fedIn.find? fun x => x.1 == d).map (·.2)).getD [] ++ pay
        let len := (Hdr.ofNat (leNat (bytes.take 4))).len
        let rest := v.fedIn.filter fun x => x.1 != d
        let x := v.seqAt d
        ∃ t, exec (.bundle c) s = .next t ∧ v.keeps t [.fedIn, .seqs] ∧ (∀ k, k ≠ d → t.seqAt k = v.seqAt k) ∧
          (bytes.length < len → t.fedIn = rest ++ [(d, bytes)] ∧ t.seqs = v.seqs) ∧
          (len ≤ bytes.length → t.fedIn = rest ∧
            (x.run.isSome = true → t.seqAt d = { x with fed := x.fed ++ bytes.take len }) ∧
            (x.run = none → x.runq = [] → ∀ start, fedStart v.cfg.nSlice (if len ≤ 224 then c.slot else c.slot - 8)
                (!(Cmd.ofBytes 0 0 (bytes.take len)).ledgerWaits.isEmpty) = some start →
              t.seqAt d = { x with fed := bytes.take len, runq := [.release start h.epoch none 0 0 0] }))))) ∧
  (∀ (p : Nat) (s : State), s.shaped = true → p < s.cfg.nPort → s.carries p = true →
    let q := s.portAt p
    (q.ackDue = true → ∃ t, exec (.maintAckDue p) s = .next t ∧ t.portAt p = { q with ackDue := false } ∧ s.keeps t [.ports, .coll] ∧
      ∃ x : TxCell, t.coll = { s.coll with tx := s.coll.tx ++ [x] } ∧ x.port = p ∧ x.hdr.type = 0x0D ∧ payByte x.payload 2 = 0 ∧
        payNum x.payload 0 2 = (q.mrxSeq - 1).toNat) ∧
    (q.unacked ≠ [] → ∃ t, exec (.maintReplayTimeout p) s = .next t ∧ s.keeps t [.ports, .coll] ∧ (∀ k, k ≠ p → t.portAt k = s.portAt k) ∧
      (∃ n, t.portAt p = { q with replays := n }) ∧ ∃ l : List TxCell, t.coll = { s.coll with tx := s.coll.tx ++ l } ∧
        l.map (fun x => (x.port, x.hdr.seq)) = (q.unacked.take 32).map fun x => (p, x.1)))

/-! ## Patrol and thermal sensors (17 R421-R423, R431, R434) -/

/-- PATROL_READ reads a memory at most once in 64 CK_V cycles and moves the memory's patrol address on; a corrected word counts; an
uncorrectable word counts once in its cycle: one of a free ledger entry is rewritten as zero with the warning PATROL_ZEROED, one of the epoch
memories 5 and 6 is the fatal alarm SRAM_UE. A reading at THERM_WARN_C warns once until it falls below; one at THERM_TRIP_C is the fatal alarm
THERMAL, and the block halts when no epoch is left. -/
def Obligations.PatrolAndSensorsRaiseAlarms : Prop :=
  (∀ (m : BitVec 8) (s : State), s.clk.dividers = true → 1 ≤ m.toNat → m.toNat ≤ 10 →
    let k := m.toNat
    let a := s.gln.patrolNext k
    let u := s.untilLocal (s.gln.patrolDue k)
    let loc : SramLoc := { mem := m, inst := 0, word := BitVec.ofNat 40 a }
    let moved (t : State) : Prop := t.gln.patrolNext k = (if a + 1 = patrolWords k then 0 else a + 1) ∧
      t.gln.patrolDue k = u.clk.localTime + 64 ∧
      ∀ j, j ≠ k → t.gln.patrolNext j = u.gln.patrolNext j ∧ t.gln.patrolDue j = u.gln.patrolDue j
    let only (t : State) : Prop := t = { u with gln := { u.gln with patrolAddr := t.gln.patrolAddr, patrolAt := t.gln.patrolAt } }
    let seen := u.gln.found.1 = u.clk.localTime ∧ loc ∈ u.gln.found.2
    (s.quiet = true → u.clk.localTime = max s.clk.localTime (s.gln.patrolDue k)) ∧
    (∃ t, exec (.patrolRead m .clean) s = .next t ∧ moved t ∧ only t) ∧
    (∃ t, exec (.patrolRead m .corrected) s = .next t ∧ moved t ∧ u.keeps t [.gln] ∧
      lookPair t.gln.ceCount k = lookPair u.gln.ceCount k + 1 ∧ (∀ j, j ≠ k → lookPair t.gln.ceCount j = lookPair u.gln.ceCount j)) ∧
    (seen → ∃ t, exec (.patrolRead m .uncorrectable) s = .next t ∧ moved t ∧ only t) ∧
    (¬seen → k = 5 ∨ k = 6 → u.aon.power.serves = true → ∃ t, exec (.patrolRead m .uncorrectable) s = .next t ∧ t.aon.power = .halted ∧
      t.aon.fatal = u.aon.fatal ||| 4 ∧ t.aon.alarmPulled = true) ∧
    (¬seen → k = 3 → a < 524288 → (u.entry (a / 4)).kind = 0 → u.memWf = true →
      ∃ t, exec (.patrolRead m .uncorrectable) s = .next t ∧ moved t ∧ t.gln.warn.getLsbD 2 = true ∧
      (∀ b, t.ledger.read b = if 8 * a ≤ b ∧ b < 8 * a + 8 then 0 else u.ledger.read b) ∧ u.keeps t [.gln, .ledger])) ∧
  (∀ (i : BitVec 4) (v : BitVec 8) (s : State), s.clk.dividers = true →
    let warnAt := field s.gln.thermLimits 0 8
    let tripAt := field s.gln.thermLimits 8 8
    (∃ t, exec (.thermWarn i v) s = .next t ∧ s.keeps t [.gln] ∧
      (∀ j, j < 16 → t.gln.thermAbove.getLsbD j = if j = i.toNat then decide (warnAt ≤ v.toNat) else s.gln.thermAbove.getLsbD j) ∧
      (warnAt ≤ v.toNat → s.gln.thermAbove.getLsbD i.toNat = false → t.gln.warn.getLsbD 3 = true) ∧
      (v.toNat < warnAt ∨ s.gln.thermAbove.getLsbD i.toNat = true → t.gln.warn = s.gln.warn ∧ t.gln.events = s.gln.events)) ∧
    (v.toNat < tripAt → ∃ t, exec (.thermal i v) s = .next t ∧ s.keeps t [.gln]) ∧
    (tripAt ≤ v.toNat → ∃ t, exec (.thermal i v) s = .next t ∧ t.aon.fatal.getLsbD 7 = true ∧ t.aon.alarmPulled = true ∧
      (s.aon.power.serves = true → s.epochLeft = false → t.aon.power = .halted) ∧
      (s.aon.power.serves = true → s.epochLeft = true → t.aon.power = s.aon.power ∧ t.aon.boundaryHalt = s.aon.boundaryHalt ||| 0x80) ∧
      s.keeps t [.gln, .aon, .seqs, .kol, .mbx]))

/-! ## Numbers and the cell code (08 R215-R226; 15 R357, R358) -/

/-- Every element of every format is held as written: decoding and encoding give its bits back, NaN payloads and the sign of a zero
included (bit 7 of a UE4M3 scale reads as 0), and a source that the target holds exactly converts to it without change and without an
event, in every mode. A NaN of E4M3 and E5M2 is the one exception of conversion. -/
def Obligations.ElementsKeepTheirEncoding : Prop :=
  ∀ (f : Fmt) (x : Nat), x < 2 ^ f.bits → (f = .ue4m3 → x < 128) →
    encodeElem f (decodeElem f x) = x ∧
    (f.isScale = false → (decodeElem f x).isNan = false →
      ∀ rnd strict same, encodeElem f (convert f rnd strict same (decodeElem f x)).1 = x ∧
        (convert f rnd strict same (decodeElem f x)).2 = {})

/-- Rounding chooses among the two neighbours lo = n and hi = n + 1, in units of 2^u, of the exact magnitude p/q: the nearer one and on a
tie the even one; lo; or hi when d plus the draw reaches 2^24. For a float, n fills the significand unless u is the spacing of subnormals,
and above the largest finite value u stays that of the highest binade. A choice that the target holds is the result, with the source's
sign. -/
def Obligations.RoundingChoosesANeighbour : Prop :=
  ∀ (f : Fmt) (rnd : Rnd) (strict same neg : Bool) (p q : Nat), 0 < p → 0 < q → f.isScale = false → f ≠ .int1 →
    let m := f.params.1
    let low : Int := if f.isInt then 0 else 1 - f.params.2.1 - m
    let high : Int := if f.isInt then 0 else f.params.2.2 - m
    ∃ (n : Nat) (u : Int), low ≤ u ∧ u ≤ high ∧
      (let a := (shiftFrac p q u).1
       let b := (shiftFrac p q u).2
       let d := 2 ^ 24 * (a - n * b) / b
       let k := if a = n * b then n else match rnd with
         | .rne => if 2 * (a - n * b) < b then n else if b < 2 * (a - n * b) then n + 1 else if n % 2 = 0 then n else n + 1
         | .rtz => n
         | .sr r => if 2 ^ 24 ≤ d + r then n + 1 else n
       n * b ≤ a ∧ a < (n + 1) * b ∧ (f.isInt = false → (u = low ∨ 2 ^ m ≤ n) ∧ (u = high ∨ n < 2 ^ (m + 1))) ∧
       (f.isInt = false → u < high ∨ k ≤ f.maxUnits → (convert f rnd strict same (.fin neg p q)).1 = unitsVal neg k u) ∧
       (f.isInt = false → u = high → f.maxUnits < k → (convert f rnd strict same (.fin neg p q)).2.sat = true ∧
         (convert f rnd strict same (.fin neg p q)).1 = if rnd = .rtz ∨ f.saturates = true ∨ f = .e5m2 then f.maxVal neg else .inf neg) ∧
       (f.isInt = true → let i : Int := if neg then -(k : Int) else k
         (convert f rnd strict same (.fin neg p q)).1 = Val.ofInt (max f.intRange.1 (min f.intRange.2 i)) ∧
         ((convert f rnd strict same (.fin neg p q)).2.sat = true ↔ i < f.intRange.1 ∨ f.intRange.2 < i)))

/-- A sealed cell holds its 236 bytes and is a codeword, so that it opens as itself with nothing corrected; and what a received cell opens
to is always a codeword within 10 bytes of it, the count of which is reported. -/
def Obligations.CellsAreSealedAndOpened : Prop :=
  (∀ d : Bytes, d.length = 236 → (sealCell d).length = 256 ∧ (sealCell d).take 236 = d ∧ cellValid (natsOf (sealCell d)) = true ∧
    openCell (sealCell d) = some (sealCell d, 0)) ∧
  (∀ (c b : Bytes) (n : Nat), c.length = 256 → openCell c = some (b, n) → b.length = 256 ∧ cellValid (natsOf b) = true ∧ n ≤ 10 ∧
    n = ((c.zip b).filter fun x => x.1 != x.2).length)
end

