-- ==== Sys2Proof/Laws/Mem.lean ====
section
/-! SUPPORT. Memories: every operation keeps the canonical form; what a read gives after a write; numbers and their bytes. -/

namespace Sys2Proof

/-! ## The canonical form -/

/-- Every listed address lies above k. -/
def Mem.above (m : Mem) (k : Nat) : Prop := ∀ c ∈ m, k < c.1

theorem Mem.wf_cons {k : Nat} {v : Byte} {m : Mem} :
    Mem.wf ((k, v) :: m) = true ↔ v ≠ Mem.unlisted ∧ Mem.above m k ∧ m.wf = true := by
  simp [Mem.wf, Mem.above, and_assoc]

theorem Mem.read_above {m : Mem} {k a : Nat} (h : m.above k) (ha : a ≤ k) : m.read a = Mem.unlisted := by
  induction m with
  | nil => rfl
  | cons c m ih =>
    obtain ⟨x, v⟩ := c
    have hx : k < x := h (x, v) (by simp)
    have : x ≠ a := by omega
    simp only [Mem.read, this, if_false]
    exact ih fun c hc => h c (List.mem_cons_of_mem _ hc)

theorem Mem.above_mono {m : Mem} {j k : Nat} (h : m.above k) (hj : j ≤ k) : m.above j := fun c hc => Nat.lt_of_le_of_lt hj (h c hc)

theorem Mem.above_write {m : Mem} {k a : Nat} {b : Byte} (h : m.above k) (ha : k < a) : (m.write a b).above k := by
  induction m with
  | nil => intro c hc; unfold Mem.write at hc; split at hc <;> simp_all
  | cons c m ih =>
    obtain ⟨x, v⟩ := c
    have hx : k < x := h (x, v) (by simp)
    have hm : Mem.above m k := fun c hc => h c (List.mem_cons_of_mem _ hc)
    intro c hc
    unfold Mem.write at hc
    split at hc
    · split at hc
      · exact h c hc
      · rcases List.mem_cons.1 hc with rfl | hc
        · exact ha
        · exact h c hc
    · split at hc
      · split at hc
        · exact hm c hc
        · rcases List.mem_cons.1 hc with rfl | hc
          · exact ha
          · exact hm c hc
      · rcases List.mem_cons.1 hc with rfl | hc
        · exact hx
        · exact ih hm c hc

/-- Writing a byte keeps the canonical form. -/
theorem Mem.wf_write {m : Mem} (h : m.wf = true) (a : Nat) (b : Byte) : (m.write a b).wf = true := by
  induction m with
  | nil =>
    unfold Mem.write; split
    · rfl
    · rename_i hb; exact Mem.wf_cons.2 ⟨hb, fun _ hc => by simp at hc, rfl⟩
  | cons c m ih =>
    obtain ⟨x, v⟩ := c
    obtain ⟨hv, hm, hw⟩ := Mem.wf_cons.1 h
    unfold Mem.write
    split
    · rename_i hlt
      split
      · exact h
      · rename_i hb
        refine Mem.wf_cons.2 ⟨hb, ?_, h⟩
        intro c hc
        rcases List.mem_cons.1 hc with rfl | hc
        · exact hlt
        · exact Nat.lt_trans hlt (hm c hc)
    · split
      · rename_i heq
        subst heq
        split
        · exact hw
        · rename_i hb; exact Mem.wf_cons.2 ⟨hb, hm, hw⟩
      · rename_i h1 h2
        exact Mem.wf_cons.2 ⟨hv, Mem.above_write hm (by omega), ih hw⟩

/-- Writing bytes keeps the canonical form. -/
theorem Mem.wf_writeBytes (bs : Bytes) : ∀ {m : Mem}, m.wf = true → ∀ a, (m.writeBytes a bs).wf = true := by
  induction bs with
  | nil => intro m h a; exact h
  | cons b bs ih => intro m h a; exact ih (Mem.wf_write h a b) (a + 1)

/-- Writing a word keeps the canonical form. -/
theorem Mem.wf_write64 {m : Mem} (h : m.wf = true) (a : Nat) (w : Word) : (m.write64 a w).wf = true := Mem.wf_writeBytes _ h a

/-- A scrub keeps the canonical form. -/
theorem Mem.wf_clear {m : Mem} (h : m.wf = true) (a n : Nat) : (m.clear a n).wf = true := by
  induction m with
  | nil => rfl
  | cons c m ih =>
    obtain ⟨x, v⟩ := c
    obtain ⟨hv, hm, hw⟩ := Mem.wf_cons.1 h
    unfold Mem.clear at ih ⊢
    rw [List.filter_cons]
    split
    · exact Mem.wf_cons.2 ⟨hv, fun c hc => hm c (List.mem_of_mem_filter hc), ih hw⟩
    · exact ih hw

/-- Overlaying other pairs keeps the canonical form. -/
theorem Mem.wf_overlay (cs : List Host.Cell) : ∀ {m : Mem}, m.wf = true → (m.overlay cs).wf = true := by
  induction cs with
  | nil => intro m h; exact h
  | cons c cs ih => intro m h; exact ih (Mem.wf_write h c.1 c.2)

/-! ## Reading -/

/-- A byte after a write: the byte written at its address, as before elsewhere. -/
theorem Mem.read_write {m : Mem} (h : m.wf = true) (a : Nat) (b : Byte) (c : Nat) :
    (m.write a b).read c = if c = a then b else m.read c := by
  induction m with
  | nil =>
    unfold Mem.write
    by_cases hb : b = Mem.unlisted
    · simp only [hb, if_true, Mem.read]; split <;> rfl
    · simp only [hb, if_false, Mem.read]
      by_cases hc : c = a
      · simp [hc]
      · simp [hc, Ne.symm hc]
  | cons d m ih =>
    obtain ⟨x, v⟩ := d
    obtain ⟨hv, hm, hw⟩ := Mem.wf_cons.1 h
    unfold Mem.write
    by_cases h1 : a < x
    · simp only [h1, if_true]
      have hab : Mem.above ((x, v) :: m) a := by
        intro c hc
        rcases List.mem_cons.1 hc with rfl | hc
        · exact h1
        · exact Nat.lt_trans h1 (hm c hc)
      by_cases hb : b = Mem.unlisted
      · simp only [hb, if_true]
        by_cases hc : c = a
        · simp only [hc, if_true]; exact Mem.read_above hab (Nat.le_refl a)
        · simp [hc]
      · simp only [hb, if_false]
        by_cases hc : c = a
        · simp [Mem.read, hc]
        · simp [Mem.read, hc, Ne.symm hc]
    · simp only [h1, if_false]
      by_cases h2 : a = x
      · subst h2
        simp only [if_true]
        by_cases hb : b = Mem.unlisted
        · simp only [hb, if_true]
          by_cases hc : c = a
          · simp only [hc, if_true]; exact Mem.read_above hm (Nat.le_refl a)
          · simp [Mem.read, hc, Ne.symm hc]
        · simp only [hb, if_false]
          by_cases hc : c = a
          · simp [Mem.read, hc]
          · simp [Mem.read, hc, Ne.symm hc]
      · simp only [h2, if_false, Mem.read, ih hw]
        by_cases hc : c = a
        · simp [hc, Ne.symm h2]
        · simp [hc]

/-- A byte outside the bytes written reads as before. -/
theorem Mem.read_writeBytes_of_outside (bs : Bytes) : ∀ {m : Mem}, m.wf = true → ∀ a c, c < a ∨ a + bs.length ≤ c →
    (m.writeBytes a bs).read c = m.read c := by
  induction bs with
  | nil => intro m _ a c _; rfl
  | cons b bs ih =>
    intro m h a c hc
    simp only [List.length_cons] at hc
    have hn : c ≠ a := by omega
    have ho : c < a + 1 ∨ a + 1 + bs.length ≤ c := by omega
    show ((m.write a b).writeBytes (a + 1) bs).read c = m.read c
    rw [ih (Mem.wf_write h a b) (a + 1) c ho, Mem.read_write h a b c, if_neg hn]

/-- A byte within the bytes written. -/
theorem Mem.read_writeBytes_of_inside (bs : Bytes) : ∀ {m : Mem}, m.wf = true → ∀ a i, i < bs.length →
    (m.writeBytes a bs).read (a + i) = bs.getD i 0 := by
  induction bs with
  | nil => intro m _ a i hi; simp at hi
  | cons b bs ih =>
    intro m h a i hi
    show ((m.write a b).writeBytes (a + 1) bs).read (a + i) = _
    cases i with
    | zero =>
      rw [Mem.read_writeBytes_of_outside bs (Mem.wf_write h a b) (a + 1) (a + 0) (by omega), Mem.read_write h a b]
      simp
    | succ i =>
      have := ih (Mem.wf_write h a b) (a + 1) i (by simpa using hi)
      rw [show a + (i + 1) = a + 1 + i by omega, this]
      simp

/-- A scrubbed range reads zero; every other byte reads as before. -/
theorem Mem.read_clear (m : Mem) (a n c : Nat) : (m.clear a n).read c = if a ≤ c ∧ c < a + n then Mem.unlisted else m.read c := by
  induction m with
  | nil => simp [Mem.clear, Mem.read]
  | cons d m ih =>
    obtain ⟨x, v⟩ := d
    unfold Mem.clear at ih ⊢
    rw [List.filter_cons]
    by_cases hx : a ≤ x ∧ x < a + n
    · simp only [hx, and_self, decide_true, Bool.not_true, Bool.false_eq_true, if_false, ih, Mem.read]
      split
      · rfl
      · rename_i hc
        have : x ≠ c := by rintro rfl; exact hc hx
        simp [this]
    · simp only [hx, decide_false, Bool.not_false, if_true, Mem.read, ih]
      by_cases hc : x = c
      · subst hc; simp [hx]
      · simp [hc]

/-! ## Numbers as bytes -/

@[simp] theorem leBytes_length (n v : Nat) : (leBytes n v).length = n := by
  induction n generalizing v with
  | zero => rfl
  | succ n ih => simp [leBytes, ih]

/-- The number of a number's bytes is the number, within its bytes. -/
theorem leNat_leBytes (n v : Nat) : leNat (leBytes n v) = v % 256 ^ n := by
  induction n generalizing v with
  | zero => simp [leBytes, leNat, Nat.mod_one]
  | succ n ih =>
    simp only [leBytes, leNat, ih, BitVec.toNat_ofNat]
    rw [show (256 : Nat) ^ (n + 1) = 256 * 256 ^ n by rw [Nat.pow_succ, Nat.mul_comm], Nat.mod_mul]

/-- The bytes written read back as written. -/
theorem Mem.readBytes_writeBytes {m : Mem} (h : m.wf = true) (a : Nat) (bs : Bytes) : (m.writeBytes a bs).readBytes a bs.length = bs := by
  apply List.ext_getElem
  · simp [Mem.readBytes]
  · intro i h1 h2
    simp only [Mem.readBytes, List.getElem_map, List.getElem_range]
    rw [Mem.read_writeBytes_of_inside bs h a i h2, List.getD_eq_getElem?_getD, List.getElem?_eq_getElem h2]
    rfl

/-- Bytes read outside the bytes written are as before. -/
theorem Mem.readBytes_writeBytes_of_outside {m : Mem} (h : m.wf = true) (a : Nat) (bs : Bytes) (c n : Nat)
    (ho : c + n ≤ a ∨ a + bs.length ≤ c) : (m.writeBytes a bs).readBytes c n = m.readBytes c n := by
  apply List.map_congr_left
  intro i hi
  have := List.mem_range.1 hi
  exact Mem.read_writeBytes_of_outside bs h a (c + i) (by omega)

/-- A word written reads back. -/
theorem Mem.read64_write64 {m : Mem} (h : m.wf = true) (a : Nat) (w : Word) : (m.write64 a w).read64 a = w := by
  have e : (m.write64 a w).readBytes a 8 = leBytes 8 w.toNat := by
    have := Mem.readBytes_writeBytes h a (leBytes 8 w.toNat)
    rwa [leBytes_length] at this
  unfold Mem.read64
  rw [e, leNat_leBytes]
  have hw : w.toNat < 256 ^ 8 := w.isLt
  rw [Nat.mod_eq_of_lt hw]
  simp

/-- A word read outside a word written is as before. -/
theorem Mem.read64_write64_of_outside {m : Mem} (h : m.wf = true) (a c : Nat) (w : Word) (ho : c + 8 ≤ a ∨ a + 8 ≤ c) :
    (m.write64 a w).read64 c = m.read64 c := by
  unfold Mem.read64 Mem.write64
  rw [Mem.readBytes_writeBytes_of_outside h a _ c 8 (by simpa using ho)]

end Sys2Proof
end

