-- ==== Sys2Proof/Laws/State.lean ====
section
/-! SUPPORT. State: what each update of a part leaves of every field, and the relation that two states agree on all fields but some. -/

namespace Sys2Proof.Machine

variable (s : State)

/-! ## onAon -/

@[simp] theorem State.onAon_cfg (f : Aon → Aon) : (s.onAon f).cfg = s.cfg := rfl
@[simp] theorem State.onAon_aon (f : Aon → Aon) : (s.onAon f).aon = f s.aon := rfl
@[simp] theorem State.onAon_clk (f : Aon → Aon) : (s.onAon f).clk = s.clk := rfl
@[simp] theorem State.onAon_boot (f : Aon → Aon) : (s.onAon f).boot = s.boot := rfl
@[simp] theorem State.onAon_rp (f : Aon → Aon) : (s.onAon f).rp = s.rp := rfl
@[simp] theorem State.onAon_win (f : Aon → Aon) : (s.onAon f).win = s.win := rfl
@[simp] theorem State.onAon_mbx (f : Aon → Aon) : (s.onAon f).mbx = s.mbx := rfl
@[simp] theorem State.onAon_kol (f : Aon → Aon) : (s.onAon f).kol = s.kol := rfl
@[simp] theorem State.onAon_parts (f : Aon → Aon) : (s.onAon f).parts = s.parts := rfl
@[simp] theorem State.onAon_keyHigh (f : Aon → Aon) : (s.onAon f).keyHigh = s.keyHigh := rfl
@[simp] theorem State.onAon_cmdMem (f : Aon → Aon) : (s.onAon f).cmdMem = s.cmdMem := rfl
@[simp] theorem State.onAon_seqs (f : Aon → Aon) : (s.onAon f).seqs = s.seqs := rfl
@[simp] theorem State.onAon_cores (f : Aon → Aon) : (s.onAon f).cores = s.cores := rfl
@[simp] theorem State.onAon_tables (f : Aon → Aon) : (s.onAon f).tables = s.tables := rfl
@[simp] theorem State.onAon_ledger (f : Aon → Aon) : (s.onAon f).ledger = s.ledger := rfl
@[simp] theorem State.onAon_ckpt (f : Aon → Aon) : (s.onAon f).ckpt = s.ckpt := rfl
@[simp] theorem State.onAon_sp (f : Aon → Aon) : (s.onAon f).sp = s.sp := rfl
@[simp] theorem State.onAon_coup (f : Aon → Aon) : (s.onAon f).coup = s.coup := rfl
@[simp] theorem State.onAon_ports (f : Aon → Aon) : (s.onAon f).ports = s.ports := rfl
@[simp] theorem State.onAon_pairHeld (f : Aon → Aon) : (s.onAon f).pairHeld = s.pairHeld := rfl
@[simp] theorem State.onAon_coll (f : Aon → Aon) : (s.onAon f).coll = s.coll := rfl
@[simp] theorem State.onAon_fedIn (f : Aon → Aon) : (s.onAon f).fedIn = s.fedIn := rfl
@[simp] theorem State.onAon_fedOut (f : Aon → Aon) : (s.onAon f).fedOut = s.fedOut := rfl
@[simp] theorem State.onAon_agenda (f : Aon → Aon) : (s.onAon f).agenda = s.agenda := rfl
@[simp] theorem State.onAon_gln (f : Aon → Aon) : (s.onAon f).gln = s.gln := rfl
@[simp] theorem State.onAon_tap (f : Aon → Aon) : (s.onAon f).tap = s.tap := rfl
@[simp] theorem State.onAon_free (f : Aon → Aon) : (s.onAon f).free = s.free := rfl
@[simp] theorem State.onAon_pending (f : Aon → Aon) : (s.onAon f).pending = s.pending := rfl

/-! ## onBoot -/

@[simp] theorem State.onBoot_cfg (f : Boot → Boot) : (s.onBoot f).cfg = s.cfg := rfl
@[simp] theorem State.onBoot_aon (f : Boot → Boot) : (s.onBoot f).aon = s.aon := rfl
@[simp] theorem State.onBoot_clk (f : Boot → Boot) : (s.onBoot f).clk = s.clk := rfl
@[simp] theorem State.onBoot_boot (f : Boot → Boot) : (s.onBoot f).boot = f s.boot := rfl
@[simp] theorem State.onBoot_rp (f : Boot → Boot) : (s.onBoot f).rp = s.rp := rfl
@[simp] theorem State.onBoot_win (f : Boot → Boot) : (s.onBoot f).win = s.win := rfl
@[simp] theorem State.onBoot_mbx (f : Boot → Boot) : (s.onBoot f).mbx = s.mbx := rfl
@[simp] theorem State.onBoot_kol (f : Boot → Boot) : (s.onBoot f).kol = s.kol := rfl
@[simp] theorem State.onBoot_parts (f : Boot → Boot) : (s.onBoot f).parts = s.parts := rfl
@[simp] theorem State.onBoot_keyHigh (f : Boot → Boot) : (s.onBoot f).keyHigh = s.keyHigh := rfl
@[simp] theorem State.onBoot_cmdMem (f : Boot → Boot) : (s.onBoot f).cmdMem = s.cmdMem := rfl
@[simp] theorem State.onBoot_seqs (f : Boot → Boot) : (s.onBoot f).seqs = s.seqs := rfl
@[simp] theorem State.onBoot_cores (f : Boot → Boot) : (s.onBoot f).cores = s.cores := rfl
@[simp] theorem State.onBoot_tables (f : Boot → Boot) : (s.onBoot f).tables = s.tables := rfl
@[simp] theorem State.onBoot_ledger (f : Boot → Boot) : (s.onBoot f).ledger = s.ledger := rfl
@[simp] theorem State.onBoot_ckpt (f : Boot → Boot) : (s.onBoot f).ckpt = s.ckpt := rfl
@[simp] theorem State.onBoot_sp (f : Boot → Boot) : (s.onBoot f).sp = s.sp := rfl
@[simp] theorem State.onBoot_coup (f : Boot → Boot) : (s.onBoot f).coup = s.coup := rfl
@[simp] theorem State.onBoot_ports (f : Boot → Boot) : (s.onBoot f).ports = s.ports := rfl
@[simp] theorem State.onBoot_pairHeld (f : Boot → Boot) : (s.onBoot f).pairHeld = s.pairHeld := rfl
@[simp] theorem State.onBoot_coll (f : Boot → Boot) : (s.onBoot f).coll = s.coll := rfl
@[simp] theorem State.onBoot_fedIn (f : Boot → Boot) : (s.onBoot f).fedIn = s.fedIn := rfl
@[simp] theorem State.onBoot_fedOut (f : Boot → Boot) : (s.onBoot f).fedOut = s.fedOut := rfl
@[simp] theorem State.onBoot_agenda (f : Boot → Boot) : (s.onBoot f).agenda = s.agenda := rfl
@[simp] theorem State.onBoot_gln (f : Boot → Boot) : (s.onBoot f).gln = s.gln := rfl
@[simp] theorem State.onBoot_tap (f : Boot → Boot) : (s.onBoot f).tap = s.tap := rfl
@[simp] theorem State.onBoot_free (f : Boot → Boot) : (s.onBoot f).free = s.free := rfl
@[simp] theorem State.onBoot_pending (f : Boot → Boot) : (s.onBoot f).pending = s.pending := rfl

/-! ## onWin -/

@[simp] theorem State.onWin_cfg (f : Windows → Windows) : (s.onWin f).cfg = s.cfg := rfl
@[simp] theorem State.onWin_aon (f : Windows → Windows) : (s.onWin f).aon = s.aon := rfl
@[simp] theorem State.onWin_clk (f : Windows → Windows) : (s.onWin f).clk = s.clk := rfl
@[simp] theorem State.onWin_boot (f : Windows → Windows) : (s.onWin f).boot = s.boot := rfl
@[simp] theorem State.onWin_rp (f : Windows → Windows) : (s.onWin f).rp = s.rp := rfl
@[simp] theorem State.onWin_win (f : Windows → Windows) : (s.onWin f).win = f s.win := rfl
@[simp] theorem State.onWin_mbx (f : Windows → Windows) : (s.onWin f).mbx = s.mbx := rfl
@[simp] theorem State.onWin_kol (f : Windows → Windows) : (s.onWin f).kol = s.kol := rfl
@[simp] theorem State.onWin_parts (f : Windows → Windows) : (s.onWin f).parts = s.parts := rfl
@[simp] theorem State.onWin_keyHigh (f : Windows → Windows) : (s.onWin f).keyHigh = s.keyHigh := rfl
@[simp] theorem State.onWin_cmdMem (f : Windows → Windows) : (s.onWin f).cmdMem = s.cmdMem := rfl
@[simp] theorem State.onWin_seqs (f : Windows → Windows) : (s.onWin f).seqs = s.seqs := rfl
@[simp] theorem State.onWin_cores (f : Windows → Windows) : (s.onWin f).cores = s.cores := rfl
@[simp] theorem State.onWin_tables (f : Windows → Windows) : (s.onWin f).tables = s.tables := rfl
@[simp] theorem State.onWin_ledger (f : Windows → Windows) : (s.onWin f).ledger = s.ledger := rfl
@[simp] theorem State.onWin_ckpt (f : Windows → Windows) : (s.onWin f).ckpt = s.ckpt := rfl
@[simp] theorem State.onWin_sp (f : Windows → Windows) : (s.onWin f).sp = s.sp := rfl
@[simp] theorem State.onWin_coup (f : Windows → Windows) : (s.onWin f).coup = s.coup := rfl
@[simp] theorem State.onWin_ports (f : Windows → Windows) : (s.onWin f).ports = s.ports := rfl
@[simp] theorem State.onWin_pairHeld (f : Windows → Windows) : (s.onWin f).pairHeld = s.pairHeld := rfl
@[simp] theorem State.onWin_coll (f : Windows → Windows) : (s.onWin f).coll = s.coll := rfl
@[simp] theorem State.onWin_fedIn (f : Windows → Windows) : (s.onWin f).fedIn = s.fedIn := rfl
@[simp] theorem State.onWin_fedOut (f : Windows → Windows) : (s.onWin f).fedOut = s.fedOut := rfl
@[simp] theorem State.onWin_agenda (f : Windows → Windows) : (s.onWin f).agenda = s.agenda := rfl
@[simp] theorem State.onWin_gln (f : Windows → Windows) : (s.onWin f).gln = s.gln := rfl
@[simp] theorem State.onWin_tap (f : Windows → Windows) : (s.onWin f).tap = s.tap := rfl
@[simp] theorem State.onWin_free (f : Windows → Windows) : (s.onWin f).free = s.free := rfl
@[simp] theorem State.onWin_pending (f : Windows → Windows) : (s.onWin f).pending = s.pending := rfl

/-! ## onKol -/

@[simp] theorem State.onKol_cfg (f : Kolate → Kolate) : (s.onKol f).cfg = s.cfg := rfl
@[simp] theorem State.onKol_aon (f : Kolate → Kolate) : (s.onKol f).aon = s.aon := rfl
@[simp] theorem State.onKol_clk (f : Kolate → Kolate) : (s.onKol f).clk = s.clk := rfl
@[simp] theorem State.onKol_boot (f : Kolate → Kolate) : (s.onKol f).boot = s.boot := rfl
@[simp] theorem State.onKol_rp (f : Kolate → Kolate) : (s.onKol f).rp = s.rp := rfl
@[simp] theorem State.onKol_win (f : Kolate → Kolate) : (s.onKol f).win = s.win := rfl
@[simp] theorem State.onKol_mbx (f : Kolate → Kolate) : (s.onKol f).mbx = s.mbx := rfl
@[simp] theorem State.onKol_kol (f : Kolate → Kolate) : (s.onKol f).kol = f s.kol := rfl
@[simp] theorem State.onKol_parts (f : Kolate → Kolate) : (s.onKol f).parts = s.parts := rfl
@[simp] theorem State.onKol_keyHigh (f : Kolate → Kolate) : (s.onKol f).keyHigh = s.keyHigh := rfl
@[simp] theorem State.onKol_cmdMem (f : Kolate → Kolate) : (s.onKol f).cmdMem = s.cmdMem := rfl
@[simp] theorem State.onKol_seqs (f : Kolate → Kolate) : (s.onKol f).seqs = s.seqs := rfl
@[simp] theorem State.onKol_cores (f : Kolate → Kolate) : (s.onKol f).cores = s.cores := rfl
@[simp] theorem State.onKol_tables (f : Kolate → Kolate) : (s.onKol f).tables = s.tables := rfl
@[simp] theorem State.onKol_ledger (f : Kolate → Kolate) : (s.onKol f).ledger = s.ledger := rfl
@[simp] theorem State.onKol_ckpt (f : Kolate → Kolate) : (s.onKol f).ckpt = s.ckpt := rfl
@[simp] theorem State.onKol_sp (f : Kolate → Kolate) : (s.onKol f).sp = s.sp := rfl
@[simp] theorem State.onKol_coup (f : Kolate → Kolate) : (s.onKol f).coup = s.coup := rfl
@[simp] theorem State.onKol_ports (f : Kolate → Kolate) : (s.onKol f).ports = s.ports := rfl
@[simp] theorem State.onKol_pairHeld (f : Kolate → Kolate) : (s.onKol f).pairHeld = s.pairHeld := rfl
@[simp] theorem State.onKol_coll (f : Kolate → Kolate) : (s.onKol f).coll = s.coll := rfl
@[simp] theorem State.onKol_fedIn (f : Kolate → Kolate) : (s.onKol f).fedIn = s.fedIn := rfl
@[simp] theorem State.onKol_fedOut (f : Kolate → Kolate) : (s.onKol f).fedOut = s.fedOut := rfl
@[simp] theorem State.onKol_agenda (f : Kolate → Kolate) : (s.onKol f).agenda = s.agenda := rfl
@[simp] theorem State.onKol_gln (f : Kolate → Kolate) : (s.onKol f).gln = s.gln := rfl
@[simp] theorem State.onKol_tap (f : Kolate → Kolate) : (s.onKol f).tap = s.tap := rfl
@[simp] theorem State.onKol_free (f : Kolate → Kolate) : (s.onKol f).free = s.free := rfl
@[simp] theorem State.onKol_pending (f : Kolate → Kolate) : (s.onKol f).pending = s.pending := rfl

/-! ## onGln -/

@[simp] theorem State.onGln_cfg (f : Gleaner → Gleaner) : (s.onGln f).cfg = s.cfg := rfl
@[simp] theorem State.onGln_aon (f : Gleaner → Gleaner) : (s.onGln f).aon = s.aon := rfl
@[simp] theorem State.onGln_clk (f : Gleaner → Gleaner) : (s.onGln f).clk = s.clk := rfl
@[simp] theorem State.onGln_boot (f : Gleaner → Gleaner) : (s.onGln f).boot = s.boot := rfl
@[simp] theorem State.onGln_rp (f : Gleaner → Gleaner) : (s.onGln f).rp = s.rp := rfl
@[simp] theorem State.onGln_win (f : Gleaner → Gleaner) : (s.onGln f).win = s.win := rfl
@[simp] theorem State.onGln_mbx (f : Gleaner → Gleaner) : (s.onGln f).mbx = s.mbx := rfl
@[simp] theorem State.onGln_kol (f : Gleaner → Gleaner) : (s.onGln f).kol = s.kol := rfl
@[simp] theorem State.onGln_parts (f : Gleaner → Gleaner) : (s.onGln f).parts = s.parts := rfl
@[simp] theorem State.onGln_keyHigh (f : Gleaner → Gleaner) : (s.onGln f).keyHigh = s.keyHigh := rfl
@[simp] theorem State.onGln_cmdMem (f : Gleaner → Gleaner) : (s.onGln f).cmdMem = s.cmdMem := rfl
@[simp] theorem State.onGln_seqs (f : Gleaner → Gleaner) : (s.onGln f).seqs = s.seqs := rfl
@[simp] theorem State.onGln_cores (f : Gleaner → Gleaner) : (s.onGln f).cores = s.cores := rfl
@[simp] theorem State.onGln_tables (f : Gleaner → Gleaner) : (s.onGln f).tables = s.tables := rfl
@[simp] theorem State.onGln_ledger (f : Gleaner → Gleaner) : (s.onGln f).ledger = s.ledger := rfl
@[simp] theorem State.onGln_ckpt (f : Gleaner → Gleaner) : (s.onGln f).ckpt = s.ckpt := rfl
@[simp] theorem State.onGln_sp (f : Gleaner → Gleaner) : (s.onGln f).sp = s.sp := rfl
@[simp] theorem State.onGln_coup (f : Gleaner → Gleaner) : (s.onGln f).coup = s.coup := rfl
@[simp] theorem State.onGln_ports (f : Gleaner → Gleaner) : (s.onGln f).ports = s.ports := rfl
@[simp] theorem State.onGln_pairHeld (f : Gleaner → Gleaner) : (s.onGln f).pairHeld = s.pairHeld := rfl
@[simp] theorem State.onGln_coll (f : Gleaner → Gleaner) : (s.onGln f).coll = s.coll := rfl
@[simp] theorem State.onGln_fedIn (f : Gleaner → Gleaner) : (s.onGln f).fedIn = s.fedIn := rfl
@[simp] theorem State.onGln_fedOut (f : Gleaner → Gleaner) : (s.onGln f).fedOut = s.fedOut := rfl
@[simp] theorem State.onGln_agenda (f : Gleaner → Gleaner) : (s.onGln f).agenda = s.agenda := rfl
@[simp] theorem State.onGln_gln (f : Gleaner → Gleaner) : (s.onGln f).gln = f s.gln := rfl
@[simp] theorem State.onGln_tap (f : Gleaner → Gleaner) : (s.onGln f).tap = s.tap := rfl
@[simp] theorem State.onGln_free (f : Gleaner → Gleaner) : (s.onGln f).free = s.free := rfl
@[simp] theorem State.onGln_pending (f : Gleaner → Gleaner) : (s.onGln f).pending = s.pending := rfl

/-! ## onCores -/

@[simp] theorem State.onCores_cfg (f : Cores → Cores) : (s.onCores f).cfg = s.cfg := rfl
@[simp] theorem State.onCores_aon (f : Cores → Cores) : (s.onCores f).aon = s.aon := rfl
@[simp] theorem State.onCores_clk (f : Cores → Cores) : (s.onCores f).clk = s.clk := rfl
@[simp] theorem State.onCores_boot (f : Cores → Cores) : (s.onCores f).boot = s.boot := rfl
@[simp] theorem State.onCores_rp (f : Cores → Cores) : (s.onCores f).rp = s.rp := rfl
@[simp] theorem State.onCores_win (f : Cores → Cores) : (s.onCores f).win = s.win := rfl
@[simp] theorem State.onCores_mbx (f : Cores → Cores) : (s.onCores f).mbx = s.mbx := rfl
@[simp] theorem State.onCores_kol (f : Cores → Cores) : (s.onCores f).kol = s.kol := rfl
@[simp] theorem State.onCores_parts (f : Cores → Cores) : (s.onCores f).parts = s.parts := rfl
@[simp] theorem State.onCores_keyHigh (f : Cores → Cores) : (s.onCores f).keyHigh = s.keyHigh := rfl
@[simp] theorem State.onCores_cmdMem (f : Cores → Cores) : (s.onCores f).cmdMem = s.cmdMem := rfl
@[simp] theorem State.onCores_seqs (f : Cores → Cores) : (s.onCores f).seqs = s.seqs := rfl
@[simp] theorem State.onCores_cores (f : Cores → Cores) : (s.onCores f).cores = f s.cores := rfl
@[simp] theorem State.onCores_tables (f : Cores → Cores) : (s.onCores f).tables = s.tables := rfl
@[simp] theorem State.onCores_ledger (f : Cores → Cores) : (s.onCores f).ledger = s.ledger := rfl
@[simp] theorem State.onCores_ckpt (f : Cores → Cores) : (s.onCores f).ckpt = s.ckpt := rfl
@[simp] theorem State.onCores_sp (f : Cores → Cores) : (s.onCores f).sp = s.sp := rfl
@[simp] theorem State.onCores_coup (f : Cores → Cores) : (s.onCores f).coup = s.coup := rfl
@[simp] theorem State.onCores_ports (f : Cores → Cores) : (s.onCores f).ports = s.ports := rfl
@[simp] theorem State.onCores_pairHeld (f : Cores → Cores) : (s.onCores f).pairHeld = s.pairHeld := rfl
@[simp] theorem State.onCores_coll (f : Cores → Cores) : (s.onCores f).coll = s.coll := rfl
@[simp] theorem State.onCores_fedIn (f : Cores → Cores) : (s.onCores f).fedIn = s.fedIn := rfl
@[simp] theorem State.onCores_fedOut (f : Cores → Cores) : (s.onCores f).fedOut = s.fedOut := rfl
@[simp] theorem State.onCores_agenda (f : Cores → Cores) : (s.onCores f).agenda = s.agenda := rfl
@[simp] theorem State.onCores_gln (f : Cores → Cores) : (s.onCores f).gln = s.gln := rfl
@[simp] theorem State.onCores_tap (f : Cores → Cores) : (s.onCores f).tap = s.tap := rfl
@[simp] theorem State.onCores_free (f : Cores → Cores) : (s.onCores f).free = s.free := rfl
@[simp] theorem State.onCores_pending (f : Cores → Cores) : (s.onCores f).pending = s.pending := rfl

/-! ## onCoup -/

@[simp] theorem State.onCoup_cfg (f : Coupler → Coupler) : (s.onCoup f).cfg = s.cfg := rfl
@[simp] theorem State.onCoup_aon (f : Coupler → Coupler) : (s.onCoup f).aon = s.aon := rfl
@[simp] theorem State.onCoup_clk (f : Coupler → Coupler) : (s.onCoup f).clk = s.clk := rfl
@[simp] theorem State.onCoup_boot (f : Coupler → Coupler) : (s.onCoup f).boot = s.boot := rfl
@[simp] theorem State.onCoup_rp (f : Coupler → Coupler) : (s.onCoup f).rp = s.rp := rfl
@[simp] theorem State.onCoup_win (f : Coupler → Coupler) : (s.onCoup f).win = s.win := rfl
@[simp] theorem State.onCoup_mbx (f : Coupler → Coupler) : (s.onCoup f).mbx = s.mbx := rfl
@[simp] theorem State.onCoup_kol (f : Coupler → Coupler) : (s.onCoup f).kol = s.kol := rfl
@[simp] theorem State.onCoup_parts (f : Coupler → Coupler) : (s.onCoup f).parts = s.parts := rfl
@[simp] theorem State.onCoup_keyHigh (f : Coupler → Coupler) : (s.onCoup f).keyHigh = s.keyHigh := rfl
@[simp] theorem State.onCoup_cmdMem (f : Coupler → Coupler) : (s.onCoup f).cmdMem = s.cmdMem := rfl
@[simp] theorem State.onCoup_seqs (f : Coupler → Coupler) : (s.onCoup f).seqs = s.seqs := rfl
@[simp] theorem State.onCoup_cores (f : Coupler → Coupler) : (s.onCoup f).cores = s.cores := rfl
@[simp] theorem State.onCoup_tables (f : Coupler → Coupler) : (s.onCoup f).tables = s.tables := rfl
@[simp] theorem State.onCoup_ledger (f : Coupler → Coupler) : (s.onCoup f).ledger = s.ledger := rfl
@[simp] theorem State.onCoup_ckpt (f : Coupler → Coupler) : (s.onCoup f).ckpt = s.ckpt := rfl
@[simp] theorem State.onCoup_sp (f : Coupler → Coupler) : (s.onCoup f).sp = s.sp := rfl
@[simp] theorem State.onCoup_coup (f : Coupler → Coupler) : (s.onCoup f).coup = f s.coup := rfl
@[simp] theorem State.onCoup_ports (f : Coupler → Coupler) : (s.onCoup f).ports = s.ports := rfl
@[simp] theorem State.onCoup_pairHeld (f : Coupler → Coupler) : (s.onCoup f).pairHeld = s.pairHeld := rfl
@[simp] theorem State.onCoup_coll (f : Coupler → Coupler) : (s.onCoup f).coll = s.coll := rfl
@[simp] theorem State.onCoup_fedIn (f : Coupler → Coupler) : (s.onCoup f).fedIn = s.fedIn := rfl
@[simp] theorem State.onCoup_fedOut (f : Coupler → Coupler) : (s.onCoup f).fedOut = s.fedOut := rfl
@[simp] theorem State.onCoup_agenda (f : Coupler → Coupler) : (s.onCoup f).agenda = s.agenda := rfl
@[simp] theorem State.onCoup_gln (f : Coupler → Coupler) : (s.onCoup f).gln = s.gln := rfl
@[simp] theorem State.onCoup_tap (f : Coupler → Coupler) : (s.onCoup f).tap = s.tap := rfl
@[simp] theorem State.onCoup_free (f : Coupler → Coupler) : (s.onCoup f).free = s.free := rfl
@[simp] theorem State.onCoup_pending (f : Coupler → Coupler) : (s.onCoup f).pending = s.pending := rfl

/-! ## onColl -/

@[simp] theorem State.onColl_cfg (f : Coll → Coll) : (s.onColl f).cfg = s.cfg := rfl
@[simp] theorem State.onColl_aon (f : Coll → Coll) : (s.onColl f).aon = s.aon := rfl
@[simp] theorem State.onColl_clk (f : Coll → Coll) : (s.onColl f).clk = s.clk := rfl
@[simp] theorem State.onColl_boot (f : Coll → Coll) : (s.onColl f).boot = s.boot := rfl
@[simp] theorem State.onColl_rp (f : Coll → Coll) : (s.onColl f).rp = s.rp := rfl
@[simp] theorem State.onColl_win (f : Coll → Coll) : (s.onColl f).win = s.win := rfl
@[simp] theorem State.onColl_mbx (f : Coll → Coll) : (s.onColl f).mbx = s.mbx := rfl
@[simp] theorem State.onColl_kol (f : Coll → Coll) : (s.onColl f).kol = s.kol := rfl
@[simp] theorem State.onColl_parts (f : Coll → Coll) : (s.onColl f).parts = s.parts := rfl
@[simp] theorem State.onColl_keyHigh (f : Coll → Coll) : (s.onColl f).keyHigh = s.keyHigh := rfl
@[simp] theorem State.onColl_cmdMem (f : Coll → Coll) : (s.onColl f).cmdMem = s.cmdMem := rfl
@[simp] theorem State.onColl_seqs (f : Coll → Coll) : (s.onColl f).seqs = s.seqs := rfl
@[simp] theorem State.onColl_cores (f : Coll → Coll) : (s.onColl f).cores = s.cores := rfl
@[simp] theorem State.onColl_tables (f : Coll → Coll) : (s.onColl f).tables = s.tables := rfl
@[simp] theorem State.onColl_ledger (f : Coll → Coll) : (s.onColl f).ledger = s.ledger := rfl
@[simp] theorem State.onColl_ckpt (f : Coll → Coll) : (s.onColl f).ckpt = s.ckpt := rfl
@[simp] theorem State.onColl_sp (f : Coll → Coll) : (s.onColl f).sp = s.sp := rfl
@[simp] theorem State.onColl_coup (f : Coll → Coll) : (s.onColl f).coup = s.coup := rfl
@[simp] theorem State.onColl_ports (f : Coll → Coll) : (s.onColl f).ports = s.ports := rfl
@[simp] theorem State.onColl_pairHeld (f : Coll → Coll) : (s.onColl f).pairHeld = s.pairHeld := rfl
@[simp] theorem State.onColl_coll (f : Coll → Coll) : (s.onColl f).coll = f s.coll := rfl
@[simp] theorem State.onColl_fedIn (f : Coll → Coll) : (s.onColl f).fedIn = s.fedIn := rfl
@[simp] theorem State.onColl_fedOut (f : Coll → Coll) : (s.onColl f).fedOut = s.fedOut := rfl
@[simp] theorem State.onColl_agenda (f : Coll → Coll) : (s.onColl f).agenda = s.agenda := rfl
@[simp] theorem State.onColl_gln (f : Coll → Coll) : (s.onColl f).gln = s.gln := rfl
@[simp] theorem State.onColl_tap (f : Coll → Coll) : (s.onColl f).tap = s.tap := rfl
@[simp] theorem State.onColl_free (f : Coll → Coll) : (s.onColl f).free = s.free := rfl
@[simp] theorem State.onColl_pending (f : Coll → Coll) : (s.onColl f).pending = s.pending := rfl

/-! ## onSeq -/

@[simp] theorem State.onSeq_cfg (i : Nat) (f : Sequencer → Sequencer) : (s.onSeq i f).cfg = s.cfg := rfl
@[simp] theorem State.onSeq_aon (i : Nat) (f : Sequencer → Sequencer) : (s.onSeq i f).aon = s.aon := rfl
@[simp] theorem State.onSeq_clk (i : Nat) (f : Sequencer → Sequencer) : (s.onSeq i f).clk = s.clk := rfl
@[simp] theorem State.onSeq_boot (i : Nat) (f : Sequencer → Sequencer) : (s.onSeq i f).boot = s.boot := rfl
@[simp] theorem State.onSeq_rp (i : Nat) (f : Sequencer → Sequencer) : (s.onSeq i f).rp = s.rp := rfl
@[simp] theorem State.onSeq_win (i : Nat) (f : Sequencer → Sequencer) : (s.onSeq i f).win = s.win := rfl
@[simp] theorem State.onSeq_mbx (i : Nat) (f : Sequencer → Sequencer) : (s.onSeq i f).mbx = s.mbx := rfl
@[simp] theorem State.onSeq_kol (i : Nat) (f : Sequencer → Sequencer) : (s.onSeq i f).kol = s.kol := rfl
@[simp] theorem State.onSeq_parts (i : Nat) (f : Sequencer → Sequencer) : (s.onSeq i f).parts = s.parts := rfl
@[simp] theorem State.onSeq_keyHigh (i : Nat) (f : Sequencer → Sequencer) : (s.onSeq i f).keyHigh = s.keyHigh := rfl
@[simp] theorem State.onSeq_cmdMem (i : Nat) (f : Sequencer → Sequencer) : (s.onSeq i f).cmdMem = s.cmdMem := rfl
@[simp] theorem State.onSeq_seqs (i : Nat) (f : Sequencer → Sequencer) : (s.onSeq i f).seqs = s.seqs.modify i f := rfl
@[simp] theorem State.onSeq_cores (i : Nat) (f : Sequencer → Sequencer) : (s.onSeq i f).cores = s.cores := rfl
@[simp] theorem State.onSeq_tables (i : Nat) (f : Sequencer → Sequencer) : (s.onSeq i f).tables = s.tables := rfl
@[simp] theorem State.onSeq_ledger (i : Nat) (f : Sequencer → Sequencer) : (s.onSeq i f).ledger = s.ledger := rfl
@[simp] theorem State.onSeq_ckpt (i : Nat) (f : Sequencer → Sequencer) : (s.onSeq i f).ckpt = s.ckpt := rfl
@[simp] theorem State.onSeq_sp (i : Nat) (f : Sequencer → Sequencer) : (s.onSeq i f).sp = s.sp := rfl
@[simp] theorem State.onSeq_coup (i : Nat) (f : Sequencer → Sequencer) : (s.onSeq i f).coup = s.coup := rfl
@[simp] theorem State.onSeq_ports (i : Nat) (f : Sequencer → Sequencer) : (s.onSeq i f).ports = s.ports := rfl
@[simp] theorem State.onSeq_pairHeld (i : Nat) (f : Sequencer → Sequencer) : (s.onSeq i f).pairHeld = s.pairHeld := rfl
@[simp] theorem State.onSeq_coll (i : Nat) (f : Sequencer → Sequencer) : (s.onSeq i f).coll = s.coll := rfl
@[simp] theorem State.onSeq_fedIn (i : Nat) (f : Sequencer → Sequencer) : (s.onSeq i f).fedIn = s.fedIn := rfl
@[simp] theorem State.onSeq_fedOut (i : Nat) (f : Sequencer → Sequencer) : (s.onSeq i f).fedOut = s.fedOut := rfl
@[simp] theorem State.onSeq_agenda (i : Nat) (f : Sequencer → Sequencer) : (s.onSeq i f).agenda = s.agenda := rfl
@[simp] theorem State.onSeq_gln (i : Nat) (f : Sequencer → Sequencer) : (s.onSeq i f).gln = s.gln := rfl
@[simp] theorem State.onSeq_tap (i : Nat) (f : Sequencer → Sequencer) : (s.onSeq i f).tap = s.tap := rfl
@[simp] theorem State.onSeq_free (i : Nat) (f : Sequencer → Sequencer) : (s.onSeq i f).free = s.free := rfl
@[simp] theorem State.onSeq_pending (i : Nat) (f : Sequencer → Sequencer) : (s.onSeq i f).pending = s.pending := rfl

/-! ## onPart -/

@[simp] theorem State.onPart_cfg (i : Nat) (f : Domain → Domain) : (s.onPart i f).cfg = s.cfg := rfl
@[simp] theorem State.onPart_aon (i : Nat) (f : Domain → Domain) : (s.onPart i f).aon = s.aon := rfl
@[simp] theorem State.onPart_clk (i : Nat) (f : Domain → Domain) : (s.onPart i f).clk = s.clk := rfl
@[simp] theorem State.onPart_boot (i : Nat) (f : Domain → Domain) : (s.onPart i f).boot = s.boot := rfl
@[simp] theorem State.onPart_rp (i : Nat) (f : Domain → Domain) : (s.onPart i f).rp = s.rp := rfl
@[simp] theorem State.onPart_win (i : Nat) (f : Domain → Domain) : (s.onPart i f).win = s.win := rfl
@[simp] theorem State.onPart_mbx (i : Nat) (f : Domain → Domain) : (s.onPart i f).mbx = s.mbx := rfl
@[simp] theorem State.onPart_kol (i : Nat) (f : Domain → Domain) : (s.onPart i f).kol = s.kol := rfl
@[simp] theorem State.onPart_parts (i : Nat) (f : Domain → Domain) : (s.onPart i f).parts = s.parts.modify i f := rfl
@[simp] theorem State.onPart_keyHigh (i : Nat) (f : Domain → Domain) : (s.onPart i f).keyHigh = s.keyHigh := rfl
@[simp] theorem State.onPart_cmdMem (i : Nat) (f : Domain → Domain) : (s.onPart i f).cmdMem = s.cmdMem := rfl
@[simp] theorem State.onPart_seqs (i : Nat) (f : Domain → Domain) : (s.onPart i f).seqs = s.seqs := rfl
@[simp] theorem State.onPart_cores (i : Nat) (f : Domain → Domain) : (s.onPart i f).cores = s.cores := rfl
@[simp] theorem State.onPart_tables (i : Nat) (f : Domain → Domain) : (s.onPart i f).tables = s.tables := rfl
@[simp] theorem State.onPart_ledger (i : Nat) (f : Domain → Domain) : (s.onPart i f).ledger = s.ledger := rfl
@[simp] theorem State.onPart_ckpt (i : Nat) (f : Domain → Domain) : (s.onPart i f).ckpt = s.ckpt := rfl
@[simp] theorem State.onPart_sp (i : Nat) (f : Domain → Domain) : (s.onPart i f).sp = s.sp := rfl
@[simp] theorem State.onPart_coup (i : Nat) (f : Domain → Domain) : (s.onPart i f).coup = s.coup := rfl
@[simp] theorem State.onPart_ports (i : Nat) (f : Domain → Domain) : (s.onPart i f).ports = s.ports := rfl
@[simp] theorem State.onPart_pairHeld (i : Nat) (f : Domain → Domain) : (s.onPart i f).pairHeld = s.pairHeld := rfl
@[simp] theorem State.onPart_coll (i : Nat) (f : Domain → Domain) : (s.onPart i f).coll = s.coll := rfl
@[simp] theorem State.onPart_fedIn (i : Nat) (f : Domain → Domain) : (s.onPart i f).fedIn = s.fedIn := rfl
@[simp] theorem State.onPart_fedOut (i : Nat) (f : Domain → Domain) : (s.onPart i f).fedOut = s.fedOut := rfl
@[simp] theorem State.onPart_agenda (i : Nat) (f : Domain → Domain) : (s.onPart i f).agenda = s.agenda := rfl
@[simp] theorem State.onPart_gln (i : Nat) (f : Domain → Domain) : (s.onPart i f).gln = s.gln := rfl
@[simp] theorem State.onPart_tap (i : Nat) (f : Domain → Domain) : (s.onPart i f).tap = s.tap := rfl
@[simp] theorem State.onPart_free (i : Nat) (f : Domain → Domain) : (s.onPart i f).free = s.free := rfl
@[simp] theorem State.onPart_pending (i : Nat) (f : Domain → Domain) : (s.onPart i f).pending = s.pending := rfl

/-! ## onPort -/

@[simp] theorem State.onPort_cfg (i : Nat) (f : Port → Port) : (s.onPort i f).cfg = s.cfg := rfl
@[simp] theorem State.onPort_aon (i : Nat) (f : Port → Port) : (s.onPort i f).aon = s.aon := rfl
@[simp] theorem State.onPort_clk (i : Nat) (f : Port → Port) : (s.onPort i f).clk = s.clk := rfl
@[simp] theorem State.onPort_boot (i : Nat) (f : Port → Port) : (s.onPort i f).boot = s.boot := rfl
@[simp] theorem State.onPort_rp (i : Nat) (f : Port → Port) : (s.onPort i f).rp = s.rp := rfl
@[simp] theorem State.onPort_win (i : Nat) (f : Port → Port) : (s.onPort i f).win = s.win := rfl
@[simp] theorem State.onPort_mbx (i : Nat) (f : Port → Port) : (s.onPort i f).mbx = s.mbx := rfl
@[simp] theorem State.onPort_kol (i : Nat) (f : Port → Port) : (s.onPort i f).kol = s.kol := rfl
@[simp] theorem State.onPort_parts (i : Nat) (f : Port → Port) : (s.onPort i f).parts = s.parts := rfl
@[simp] theorem State.onPort_keyHigh (i : Nat) (f : Port → Port) : (s.onPort i f).keyHigh = s.keyHigh := rfl
@[simp] theorem State.onPort_cmdMem (i : Nat) (f : Port → Port) : (s.onPort i f).cmdMem = s.cmdMem := rfl
@[simp] theorem State.onPort_seqs (i : Nat) (f : Port → Port) : (s.onPort i f).seqs = s.seqs := rfl
@[simp] theorem State.onPort_cores (i : Nat) (f : Port → Port) : (s.onPort i f).cores = s.cores := rfl
@[simp] theorem State.onPort_tables (i : Nat) (f : Port → Port) : (s.onPort i f).tables = s.tables := rfl
@[simp] theorem State.onPort_ledger (i : Nat) (f : Port → Port) : (s.onPort i f).ledger = s.ledger := rfl
@[simp] theorem State.onPort_ckpt (i : Nat) (f : Port → Port) : (s.onPort i f).ckpt = s.ckpt := rfl
@[simp] theorem State.onPort_sp (i : Nat) (f : Port → Port) : (s.onPort i f).sp = s.sp := rfl
@[simp] theorem State.onPort_coup (i : Nat) (f : Port → Port) : (s.onPort i f).coup = s.coup := rfl
@[simp] theorem State.onPort_ports (i : Nat) (f : Port → Port) : (s.onPort i f).ports = s.ports.modify i f := rfl
@[simp] theorem State.onPort_pairHeld (i : Nat) (f : Port → Port) : (s.onPort i f).pairHeld = s.pairHeld := rfl
@[simp] theorem State.onPort_coll (i : Nat) (f : Port → Port) : (s.onPort i f).coll = s.coll := rfl
@[simp] theorem State.onPort_fedIn (i : Nat) (f : Port → Port) : (s.onPort i f).fedIn = s.fedIn := rfl
@[simp] theorem State.onPort_fedOut (i : Nat) (f : Port → Port) : (s.onPort i f).fedOut = s.fedOut := rfl
@[simp] theorem State.onPort_agenda (i : Nat) (f : Port → Port) : (s.onPort i f).agenda = s.agenda := rfl
@[simp] theorem State.onPort_gln (i : Nat) (f : Port → Port) : (s.onPort i f).gln = s.gln := rfl
@[simp] theorem State.onPort_tap (i : Nat) (f : Port → Port) : (s.onPort i f).tap = s.tap := rfl
@[simp] theorem State.onPort_free (i : Nat) (f : Port → Port) : (s.onPort i f).free = s.free := rfl
@[simp] theorem State.onPort_pending (i : Nat) (f : Port → Port) : (s.onPort i f).pending = s.pending := rfl

/-! ## onMbx -/

@[simp] theorem State.onMbx_cfg (i : Nat) (f : Mailbox → Mailbox) : (s.onMbx i f).cfg = s.cfg := rfl
@[simp] theorem State.onMbx_aon (i : Nat) (f : Mailbox → Mailbox) : (s.onMbx i f).aon = s.aon := rfl
@[simp] theorem State.onMbx_clk (i : Nat) (f : Mailbox → Mailbox) : (s.onMbx i f).clk = s.clk := rfl
@[simp] theorem State.onMbx_boot (i : Nat) (f : Mailbox → Mailbox) : (s.onMbx i f).boot = s.boot := rfl
@[simp] theorem State.onMbx_rp (i : Nat) (f : Mailbox → Mailbox) : (s.onMbx i f).rp = s.rp := rfl
@[simp] theorem State.onMbx_win (i : Nat) (f : Mailbox → Mailbox) : (s.onMbx i f).win = s.win := rfl
@[simp] theorem State.onMbx_mbx (i : Nat) (f : Mailbox → Mailbox) : (s.onMbx i f).mbx = s.mbx.modify i f := rfl
@[simp] theorem State.onMbx_kol (i : Nat) (f : Mailbox → Mailbox) : (s.onMbx i f).kol = s.kol := rfl
@[simp] theorem State.onMbx_parts (i : Nat) (f : Mailbox → Mailbox) : (s.onMbx i f).parts = s.parts := rfl
@[simp] theorem State.onMbx_keyHigh (i : Nat) (f : Mailbox → Mailbox) : (s.onMbx i f).keyHigh = s.keyHigh := rfl
@[simp] theorem State.onMbx_cmdMem (i : Nat) (f : Mailbox → Mailbox) : (s.onMbx i f).cmdMem = s.cmdMem := rfl
@[simp] theorem State.onMbx_seqs (i : Nat) (f : Mailbox → Mailbox) : (s.onMbx i f).seqs = s.seqs := rfl
@[simp] theorem State.onMbx_cores (i : Nat) (f : Mailbox → Mailbox) : (s.onMbx i f).cores = s.cores := rfl
@[simp] theorem State.onMbx_tables (i : Nat) (f : Mailbox → Mailbox) : (s.onMbx i f).tables = s.tables := rfl
@[simp] theorem State.onMbx_ledger (i : Nat) (f : Mailbox → Mailbox) : (s.onMbx i f).ledger = s.ledger := rfl
@[simp] theorem State.onMbx_ckpt (i : Nat) (f : Mailbox → Mailbox) : (s.onMbx i f).ckpt = s.ckpt := rfl
@[simp] theorem State.onMbx_sp (i : Nat) (f : Mailbox → Mailbox) : (s.onMbx i f).sp = s.sp := rfl
@[simp] theorem State.onMbx_coup (i : Nat) (f : Mailbox → Mailbox) : (s.onMbx i f).coup = s.coup := rfl
@[simp] theorem State.onMbx_ports (i : Nat) (f : Mailbox → Mailbox) : (s.onMbx i f).ports = s.ports := rfl
@[simp] theorem State.onMbx_pairHeld (i : Nat) (f : Mailbox → Mailbox) : (s.onMbx i f).pairHeld = s.pairHeld := rfl
@[simp] theorem State.onMbx_coll (i : Nat) (f : Mailbox → Mailbox) : (s.onMbx i f).coll = s.coll := rfl
@[simp] theorem State.onMbx_fedIn (i : Nat) (f : Mailbox → Mailbox) : (s.onMbx i f).fedIn = s.fedIn := rfl
@[simp] theorem State.onMbx_fedOut (i : Nat) (f : Mailbox → Mailbox) : (s.onMbx i f).fedOut = s.fedOut := rfl
@[simp] theorem State.onMbx_agenda (i : Nat) (f : Mailbox → Mailbox) : (s.onMbx i f).agenda = s.agenda := rfl
@[simp] theorem State.onMbx_gln (i : Nat) (f : Mailbox → Mailbox) : (s.onMbx i f).gln = s.gln := rfl
@[simp] theorem State.onMbx_tap (i : Nat) (f : Mailbox → Mailbox) : (s.onMbx i f).tap = s.tap := rfl
@[simp] theorem State.onMbx_free (i : Nat) (f : Mailbox → Mailbox) : (s.onMbx i f).free = s.free := rfl
@[simp] theorem State.onMbx_pending (i : Nat) (f : Mailbox → Mailbox) : (s.onMbx i f).pending = s.pending := rfl

/-! ## onDom -/

@[simp] theorem State.onDom_cfg (i : Nat) (f : DomColl → DomColl) : (s.onDom i f).cfg = s.cfg := rfl
@[simp] theorem State.onDom_aon (i : Nat) (f : DomColl → DomColl) : (s.onDom i f).aon = s.aon := rfl
@[simp] theorem State.onDom_clk (i : Nat) (f : DomColl → DomColl) : (s.onDom i f).clk = s.clk := rfl
@[simp] theorem State.onDom_boot (i : Nat) (f : DomColl → DomColl) : (s.onDom i f).boot = s.boot := rfl
@[simp] theorem State.onDom_rp (i : Nat) (f : DomColl → DomColl) : (s.onDom i f).rp = s.rp := rfl
@[simp] theorem State.onDom_win (i : Nat) (f : DomColl → DomColl) : (s.onDom i f).win = s.win := rfl
@[simp] theorem State.onDom_mbx (i : Nat) (f : DomColl → DomColl) : (s.onDom i f).mbx = s.mbx := rfl
@[simp] theorem State.onDom_kol (i : Nat) (f : DomColl → DomColl) : (s.onDom i f).kol = s.kol := rfl
@[simp] theorem State.onDom_parts (i : Nat) (f : DomColl → DomColl) : (s.onDom i f).parts = s.parts := rfl
@[simp] theorem State.onDom_keyHigh (i : Nat) (f : DomColl → DomColl) : (s.onDom i f).keyHigh = s.keyHigh := rfl
@[simp] theorem State.onDom_cmdMem (i : Nat) (f : DomColl → DomColl) : (s.onDom i f).cmdMem = s.cmdMem := rfl
@[simp] theorem State.onDom_seqs (i : Nat) (f : DomColl → DomColl) : (s.onDom i f).seqs = s.seqs := rfl
@[simp] theorem State.onDom_cores (i : Nat) (f : DomColl → DomColl) : (s.onDom i f).cores = s.cores := rfl
@[simp] theorem State.onDom_tables (i : Nat) (f : DomColl → DomColl) : (s.onDom i f).tables = s.tables := rfl
@[simp] theorem State.onDom_ledger (i : Nat) (f : DomColl → DomColl) : (s.onDom i f).ledger = s.ledger := rfl
@[simp] theorem State.onDom_ckpt (i : Nat) (f : DomColl → DomColl) : (s.onDom i f).ckpt = s.ckpt := rfl
@[simp] theorem State.onDom_sp (i : Nat) (f : DomColl → DomColl) : (s.onDom i f).sp = s.sp := rfl
@[simp] theorem State.onDom_coup (i : Nat) (f : DomColl → DomColl) : (s.onDom i f).coup = s.coup := rfl
@[simp] theorem State.onDom_ports (i : Nat) (f : DomColl → DomColl) : (s.onDom i f).ports = s.ports := rfl
@[simp] theorem State.onDom_pairHeld (i : Nat) (f : DomColl → DomColl) : (s.onDom i f).pairHeld = s.pairHeld := rfl
@[simp] theorem State.onDom_coll (i : Nat) (f : DomColl → DomColl) : (s.onDom i f).coll = { s.coll with doms := s.coll.doms.modify i f } := rfl
@[simp] theorem State.onDom_fedIn (i : Nat) (f : DomColl → DomColl) : (s.onDom i f).fedIn = s.fedIn := rfl
@[simp] theorem State.onDom_fedOut (i : Nat) (f : DomColl → DomColl) : (s.onDom i f).fedOut = s.fedOut := rfl
@[simp] theorem State.onDom_agenda (i : Nat) (f : DomColl → DomColl) : (s.onDom i f).agenda = s.agenda := rfl
@[simp] theorem State.onDom_gln (i : Nat) (f : DomColl → DomColl) : (s.onDom i f).gln = s.gln := rfl
@[simp] theorem State.onDom_tap (i : Nat) (f : DomColl → DomColl) : (s.onDom i f).tap = s.tap := rfl
@[simp] theorem State.onDom_free (i : Nat) (f : DomColl → DomColl) : (s.onDom i f).free = s.free := rfl
@[simp] theorem State.onDom_pending (i : Nat) (f : DomColl → DomColl) : (s.onDom i f).pending = s.pending := rfl

/-! ## Agreement on fields -/

theorem State.sameAt_refl (s : State) (f : Field) : s.sameAt s f := by cases f <;> rfl

theorem State.sameAt_trans {s t u : State} {f : Field} (h : s.sameAt t f) (k : t.sameAt u f) : s.sameAt u f := by
  cases f <;> exact Eq.trans k h

theorem State.keeps_refl (s : State) (l : List Field) : s.keeps s l := fun f _ => s.sameAt_refl f

theorem State.keeps.mono {s t : State} {l k : List Field} (h : s.keeps t l) (hs : ∀ f, f ∈ l → f ∈ k) : s.keeps t k :=
  fun f hf => h f fun hm => hf (hs f hm)

theorem State.keeps.trans {s t u : State} {l : List Field} (h : s.keeps t l) (k : t.keeps u l) : s.keeps u l :=
  fun f hf => State.sameAt_trans (h f hf) (k f hf)

/-- States that agree on every field are equal. -/
theorem State.eq_of_sameAt {s t : State} (h : ∀ f, s.sameAt t f) : t = s := by
  cases s; cases t
  have key := fun f => h f
  simp only [State.mk.injEq]
  exact ⟨key .cfg, key .aon, key .clk, key .boot, key .rp, key .win, key .mbx, key .kol, key .parts, key .keyHigh, key .cmdMem, key .seqs, key .cores, key .tables, key .ledger, key .ckpt, key .sp, key .coup, key .ports, key .pairHeld, key .coll, key .fedIn, key .fedOut, key .agenda, key .gln, key .tap, key .free, key .pending⟩

theorem State.keeps_ite {s t u : State} {c : Prop} [Decidable c] {l : List Field} (h : s.keeps t l) (k : s.keeps u l) :
    s.keeps (if c then t else u) l := by split <;> assumption

/-- A fold of steps that each keep the fields outside a list keeps them. -/
theorem State.keeps_foldl {α : Type} {l : List Field} (f : State → α → State) (h : ∀ (s : State) (a : α), s.keeps (f s a) l) :
    ∀ (xs : List α) (s : State), s.keeps (xs.foldl f s) l
  | [], s => s.keeps_refl l
  | a :: xs, s => (h s a).trans (State.keeps_foldl f h xs (f s a))

/-! ## Updates of a part -/

theorem State.keeps_onAon (f : Aon → Aon) : s.keeps (s.onAon f) [.aon] := by
  intro g h; cases g <;> first | rfl | exact absurd (by decide) h
theorem State.keeps_onBoot (f : Boot → Boot) : s.keeps (s.onBoot f) [.boot] := by
  intro g h; cases g <;> first | rfl | exact absurd (by decide) h
theorem State.keeps_onWin (f : Windows → Windows) : s.keeps (s.onWin f) [.win] := by
  intro g h; cases g <;> first | rfl | exact absurd (by decide) h
theorem State.keeps_onKol (f : Kolate → Kolate) : s.keeps (s.onKol f) [.kol] := by
  intro g h; cases g <;> first | rfl | exact absurd (by decide) h
theorem State.keeps_onGln (f : Gleaner → Gleaner) : s.keeps (s.onGln f) [.gln] := by
  intro g h; cases g <;> first | rfl | exact absurd (by decide) h
theorem State.keeps_onCores (f : Cores → Cores) : s.keeps (s.onCores f) [.cores] := by
  intro g h; cases g <;> first | rfl | exact absurd (by decide) h
theorem State.keeps_onCoup (f : Coupler → Coupler) : s.keeps (s.onCoup f) [.coup] := by
  intro g h; cases g <;> first | rfl | exact absurd (by decide) h
theorem State.keeps_onColl (f : Coll → Coll) : s.keeps (s.onColl f) [.coll] := by
  intro g h; cases g <;> first | rfl | exact absurd (by decide) h
theorem State.keeps_onSeq (i : Nat) (f : Sequencer → Sequencer) : s.keeps (s.onSeq i f) [.seqs] := by
  intro g h; cases g <;> first | rfl | exact absurd (by decide) h
theorem State.keeps_onPart (i : Nat) (f : Domain → Domain) : s.keeps (s.onPart i f) [.parts] := by
  intro g h; cases g <;> first | rfl | exact absurd (by decide) h
theorem State.keeps_onPort (i : Nat) (f : Port → Port) : s.keeps (s.onPort i f) [.ports] := by
  intro g h; cases g <;> first | rfl | exact absurd (by decide) h
theorem State.keeps_onMbx (i : Nat) (f : Mailbox → Mailbox) : s.keeps (s.onMbx i f) [.mbx] := by
  intro g h; cases g <;> first | rfl | exact absurd (by decide) h
theorem State.keeps_onDom (i : Nat) (f : DomColl → DomColl) : s.keeps (s.onDom i f) [.coll] := by
  intro g h; cases g <;> first | rfl | exact absurd (by decide) h

/-! ## Reaching an element of an updated list -/

/-- The element at j of a list whose element at i was modified. -/
theorem getD_modify {α : Type} (l : List α) (i j : Nat) (f : α → α) (d : α) :
    (l.modify i f).getD j d = if i = j ∧ j < l.length then f (l.getD j d) else l.getD j d := by
  simp only [List.getD_eq_getElem?_getD, List.getElem?_modify]
  by_cases h : i = j
  · subst h
    by_cases hl : i < l.length <;> simp [hl]
  · simp [h]

theorem State.onSeq_seqAt (i j : Nat) (f : Sequencer → Sequencer) :
    (s.onSeq i f).seqAt j = if i = j ∧ j < s.seqs.length then f (s.seqAt j) else s.seqAt j := getD_modify ..

theorem State.onPart_partAt (i j : Nat) (f : Domain → Domain) :
    (s.onPart i f).partAt j = if i = j ∧ j < s.parts.length then f (s.partAt j) else s.partAt j := getD_modify ..

theorem State.onPort_portAt (i j : Nat) (f : Port → Port) :
    (s.onPort i f).portAt j = if i = j ∧ j < s.ports.length then f (s.portAt j) else s.portAt j := getD_modify ..

theorem State.onMbx_mbxAt (i j : Nat) (f : Mailbox → Mailbox) :
    (s.onMbx i f).mbxAt j = if i = j ∧ j < s.mbx.length then f (s.mbxAt j) else s.mbxAt j := getD_modify ..

theorem State.onDom_domAt (i j : Nat) (f : DomColl → DomColl) :
    (s.onDom i f).domAt j = if i = j ∧ j < s.coll.doms.length then f (s.domAt j) else s.domAt j := getD_modify ..

end Sys2Proof.Machine
end

