-- ==== Sys2Proof/Laws/Ops.lean ====
section
/-! SUPPORT. What the shared operations of Machine/Ops.lean, the port and register-port operations can do, each said once. -/

namespace Sys2Proof.Machine

variable (s : State)

/-! ## Time and free values -/

/-- The clock runs on the clocks, the register port's response and the gleaner alone. -/
theorem State.keeps_clock (n : Nat) : s.keeps (s.clock n) [.clk, .rp, .gln] := by
  have h : s.keeps ({ s with clk := { s.clk with rackTime := s.clk.rackTime + n, localTime := s.clk.localTime + n }
                             rp := { s.rp with valid := s.rp.valid && n == 0 } } : State) [.clk, .rp, .gln] := by
    intro f hf; cases f <;> first | rfl | exact absurd (by decide) hf
  exact State.keeps_ite h (h.trans ((State.keeps_onGln _ _).mono (by decide)))

/-- Both times advance by n. -/
theorem State.clock_clk (n : Nat) :
    (s.clock n).clk = { s.clk with rackTime := s.clk.rackTime + n, localTime := s.clk.localTime + n } := by
  unfold State.clock; dsimp only; split <;> rfl

/-- Where nothing waits for a later cycle, only the clock runs. -/
theorem State.pass_quiet (n : Nat) (h : s.clk.dividers = true) (q : s.quiet = true) : s.pass n = s.clock n := by
  unfold State.pass; rw [if_pos h, if_pos q]

/-- Stopped clocks count nothing, and nothing falls due. -/
theorem State.pass_off (n : Nat) (h : s.clk.dividers = false) : s.pass n = s := by
  unfold State.pass; simp [h]

/-- Where nothing waits for a later cycle, time passes on the clocks, the response and the gleaner alone. -/
theorem State.keeps_pass (n : Nat) (q : s.quiet = true) : s.keeps (s.pass n) [.clk, .rp, .gln] := by
  unfold State.pass
  rw [if_pos q]
  exact State.keeps_ite (s.keeps_clock n) (s.keeps_refl _)

theorem State.keeps_until (t : Nat) (q : s.quiet = true) : s.keeps (s.until t) [.clk, .rp, .gln] := s.keeps_pass _ q
theorem State.keeps_untilLocal (t : Nat) (q : s.quiet = true) : s.keeps (s.untilLocal t) [.clk, .rp, .gln] := s.keeps_pass _ q

/-- A free value advances the count of free values alone. -/
theorem State.keeps_fresh : s.keeps s.fresh.2 [.free] := by
  intro f hf; cases f <;> first | rfl | exact absurd (by decide) hf

/-! ## The gleaner and alarms -/

theorem State.keeps_event (c src : Nat) (d : Option Nat) (x : Nat) : s.keeps (s.event c src d x) [.gln] := s.keeps_onGln _
theorem State.keeps_warn (b : Nat) : s.keeps (s.warn b) [.gln] := s.keeps_onGln _

theorem State.keeps_trace (q : Nat) (a b : Word) : s.keeps (s.trace q a b) [.gln] :=
  State.keeps_ite (s.keeps_onGln _) (s.keeps_refl _)

theorem State.keeps_snapTrigger (c : Nat) (l : Option SramLoc) : s.keeps (s.snapTrigger c l) [.gln] :=
  State.keeps_ite (s.keeps_onGln _) (s.keeps_onGln _)

/-- A fatal alarm changes the island's alarm record and the gleaner's snapshot alone. -/
theorem State.keeps_latchFatal (c : Nat) (l : Option SramLoc) : s.keeps (s.latchFatal c l) [.aon, .gln] :=
  ((s.keeps_onAon _).mono (by decide)).trans ((State.keeps_snapTrigger _ _ _).mono (by decide))

theorem State.snapTrigger_aon (c : Nat) (l : Option SramLoc) : (s.snapTrigger c l).aon = s.aon := by
  unfold State.snapTrigger; split <;> rfl

/-- The alarm record after a fatal alarm (R57, R431). -/
theorem State.latchFatal_aon (c : Nat) (l : Option SramLoc) :
    (s.latchFatal c l).aon.fatal = s.aon.fatal ||| BitVec.ofNat 32 (2 ^ (c - 1)) ∧ (s.latchFatal c l).aon.alarmPulled = true ∧
      (s.aon.firstFatal = 0 → (s.latchFatal c l).aon.firstFatal = BitVec.ofNat 8 c) ∧
      (s.latchFatal c l).aon.power = s.aon.power ∧ (s.latchFatal c l).aon.bypass = s.aon.bypass ∧
      (s.latchFatal c l).aon.debug = s.aon.debug ∧ (s.latchFatal c l).aon.secLock = s.aon.secLock := by
  unfold State.latchFatal
  rw [State.snapTrigger_aon]
  refine ⟨rfl, rfl, fun h => ?_, rfl, rfl, rfl, rfl⟩
  simp [h]

/-! ## Completions -/

/-- Four words stored one behind the other read back, and nothing else changes. -/
theorem Mem.write4_spec {m m1 m2 m3 m4 : Mem} (h : m.wf = true) (a : Nat) (w0 w1 w2 w3 : Word) (e1 : m.write64 a w0 = m1)
    (e2 : m1.write64 (a + 8) w1 = m2) (e3 : m2.write64 (a + 16) w2 = m3) (e4 : m3.write64 (a + 24) w3 = m4) :
    m4.wf = true ∧ m4.read64 a = w0 ∧ m4.read64 (a + 8) = w1 ∧ m4.read64 (a + 16) = w2 ∧ m4.read64 (a + 24) = w3 := by
  have h1 : m1.wf = true := e1 ▸ Mem.wf_write64 h a w0
  have h2 : m2.wf = true := e2 ▸ Mem.wf_write64 h1 (a + 8) w1
  have h3 : m3.wf = true := e3 ▸ Mem.wf_write64 h2 (a + 16) w2
  have r1 : ∀ c, c + 8 ≤ a ∨ a + 8 ≤ c → m1.read64 c = m.read64 c := fun c hc => e1 ▸ Mem.read64_write64_of_outside h a c w0 hc
  have r2 : ∀ c, c + 8 ≤ a + 8 ∨ a + 8 + 8 ≤ c → m2.read64 c = m1.read64 c := fun c hc => e2 ▸ Mem.read64_write64_of_outside h1 _ c w1 hc
  have r3 : ∀ c, c + 8 ≤ a + 16 ∨ a + 16 + 8 ≤ c → m3.read64 c = m2.read64 c := fun c hc => e3 ▸ Mem.read64_write64_of_outside h2 _ c w2 hc
  have r4 : ∀ c, c + 8 ≤ a + 24 ∨ a + 24 + 8 ≤ c → m4.read64 c = m3.read64 c := fun c hc => e4 ▸ Mem.read64_write64_of_outside h3 _ c w3 hc
  have v0 : m1.read64 a = w0 := e1 ▸ Mem.read64_write64 h a w0
  have v1 : m2.read64 (a + 8) = w1 := e2 ▸ Mem.read64_write64 h1 _ w1
  have v2 : m3.read64 (a + 16) = w2 := e3 ▸ Mem.read64_write64 h2 _ w2
  refine ⟨e4 ▸ Mem.wf_write64 h3 (a + 24) w3, ?_, ?_, ?_, e4 ▸ Mem.read64_write64 h3 _ w3⟩
  · rw [r4 a (by omega), r3 a (by omega), r2 a (by omega), v0]
  · rw [r4 _ (by omega), r3 _ (by omega), v1]
  · rw [r4 _ (by omega), v2]

/-- The slot that a completion takes. -/
def Mailbox.slot (b : Mailbox) : Nat := 0xC00 + 32 * (b.cplTail.toNat % max b.entries 1)

theorem Mailbox.store_eq (b : Mailbox) (e : W4) : b.store e =
    { b with mem := (((b.mem.write64 b.slot e.w0).write64 (b.slot + 8) e.w1).write64 (b.slot + 16) e.w2).write64 (b.slot + 24) e.w3,
             cplTail := b.cplTail + 1 } := rfl

/-- A completion is written into the slot before the new CPL_TAIL; of the mailbox nothing else changes (R113). -/
theorem Mailbox.store_spec (b : Mailbox) (e : W4) (h : b.mem.wf = true) :
    (b.store e).cplTail = b.cplTail + 1 ∧ (b.store e).reqHead = b.reqHead ∧ (b.store e).reqTail = b.reqTail ∧
      (b.store e).cplHead = b.cplHead ∧ (b.store e).entries = b.entries ∧ (b.store e).owner = b.owner ∧
      (b.store e).reserved = b.reserved ∧ (b.store e).overrun = b.overrun ∧ (b.store e).resetBusy = b.resetBusy ∧
      (b.store e).irqEn = b.irqEn ∧ (b.store e).mem.wf = true ∧
      (b.store e).mem.read64 b.slot = e.w0 ∧ (b.store e).mem.read64 (b.slot + 8) = e.w1 ∧ (b.store e).mem.read64 (b.slot + 16) = e.w2 ∧
      (b.store e).mem.read64 (b.slot + 24) = e.w3 := by
  rw [Mailbox.store_eq]
  generalize b.slot = a
  have k := Mem.write4_spec h a e.w0 e.w1 e.w2 e.w3 rfl rfl rfl rfl
  dsimp only
  refine ⟨rfl, rfl, rfl, rfl, rfl, rfl, rfl, rfl, rfl, rfl, ?_⟩
  exact k

theorem State.keeps_post (m : Nat) (e : W4) : s.keeps (s.post m e) [.mbx] := State.keeps_ite (s.keeps_refl _) (s.keeps_onMbx _ _)

theorem State.keeps_finishReset (m : Nat) : s.keeps (s.finishReset m) [.mbx, .kol] :=
  ((s.keeps_onMbx _ _).mono (by decide)).trans ((State.keeps_onKol _ _).mono (by decide))

theorem State.keeps_resetMbx (m : Nat) : s.keeps (s.resetMbx m) [.mbx, .kol] := by
  have h := (s.keeps_onMbx m fun b => { b with resetBusy := true }).mono (k := [.mbx, .kol]) (by decide)
  exact State.keeps_ite h (h.trans (State.keeps_finishReset _ _))

/-- A completion changes its mailbox and the control core's record of the request alone. -/
theorem State.keeps_complete (r : Req) (c d : Nat) (r1 r2 r3 : Word) : s.keeps (s.complete r c d r1 r2 r3) [.mbx, .kol] := by
  have h1 : s.keeps (if (r.opcode = 0x13 ∨ r.opcode = 0x14) ∧ c ≠ 0 then s.onMbx r.mbox fun b => { b with reserved := b.reserved - 1 } else s)
      [.mbx, .kol] := State.keeps_ite ((s.keeps_onMbx _ _).mono (by decide)) (s.keeps_refl _)
  have h2 := h1.trans ((State.keeps_post _ r.mbox (cplEntry r.tag r.opcode.toNat c d r1 r2 r3)).mono (by decide))
  have h3 := h2.trans ((State.keeps_onKol _ fun k => k.letGo r).mono (by decide))
  exact State.keeps_ite (h3.trans (State.keeps_finishReset _ _)) h3

/-- A completion with room in the ring: the entry is stored, the request is held no longer. -/
theorem State.complete_eq (r : Req) (c d : Nat) (r1 r2 r3 : Word) (ht : (r.opcode = 0x13 ∨ r.opcode = 0x14) → c = 0)
    (hf : s.kol.works = true) (ho : (s.mbxAt r.mbox).overrun = false) (hr : (s.mbxAt r.mbox).resetBusy = false) :
    s.complete r c d r1 r2 r3 =
      (s.onMbx r.mbox fun b => b.store (cplEntry r.tag r.opcode.toNat c d r1 r2 r3)).onKol fun k => k.letGo r := by
  have hn : ¬ ((r.opcode = 0x13 ∨ r.opcode = 0x14) ∧ c ≠ 0) := fun h => h.2 (ht h.1)
  unfold State.complete
  simp only [hn, if_false]
  have hp : s.post r.mbox (cplEntry r.tag r.opcode.toNat c d r1 r2 r3) =
      s.onMbx r.mbox fun b => b.store (cplEntry r.tag r.opcode.toNat c d r1 r2 r3) := by
    unfold State.post; simp [hf, ho]
  rw [hp, if_neg]
  rw [Bool.and_eq_true, not_and_or]
  left
  show ¬ (((s.onMbx r.mbox fun b => b.store (cplEntry r.tag r.opcode.toNat c d r1 r2 r3)).mbxAt r.mbox).resetBusy = true)
  rw [State.onMbx_mbxAt]
  split
  · show ¬ ((s.mbxAt r.mbox).resetBusy = true); simp [hr]
  · simp [hr]

/-! ## The register port -/

theorem State.keeps_respond (c : BitVec 3) (w : Word) : s.keeps (s.respond c w) [.rp] := by
  intro f hf; cases f <;> first | rfl | exact absurd (by decide) hf

/-- A response presents its code and data, and leaves the shadows. -/
theorem State.respond_answered (c : BitVec 3) (w : Word) : s.answered (s.respond c w) c w := ⟨rfl, rfl, rfl, rfl⟩

/-- A granted access finds the port up and the code OK. -/
theorem State.grants_iff (src : BitVec 4) (wr : Bool) (a : Nat) :
    s.grants src wr a = true ↔ s.regUp = true ∧ s.rspCode src.toNat wr a = rspOk := by
  simp [State.grants]

/-- A granted write does what its register does, and is answered with the code of that. -/
theorem State.regWrite_granted (src : BitVec 4) (a : Nat) (w : Word) (h : s.grants src true a = true) :
    portRequest s (s.regWrite src.toNat a w) = .next ((s.writeReg a w).2.respond (s.writeReg a w).1 0) := by
  obtain ⟨h1, h2⟩ := (s.grants_iff src true a).1 h
  unfold portRequest whenTrue State.regWrite
  simp [h1, h2]

/-- A refused write is answered with its code and changes nothing. -/
theorem State.regWrite_refused (src : BitVec 4) (a : Nat) (w : Word) (h : s.regUp = true) (hc : s.rspCode src.toNat true a ≠ rspOk) :
    portRequest s (s.regWrite src.toNat a w) = .next (s.respond (s.rspCode src.toNat true a) 0) := by
  unfold portRequest whenTrue State.regWrite
  simp [h, hc]

/-! ## Ports -/

/-- A port's new state changes the ports and may post an event. -/
theorem State.keeps_setPort (p : Nat) (st : PortState) (r : Nat) : s.keeps (s.setPort p st r) [.ports, .gln] := by
  have h := (s.keeps_onPort p fun q => { q with state := st, reason := BitVec.ofNat 8 r }).mono (k := [.ports, .gln]) (by decide)
  exact State.keeps_ite h (h.trans ((State.keeps_event _ _ _ _ _).mono (by decide)))

theorem State.setPort_ports (p : Nat) (st : PortState) (r : Nat) :
    (s.setPort p st r).ports = s.ports.modify p fun q => { q with state := st, reason := BitVec.ofNat 8 r } := by
  have h : (s.onPort p fun q => { q with state := st, reason := BitVec.ofNat 8 r }).keeps (s.setPort p st r) [.gln] :=
    State.keeps_ite (State.keeps_refl _ _) (State.keeps_event _ _ _ _ _)
  exact h .ports (by decide)

/-- The port whose state is set, and the others. -/
theorem State.setPort_portAt (p : Nat) (st : PortState) (r q : Nat) :
    (s.setPort p st r).portAt q =
      if p = q ∧ q < s.ports.length then { s.portAt q with state := st, reason := BitVec.ofNat 8 r } else s.portAt q := by
  unfold State.portAt; rw [State.setPort_ports]; exact getD_modify ..

theorem State.keeps_portOff (p : Nat) (st : PortState) (r : Nat) : s.keeps (s.portOff p st r) [.ports, .gln] :=
  ((s.keeps_onPort _ _).mono (by decide)).trans (State.keeps_setPort _ _ _ _)

theorem State.keeps_portDown (p r : Nat) : s.keeps (s.portDown p r) [.ports, .gln] :=
  State.keeps_ite (s.keeps_portOff _ _ _) (State.keeps_ite (s.keeps_portOff _ _ _) (s.keeps_portOff _ _ _))

/-- Bypass takes both PHY_ENs away and asserts one output (R109). -/
theorem State.keeps_assertBypass (i : Nat) : s.keeps (s.assertBypass i) [.ports, .aon] := by
  intro f hf; cases f <;> first | rfl | exact absurd (by decide) hf

theorem State.assertBypass_aon (i : Nat) : (s.assertBypass i).aon = { s.aon with bypass := s.aon.bypass.set i true } := rfl

theorem State.keeps_pairLost (p r : Nat) : s.keeps (s.pairLost p r) [.ports, .gln, .aon] := by
  have h := (s.keeps_portDown p r).mono (k := [.ports, .gln, .aon]) (by decide)
  unfold State.pairLost
  split
  next i q _ _ =>
    have h2 := State.keeps_ite (c := ((s.portDown p r).portAt q).state = .down ∨ ((s.portDown p r).portAt q).state = .absent) h
      (h.trans ((State.keeps_portOff (s.portDown p r) q .bypass 0).mono (by decide)))
    exact h2.trans ((State.keeps_assertBypass _ i).mono (by decide))
  next => exact h

theorem State.keeps_pairBypass (i : Nat) : s.keeps (s.pairBypass i) [.ports, .gln, .aon] :=
  (((s.keeps_portOff _ _ _).mono (by decide)).trans ((State.keeps_portOff _ _ _ _).mono (by decide))).trans
    ((State.keeps_assertBypass _ _).mono (by decide))

theorem State.keeps_startTraining (p : Nat) : s.keeps (s.startTraining p) [.ports, .gln] :=
  ((s.keeps_onPort _ _).mono (by decide)).trans (State.keeps_setPort _ _ _ _)

theorem State.keeps_send (c : TxCell) : s.keeps (s.send c) [.coll] := s.keeps_onColl _

/-- After every pair of a range has entered bypass each of them reads asserted. -/
theorem State.foldl_assertBypass (n i : Nat) (hi : i < n) :
    ((List.range n).foldl State.assertBypass s).aon.bypass.getD i true = true := by
  induction n with
  | zero => omega
  | succ n ih =>
    rw [List.range_succ, List.foldl_append]
    simp only [List.foldl_cons, List.foldl_nil, State.assertBypass_aon, List.getD_eq_getElem?_getD, List.getElem?_set]
    by_cases h : n = i
    · subst h; simp only [if_true]; split <;> rfl
    · simp only [h, if_false]; rw [← List.getD_eq_getElem?_getD]; exact ih (by omega)

/-- A port that is off stays off in bypass. -/
theorem State.phyEn_assertBypass (i p : Nat) (h : (s.portAt p).phyEn = false) : ((s.assertBypass i).portAt p).phyEn = false := by
  show (((s.onPort (s.cfg.pairPorts i).1 _).onPort (s.cfg.pairPorts i).2 _).portAt p).phyEn = false
  rw [State.onPort_portAt]
  split
  · rfl
  · rw [State.onPort_portAt]
    split
    · rfl
    · exact h

/-! ## Ends of start-up -/

/-- Start-up that ends is FAILED with its reason, dark, and has changed nothing else (R99, R104, R108). -/
theorem State.startEnd_spec (r : Nat) : s.failedFrom (s.startEnd r) (BitVec.ofNat 8 r) := by
  let u : State := { ((s.onBoot fun b => { b with phase := 0xFF, reason := BitVec.ofNat 8 r, secReq := false }).onAon fun a =>
    { a with power := .failed }) with ports := s.ports.map fun (p : Port) => { p with phyEn := false } }
  have e : s.startEnd r = (List.range s.cfg.nPair).foldl State.assertBypass u := rfl
  have hk : u.keeps (s.startEnd r) [.ports, .aon] := e ▸ State.keeps_foldl _ (fun s i => s.keeps_assertBypass i) _ _
  have hp : ∀ (l : List Nat) (v : State), (l.foldl State.assertBypass v).aon.power = v.aon.power := by
    intro l; induction l with
    | nil => intro v; rfl
    | cons i l ih => intro v; exact (ih _).trans rfl
  have hb : (s.startEnd r).boot = u.boot := hk .boot (by decide)
  have hc : (s.startEnd r).cfg = s.cfg := hk .cfg (by decide)
  refine ⟨by rw [e, hp]; rfl, by rw [hb]; rfl, by rw [hb]; rfl, ⟨?_, ?_⟩, ?_⟩
  · intro p _
    have hoff : ∀ (l : List Nat) (v : State), (v.portAt p).phyEn = false → ((l.foldl State.assertBypass v).portAt p).phyEn = false := by
      intro l; induction l with
      | nil => intro v h; exact h
      | cons i l ih => intro v h; exact ih _ (v.phyEn_assertBypass i p h)
    rw [e]
    apply hoff
    show ((s.ports.map fun (p : Port) => { p with phyEn := false }).getD p Port.initial).phyEn = false
    rw [List.getD_eq_getElem?_getD, List.getElem?_map]
    cases s.ports[p]? <;> rfl
  · intro i hi
    rw [hc] at hi; rw [e]; exact State.foldl_assertBypass _ _ _ hi
  · have h0 : s.keeps u [.boot, .aon, .ports] := by
      intro f hf; cases f <;> first | rfl | exact absurd (by decide) hf
    exact (h0.mono (by decide)).trans (hk.mono (by decide))

/-- A failure may follow changes of time, ports and the gleaner. -/
theorem State.failedFrom.trans {s u t : State} {r : BitVec 8} (h : u.failedFrom t r) (k : s.keeps u [.aon, .boot, .ports, .clk, .gln]) :
    s.failedFrom t r := ⟨h.1, h.2.1, h.2.2.1, h.2.2.2.1, k.trans h.2.2.2.2⟩

/-- A fatal end of start-up takes the snapshot besides (R438). -/
theorem State.startFail_spec (r : Nat) (l : Option SramLoc) : s.failedFrom (s.startFail r l) (BitVec.ofNat 8 r) := by
  obtain ⟨h1, h2, h3, h4, h5⟩ := s.startEnd_spec r
  have k := (s.startEnd r).keeps_snapTrigger (0x80 + r) l
  have ha : (s.startFail r l).aon = (s.startEnd r).aon := k .aon (by decide)
  have hb : (s.startFail r l).boot = (s.startEnd r).boot := k .boot (by decide)
  have hc : (s.startFail r l).cfg = (s.startEnd r).cfg := k .cfg (by decide)
  have hp : (s.startFail r l).ports = (s.startEnd r).ports := k .ports (by decide)
  refine ⟨by rw [ha]; exact h1, by rw [hb]; exact h2, by rw [hb]; exact h3, ?_, h5.trans (k.mono (by decide))⟩
  unfold State.dark State.portAt at *; rw [hc, hp, ha]; exact h4

end Sys2Proof.Machine
end

