-- ==== Sys2Proof/Machine/Outputs.lean ====
section
/-! DEFINITION. The block's outputs as functions of its state: requests to the scratchpad and beats to the matrix engine in a cycle, cells on the
links in a slot, and the values of R79 (02 R51, R57-R63, R67, R71, R75, R79; 15 R353, R363, R375, R392). -/

namespace Sys2Proof.Machine

/-! ## Cells on a link (notes/assumptions/56) -/

/-- The 16 bytes that a lane group carries in beat 0 of an ALIGN cell of count n (R363). -/
def alignGroup (n : Nat) : Bytes := bytesOf ([0xC3, 0xA0 + n % 16] ++ List.replicate 14 0x3C)

/-- An ALIGN cell of count n: the same bytes in each of the eight lane groups in beat 0, and 0x96 in every byte of beat 1 (R363). -/
def alignCell (n : Nat) : Bytes := (List.replicate 8 (alignGroup n)).flatten ++ List.replicate 128 0x96

/-- The count that a lane group's 16 bytes show, if they are an ALIGN cell's (R363). -/
def alignShown (g : Bytes) : Option Nat := (List.range 16).find? fun n => g == alignGroup n

/-- An IDLE cell: a cell of the link with a payload of zeros and its code (R353, R354). -/
def State.idleCell (s : State) : Bytes := wireCell (s.linkHdr 0x00) []

/-- The bytes of a cell that has been handed to a port. -/
def TxCell.bytes (c : TxCell) : Bytes := wireCell c.hdr c.payload

/-- Does a port transmit: its PHY is enabled, and step 1 of training has ended (R67, R70)? -/
def State.transmits (s : State) (p : Nat) : Bool :=
  s.aon.power != .off && (s.portAt p).phyEn && (s.portAt p).phyRdy && decide (2 ≤ (s.portAt p).step)

/-- What a port sends in slot j: ALIGN cells in step 2, without a code; then the cell whose slot this is, in step 4 a TRAIN_ID in every sixteenth
slot, and an IDLE cell in every other slot (R363, R392). Class O keeps each slot with j mod 1024 = 1023 for an IDLE cell (R375). -/
def State.slotCell (s : State) (p j : Nat) : Option Bytes :=
  if !s.transmits p then none
  else if s.inStep p 2 then some (alignCell j)
  else if s.cfg.portClass p = 4 ∧ j % 1024 = 1023 then some s.idleCell
  else
    match s.coll.tx.find? fun c => c.port == p && c.slot == some j with
    | some c => some c.bytes
    | none =>
      if s.inStep p 4 ∧ j % 16 = 0 then some (wireCell (s.linkHdr 0x08) (s.trainIdPayload p (s.portAt p).partner.isSome))
      else some s.idleCell

/-- The beat on PHY_TX_DATA in a CK_L cycle: a slot takes two, bytes 0 to 127 of its cell and then bytes 128 to 255 (R67). -/
def State.txBeat (s : State) (p cycle : Nat) : Option Bytes :=
  (s.slotCell p (cycle / 2)).map fun c => (c.drop (128 * (cycle % 2))).take 128

/-- PHY_TX_SOC: 1 on beat 0 of each cell (R67, R79). -/
def State.txSoc (s : State) (p cycle : Nat) : Bool := s.transmits p && cycle % 2 == 0

/-- The bytes that lane group g carries of a beat (R67). -/
def laneBytes (beat : Bytes) (g : Nat) : Bytes := (beat.drop (16 * g)).take 16

/-! ## Scratchpad and coupler requests -/

/-- Does the block work on its schedule: it asserts no scratchpad, coupler or link request while it is halted or unpowered (R79)? -/
def State.asserts (s : State) : Bool := s.clk.dividers && s.aon.power != .halted && s.aon.power != .off

/-- SP_RD_A_VALID or SP_RD_B_VALID of a slice in a CK_V cycle, with its address: a line's request stands six cycles before its stamp (R58, R59). -/
def State.spRead (s : State) (slice : Nat) (chan : RdChan) (t : Nat) : Option Nat :=
  if s.asserts then
    (((List.range s.cfg.nSeq).flatMap fun q => ((s.seqAt q).run.map Run.stamps).getD []).find? fun x =>
      x.chan == chan && x.line % s.cfg.nSlice == slice && x.cycle == t + 6).map Stamp.line
  else none

/-- SP_WR_VALID of a slice in a CK_V cycle: the line and the bytes that its mask enables (R58, R60). -/
def State.spWrite (s : State) (slice t : Nat) : Option (Nat × List Host.Cell) :=
  if s.asserts then
    (s.agenda.filter fun x => x.cycle == t).findSome? fun x =>
      match x.act with
      | .store _ line cells _ => if line % s.cfg.nSlice = slice then some (line, cells) else none
      | _ => none
  else none

/-- The beat on MC_PRO in a CK_V cycle, where MC_PRO_VALID is 1 (R63, R312). -/
def State.proBeat (s : State) (t : Nat) : Option ProBeat :=
  if s.asserts then s.coup.beats.find? fun b => b.cycle == t else none

/-! ## The table of R79 -/

/-- ALARM_N as its pull-down is driven; an unpowered block leaves the line released (R57, R79). -/
def State.alarmLow (s : State) : Bool := s.aon.power != .off && s.aon.alarmPulled

/-- TDO_EN: 1 while a scan shifts, 0 without the always-on supply (R75, R79). -/
def State.tdoEn (s : State) (shifting : Bool) : Bool := s.tapUp && shifting

/-- The outputs of R79 that are levels. BYP_EN_N of an unpowered block is pulled down, which asserts bypass (R71). -/
structure Levels where
  reqReady : Bool
  rspValid : Bool
  irqMbx : Bool
  irqAlarm : Bool
  alarmLow : Bool
  mcHold : Bool
  phyEn : List Bool
  txSoc : List Bool
  bypLow : List Bool
  secRdReq : Bool
  secLock : Bool
  tdoEn : Bool
deriving DecidableEq, Repr

/-- The levels in a state, in CK_V cycle t and the CK_L cycle of the links, with the test access port shifting or not. -/
def State.levels (s : State) (t cycleL : Nat) (shifting : Bool) : Levels :=
  let ports := List.range s.cfg.nPort
  { reqReady := s.clk.regReady, rspValid := s.rp.valid, irqMbx := s.irqMbx, irqAlarm := s.irqAlarm, alarmLow := s.alarmLow
    mcHold := s.mcHold t, phyEn := ports.map fun p => (s.portAt p).phyEn, txSoc := ports.map fun p => s.txSoc p cycleL
    bypLow := (List.range s.cfg.nPair).map s.bypLow, secRdReq := s.secRdReq, secLock := s.aon.secLock, tdoEn := s.tdoEn shifting }

end Sys2Proof.Machine
end

