-- ==== Sys2Proof/WellFormed.lean ====
section
/-! DEFINITION. Which commands are well formed: operands within the ranges that the ports and registers of the largest
configuration have (R5, R58, R110, R353). What the smaller configurations lack is decided by the machine, not here. -/

namespace Sys2Proof

/-- Mailboxes are numbered 0 to 15 (R110). -/
def mboxOk (m : Nat) : Bool := decide (m < 16)

/-- Sequencers and domains are numbered 0 to 7 (R5, R130). -/
def seqOk (s : Nat) : Bool := decide (s < 8)

/-- Port indices are 0 to 47 (table "Port indices by configuration"). -/
def portOk (p : Nat) : Bool := decide (p < 48)

/-- Positions of a die are 0 to 127 (R5, R184). -/
def posOk (g : Nat) : Bool := decide (g < 128)

/-- A scratchpad line number has 31 bits (R58). -/
def lineOk (l : Nat) : Bool := decide (l < 2 ^ 31)

/-- A received cell: a port and 256 bytes (R353). -/
def cellOk (c : RxCell) : Bool := portOk c.port && decide (c.bytes.length = 256)

/-- Strap levels of at most 48 ports, one each (R47). -/
def strapsOk (s : Straps) : Bool := decide (s.cls.length = 48)

/-- Scratchpad bytes lie below 2^40 (R58); shadowed positions are positions of a die. -/
def givenOk (g : ComputeIn) : Bool := (g.given.all fun c => decide (c.1 < 2 ^ 40)) && g.diffs.all fun x => posOk x.pos

/-- Well-formedness of a command. -/
def Instr.wf : Instr → Bool
  | .coldResetRelease st => strapsOk st
  | .imageAuthenticated given => given.all fun c => decide (c.1 < 2 ^ 40)
  | .bistDone failed => failed.all fun c => decide (c.mem.toNat < 16 ∨ c.inst.toNat < 136)
  | .trainingLimitExpiry p | .portLoss p _ | .portRetrain p | .phyReady p | .poison p _ | .cellStampExpiry p _
  | .maintAckDue p | .maintReplayTimeout p => portOk p
  | .alignCell p counts _ => portOk p && decide (counts.length = 8)
  | .reqTail _ m _ | .cplHead _ m _ | .mbxReset _ m _ => mboxOk m
  | .posMapWrite _ g _ => posOk g
  | .chainRecWrite _ s c w _ => seqOk s && decide (c < 8) && decide (w < 8)
  | .portCtlWrite _ p _ => portOk p
  | .ledgerWordWrite _ w _ => decide (w < 4)
  | .circRouteWordWrite _ (.circ w) _ => decide (w < 4)
  | .echo m | .status m | .mbxConfig m | .expertUnlock m | .expertLock m | .progBegin m | .progChunk m | .progCommit m
  | .epochRun m | .runPrefix m | .epochAbort m | .tableLoad m | .ledgerSet m | .jobLoadWiring m | .jobLoadRoutes m
  | .jobLoadCircuits m | .jobLoadSeeds m | .jobInstall m | .partSetActive m | .partSetDelete m | .portBypassEnter m
  | .portBypassRelease m | .maintEnter m | .maintLeave m | .breakClear m | .breakCount m | .breakTag m
  | .fenceCoreFence m | .fenceCoreShadow m | .fenceCoreShadowEnd m | .fenceCoreRestore m | .badOpcode m => mboxOk m
  | .partitionAdopt s | .epochRelease s | .sync s | .swap s | .endEpoch s | .commandCompletion s
  | .tallyWaitWindowEnd s => seqOk s
  | .compute s g => seqOk s && givenOk g
  | .spReadData s g _ l _ _ | .lineStampExpiry s g _ l _ => seqOk s && posOk g && lineOk l
  | .commitCopyDone d | .localRollbackDone d | .decisionWatchdog d | .rollbackWatchdog d => seqOk d
  | .idleCell c | .trainId c | .trainTime c _ | .trainDone c | .data c | .tag c | .counter c | .bundle c | .abort c
  | .channelBarrier c | .barrierVote c | .barrierDecision c | .rolled c | .rollbackDone c | .syncMessage c
  | .maintAck c | .reservedTypeCell c => cellOk c
  | .bypassSwitchWait i => decide (i < 8)
  | _ => true

end Sys2Proof
end

