-- ==== Sys2Proof/Tests/Slice0.lean ====
section
/-! SUPPORT. The model's own tests: ill-formed commands, states that meet the hypotheses of the statements, and worked examples of the
spec. -/

namespace Sys2Proof.Tests
open Sys2Proof Sys2Proof.Machine

set_option Elab.async false

/-! ## States to test on -/

/-- The smallest configuration. -/
def small : Cfg := { part := .zv4_32_12, silo := .kib32 }

/-- After reset. -/
def cold : State := State.initial small

/-- With the dividers running and every port strapped to its class, in a state of power. -/
def powered (p : Power) : State :=
  { cold with boot := { cold.boot with straps := { Straps.initial with cls := (List.range 48).map fun k => BitVec.ofNat 3 (small.portClass k) } },
              aon := { cold.aon with power := p }, clk := { cold.clk with dividers := true, regReady := true, rackTime := 1000, localTime := 2000 } }

/-- Starting, in a phase. -/
def starting (phase : BitVec 8) : State :=
  let s := powered .starting
  { s with boot := { s.boot with phase := phase } }

/-- RUNNING, with Kolate executing and rack time set. -/
def up : State :=
  let s := powered .running
  { s with boot := { s.boot with phase := 9, ready := true }, kol := { s.kol with running := true }, clk := { s.clk with rackSynced := true } }

/-- MAINTENANCE. -/
def maint : State := { up with aon := { up.aon with power := .maintenance } }

/-- HALTED. -/
def halted : State := { up with aon := { up.aon with power := .halted } }

/-- A federated slave. -/
def slaveDie : State := { up with boot := { up.boot with straps := { up.boot.straps with fedDies := 1, dieId := 1, fedMaster := false } } }

/-- RUNNING with an expert window unlocked. -/
def window (id : Nat) : State := { up with win := { up.win with unlocked := [id] } }

/-- A request in slot 0 of the warden's mailbox 0, with its arguments and data area. -/
def ask (s : State) (op : Nat) (args : List Nat) (data : Bytes := []) : State :=
  s.onMbx 0 fun b => { b with reqTail := 1, mem := (b.mem.writeBytes 0x400 (leBytes 8 (7 + op * 65536) ++ args.flatMap (leBytes 8))).writeBytes 0x1000 data }

/-- The state after a command meets a check. -/
def after (i : Instr) (s : State) (p : State → Bool) : Bool :=
  match exec i s with
  | .next t => p t
  | _ => false

/-! ## Witnesses: the queue, power, start-up, the test port -/

theorem test_front_command_runs : step { up with pending := [.echo 0, .powerOff] } = exec (.echo 0) { up with pending := [.powerOff] } := rfl

theorem test_idle_step : up.pending = [] ∧ up.clk.dividers = true ∧ cold.pending = [] ∧ cold.clk.dividers = false := by decide +kernel

theorem test_reset_meets_invariants : up.memWf = true ∧ up.shaped = true ∧ up.alarmLine = true := by decide +kernel

theorem test_power_hypotheses :
    ({ cold with aon := { cold.aon with power := .off } }).aon.power = .off ∧ cold.aon.power = .standby ∧ (powered .starting).released = true ∧
      ({ powered .starting with clk := { cold.clk with dividers := true } }).clk.regReady = false ∧
      after .registerPortReady { powered .starting with clk := { cold.clk with dividers := true } } (fun t => t.clk.localTime == 128) = true := by
  decide +kernel

theorem test_reset_and_loss : up.released = true ∧ after .clockLoss up (fun t => t.aon.fatal == 1 && t.aon.firstFatal == 1) = true ∧
    after .refLoss up (fun t => t.aon.fatal == 2 && t.aon.firstFatal == 2) = true := by decide +kernel

/-- Phase 0x07 of die 0 of two; port 1 leads to the other die, which has reported its straps. -/
def fed (straps : BitVec 8) : State :=
  let s := starting 7
  let t := { s with boot := { s.boot with straps := { s.boot.straps with fedDies := 1 } } }
  t.onPort 1 fun q => { q with partner := some { PartnerId.ofPayload [] with fed := straps, part := small.partNumber, silo := 32 } }

theorem test_federation : ∀ x ∈ [0x11, 0x12], (fed x).federated = true ∧ (fed x).fedPorts = [1] ∧ ((fed x).portAt 1).partner.isSome = true ∧
    (fed x).fedEqual 1 = (x == 0x11) := by decide +kernel

theorem test_die_checks : (starting 1).aon.power = .starting ∧ (starting 1).boot.phase = 1 ∧ (starting 1).fedStrapsOk = true ∧
    ({ starting 1 with boot := { (starting 1).boot with straps := { Straps.initial with fedDies := 3 } } }).fedStrapsOk = false := by
  decide +kernel

theorem test_self_test : (starting 3).boot.phase = 3 ∧ (starting 3).aon.power = .starting ∧
    ([] : List SramLoc).any centralMem = false ∧ (bistCores 33 []).length ≤ small.nSpare ∧
    ({ starting 4 with boot := { (starting 4).boot with secReq := true } }).boot.secReq = true := by decide +kernel

/-- Phase 0x04 before the fuse word of an index. -/
def fuse (i : Nat) : State := { starting 4 with boot := { (starting 4).boot with secReq := true, fuseIndex := i } }

theorem test_fuse_words : ∀ i ∈ [0, 8, 9, 11, 12, 30, 31], (fuse i).aon.power = .starting ∧ (fuse i).boot.phase = 4 ∧ (fuse i).boot.secReq = true ∧
    (fuse i).boot.fuseIndex = i ∧ (fuse i).slave = false := by decide +kernel

theorem test_boot_go : ∀ p ∈ [4, 5], (starting p).grants 8 true 0x98 = true := by decide +kernel

theorem test_boot_go_again : ∀ r ∈ [4, 5, 6, 9],
    ({ starting 0xFF with boot := { (starting 0xFF).boot with reason := r } }).grants 8 true 0x98 = true := by decide +kernel

/-- Phase 0x06 with an image of 64 bytes to come. -/
def fetched : State := { starting 6 with boot := { (starting 6).boot with imageLen := 64, keysProgrammed := true } }

theorem test_image : fetched.aon.power = .starting ∧ fetched.boot.phase = 6 ∧ (List.replicate 64 (0 : Byte)).length = fetched.boot.imageLen.toNat ∧
    fetched.boot.authentic (List.replicate 64 0) = false ∧ fetched.boot.debugOpened = false := by decide +kernel

theorem test_warm_reset : up.grants 8 true 0xA8 = true ∧ up.aon.debug = .closed := by decide +kernel

theorem test_tap : up.aon.power ≠ .off ∧ up.aon.debug ≠ .opened ∧
    after (.samplePreload [true, true, false]) up (fun t => !t.tap.driving) = true := by decide +kernel

theorem test_debug : maint.aon.power = .maintenance ∧ maint.clk.regReady = true ∧ maint.aon.debug ≠ .opened ∧
    (let s := { up with aon := { up.aon with debug := .erasePending, secLock := true }, boot := { up.boot with erased := true } }
     after .secErased s fun t => t.aon.debug == .opened) = true := by decide +kernel

/-! ## Witnesses: the register port -/

theorem test_refusals : up.regUp = true ∧ up.rspCode 8 true 0x51004 = rspMisaligned ∧ (starting 5).rspCode 8 true 0x1008 = rspNotReady ∧
    halted.rspCode 8 true 0x110008 = rspHalted ∧ halted.rspCode 8 true 0x1008 = rspOk ∧ up.rspCode 8 false 0x7FFFF8 = rspUnmapped ∧
    up.rspCode 1 true 0x50000 = rspDenied ∧ up.rspCode 8 true 0x110008 = rspDenied ∧ slaveDie.rspCode 8 true 0x50000 = rspSlave := by
  decide +kernel

theorem test_register_write : up.gln.die.toNat % 8 = up.boot.straps.dieId.toNat ∧
    ∀ a ∈ [0x50008, 0x50010, 0x50018, 0x88, 0x50000, 0x50338], up.grants 8 true a = true := by decide +kernel

theorem test_mailbox_registers : ∀ m ∈ [0, 15], up.shaped = true ∧ up.grants 8 true (0x1008 + 0x2000 * m) = true ∧
    up.grants 8 true (0x1020 + 0x2000 * m) = true ∧ up.grants 8 true (0x1038 + 0x2000 * m) = true ∧ up.holds m = false ∧
    (up.onKol fun k => { k with held := some ⟨m, 0, 1, false, []⟩ }).holds m = true := by decide +kernel

/-- A counter more than ENTRIES from its counterpart sets OVERRUN (R115). -/
theorem test_overrun : after (.reqTail 8 3 17) up (fun t => (t.mbxAt 3).overrun) = true ∧
    after (.reqTail 8 3 16) up (fun t => (t.mbxAt 3).overrun) = false := by decide +kernel

/-- The SEQUENCER window with CMD_SEL at the last word of the load bank. -/
def cmdWindow (bank : Nat) : State :=
  let s := window 2
  { s with win := { s.win with cmdSel := word (bank * 2 ^ 24 + 32767 * 8) } }

theorem test_command_window : ∀ b ∈ [0, 1], (cmdWindow b).memWf = true ∧ (cmdWindow b).shaped = true ∧ (cmdWindow b).grants 8 true 0x110008 = true ∧
    (cmdWindow b).grants 8 false 0x110008 = true ∧ after (.cmdDataRead 8) (cmdWindow b) (fun t => field t.win.cmdSel 3 15 == 0) = true ∧
    after (.cmdDataWrite 8 5) (cmdWindow b) (fun t => t.rp.code == (if b = 0 then rspDenied else rspOk)) = true := by decide +kernel

/-- The FUNC_EVAL window with TBL_SEL at the last word of a table. -/
def tblWindow : State :=
  let s := window 4
  { s with win := { s.win with tblSel := 319 * 256 + 31 } }

theorem test_table_window : tblWindow.shaped = true ∧ tblWindow.grants 8 false 0x130008 = true ∧ tblWindow.grants 8 true 0x130008 = true ∧
    tblWindow.tableInUse 31 = false ∧ after (.tblDataWrite 8 1) tblWindow (fun t => t.tables.read64 81912 == 1 && t.win.tblSel == 31) = true := by
  decide +kernel

/-- The status record of sequencer 1 with a word, read through the shadow of source 8. -/
def recorded : State := up.onSeq 1 fun x => { x with status := ⟨1, 2, 3, 4⟩ }

theorem test_records : recorded.shaped = true ∧ recorded.grants 8 false 0x22200 = true ∧
    after (.recordWord0Read 8 0x22200) recorded (fun t => t.rp.data == 1 && t.grants 8 false 0x22218 &&
      t.rp.shadows[8]? == some ⟨some 0x22200, ⟨1, 2, 3, 4⟩⟩ && after (.recordWord0Read 8 0x22218) t fun u => u.rp.data == 4) = true ∧
    (window 5).grants 8 false 0x140020 = true := by decide +kernel

theorem test_position_map : (window 3).shaped = true ∧ ∀ g ∈ [0, 31], (window 3).grants 8 true (0x120000 + 8 * g) = true ∧
    (window 3).coreFor g 32 = true ∧ (window 3).posBusy g = false ∧ (window 3).coreFor g 33 = false ∧
    after (.posMapWrite 8 g 0xFF20) (window 3) (fun t => t.cores.serve.getD g g == 32) = true := by decide +kernel

theorem test_coupler_window : (window 8).memWf = true ∧ (window 8).shaped = true ∧ (window 8).anyEpoch = false ∧ (window 8).grants 8 true 0x170000 = true ∧
    (window 8).grants 8 true 0x171000 = true ∧ (window 8).grants 8 true (0x171000 + 0x200 + 0x40 * 7 + 8 * 7) = true ∧
    after (.chainRecWrite 8 1 7 7 0xFFFFFFFFFFFFFFFF) (window 8) (fun t => t.coup.chains.read64 1016 == 0x3FFFFFFFFFFFFF) = true := by decide +kernel

theorem test_links_window : (window 9).shaped = true ∧ (window 9).grants 8 true 0x180000 = true ∧ (window 9).grants 8 true 0x180058 = true ∧
    (window 9).grants 8 true 0x180200 = true ∧ (window 9).strapValid 0 = true ∧ (window 9).pairAbsent 0 = false ∧
    after (.portCtlWrite 8 11 0) (window 9) (fun t => (t.portAt 11).reason == 0x0B) = true := by decide +kernel

theorem test_ledger_window : (window 11).memWf = true ∧ (window 11).shaped = true ∧ (window 11).ledgerHere = true ∧ (window 11).grants 8 true 0x1A0008 = true ∧
    (window 11).grants 8 true 0x1A0020 = true ∧ (window 11).ledgerCheck [(0, setEntryWord ((window 11).entry 0) 0 0)] = 0 := by decide +kernel

theorem test_job_windows : (window 10).shaped = true ∧ (window 10).grants 8 true 0x190008 = true ∧ (window 10).grants 8 true 0x190048 = true ∧
    (window 10).anyEpoch = false := by decide +kernel

/-! ## Witnesses: requests -/

theorem test_simple_requests : (ask up 0x01 [0x55]).serves 0 0x01 = true ∧ (ask maint 0x02 []).serves 0 0x02 = true ∧
    (ask up 0x03 [0x200000]).serves 0 0x03 = true ∧ (ask up 0x03 [0x210002]).serves 0 0x03 = true ∧
    (ask up 0x44 []).kolateFree = true ∧ (ask up 0x44 []).nextMbx = some 0 ∧ opcodes.contains 0x44 = false ∧
    after (.echo 0) (ask up 0x01 [0x55]) (fun t => (t.mbxAt 0).mem.read64 0xC00 == 0x00010007 && (t.mbxAt 0).mem.read64 0xC08 == 0x55) = true := by
  decide +kernel

theorem test_expert_requests : ∀ id ∈ [1, 2, 11, 12], (ask up 0x08 [id]).serves 0 0x08 = true ∧ (ask up 0x09 [id]).serves 0 0x09 = true := by
  decide +kernel

theorem test_expert_unlock : after (.expertUnlock 0) (ask up 0x08 [11]) (fun t => t.win.unlocked == [11]) = true ∧
    after (.expertLock 0) (ask (window 11) 0x09 [11]) (fun t => t.win.unlocked == []) = true := by decide +kernel

/-- A program of one END bundle. -/
def endImage : Bytes := leBytes 4 0x60000

/-- Domain 1 with pen 1, mailbox 2 and the first MiB of the scratchpad. -/
def live : State :=
  let ws : List Word := [0x0000000000000101, 0x0004000000000000, 0, 0x10000000] ++ List.replicate 12 0
  up.onPart 1 fun p => { p with live := true, words := ws, liveNow := true, wordsNow := ws }

/-- Domain 1 loads the program: a session, its bytes, its commitment. -/
def begun : State := match exec (.progBegin 0) (ask live 0x10 [1, 4]) with
  | .next t => t
  | _ => up
def chunked : State := match exec (.progChunk 0) (ask { begun with mbx := up.mbx } 0x11 [1, 0, 0x40000] endImage) with
  | .next t => t
  | _ => up
def committed : State := match exec (.progCommit 0) (ask { chunked with mbx := up.mbx } 0x12 [1]) with
  | .next t => { t with mbx := up.mbx }
  | _ => up

/-- The same state, written out. -/
def armed : State :=
  { live with cmdMem := Mem.writeBytes [] 0x60000 endImage }.onSeq 1 fun x =>
    { x with load := .armed, imgLen := [0, 4], armedAt := 1000 }

theorem test_program_load : (ask live 0x10 [1, 4]).serves 0 0x10 = true ∧ (ask { begun with mbx := up.mbx } 0x11 [1, 0, 0x40000] endImage).serves 0 0x11 = true ∧
    (ask { chunked with mbx := up.mbx } 0x12 [1]).serves 0 0x12 = true ∧ (ask live 0x12 [1]).serves 0 0x12 = true ∧
    committed.seqs = armed.seqs ∧ committed.cmdMem = armed.cmdMem := by decide +kernel

theorem test_program_refused : ∀ n ∈ [0, 3, 131076], (ask live 0x10 [1, n]).serves 0 0x10 = true ∧
    after (.progBegin 0) (ask live 0x10 [1, n]) (fun t => (t.mbxAt 0).mem.read64 0xC00 == 0x06100007) = true := by decide +kernel

/-- EPOCH_RUN of domain 1. -/
def runArgs (start : Nat) : List Nat := [0x0502, start]

theorem test_epoch_requests : ∀ st ∈ [16992, 17000], (ask armed 0x13 (runArgs st)).serves 0 0x13 = true ∧
    (ask armed 0x14 (runArgs st ++ [3, 0x100])).serves 0 0x14 = true ∧ st % small.nSlice = 0 ∧ (armed.seqAt 1).busy = false ∧
    armed.aon.boundaryHalt = 0 ∧ partPens (armed.partAt 1).words ≠ 0 ∧ (armed.partAt 1).live = true ∧ (armed.seqAt 1).runq.length < 8 ∧
    (ask live 0x13 (runArgs st)).serves 0 0x13 = true ∧ (live.seqAt 1).load ≠ .armed := by decide +kernel

theorem test_epoch_run : after (.epochRun 0) (ask armed 0x13 (runArgs 17000)) (fun t => (t.seqAt 1).runq.length == 1 && (t.seqAt 1).activeBank == 1) = true ∧
    after (.epochRun 0) (ask armed 0x13 (runArgs 16992)) (fun t => (t.mbxAt 0).mem.read64 0xC00 == 0x0C130007) = true := by decide +kernel

/-- The same with the release queued, and with the epoch running. -/
def queued : State := armed.onSeq 1 fun x => { x.swapBanks with runq := [.release 17000 5 none 0 0 7] }
def running : State :=
  let s := { armed with clk := { armed.clk with rackTime := 17000 } }
  let r : Run := { Run.initial with start := 17000, epoch := 5, tag := 7, words := s.wordsOf 1 }
  (s.onSeq 1 fun x => { x.swapBanks with run := some { r with timing := { r.timing with pos := List.replicate 16 PosT.initial, slots := [none, none, none, none], slotEnd := [0, 0, 0, 0] } } }).onDom 1 fun c =>
    { c with state := .running, epoch := 5 }

theorem test_epoch_release : queued.shaped = true ∧
    (queued.seqAt 1).runq.find? RunEntry.isRelease = some (.release 17000 5 none 0 0 7) ∧
    (queued.seqAt 1).run = none ∧ queued.aon.power.serves = true ∧ queued.aon.boundaryHalt = 0 ∧ (queued.domAt 1).state = .idle ∧
    after (.epochRelease 1) queued (fun t => (t.seqAt 1).run == (running.seqAt 1).run && t.clk.rackTime == 17000) = true ∧
    running.memWf = true ∧ running.shaped = true := by decide +kernel

theorem test_epoch_abort : (ask up 0x15 [2]).serves 0 0x15 = true ∧ (ask queued 0x15 [2]).serves 0 0x15 = true ∧
    (ask running 0x15 [2]).serves 0 0x15 = true ∧ (running.domAt 1).state.live = true ∧
    after (.epochAbort 0) (ask running 0x15 [2]) (fun t => (t.domAt 1).reason == 0x21) = true := by decide +kernel

theorem test_table_load : (ask up 0x18 [31, 0x600]).serves 0 0x18 = true ∧ (ask up 0x18 [31, 0x608]).serves 0 0x18 = true ∧
    up.tableInUse 31 = false ∧ (ask (window 4) 0x18 [31, 0]).serves 0 0x18 = true := by decide +kernel

theorem test_ledger_set : (ask up 0x19 [0x1000001FF, 0x10] (List.replicate 64 0)).serves 0 0x19 = true ∧
    (let s := ask up 0x19 [0x1000001FF, 0x10] (List.replicate 64 0)
     s.ledgerCheck (s.ledgerData 0 0x10 0x1FF 1) = 0) ∧ up.entryInUse 0x1FF = false ∧
    (let s := ask up 0x19 [0x1000001FF, 0] [3]
     s.serves 0 0x19 = true ∧ s.ledgerCheck (s.ledgerData 0 0 0x1FF 1) ≠ 0) := by decide +kernel

/-- A block of JOB_LOAD for domain 1: part, SEQ, LAST, INSTALL and body. -/
def jobBlock (s : State) (part seq : Nat) (last install : Bool) (body : List Nat) : State :=
  ask s 0x1A [part, (16 + 8 * body.length) * 65536]
    (leBytes 8 (0x77 + seq * 65536 + last.toNat * 2 ^ 24 + install.toNat * 2 ^ 25) ++ leBytes 8 1 ++ body.flatMap (leBytes 8))

/-- Logical chip 5 with an empty circuit part staged, the root of a job of one. -/
def chip5 : State := { live with coll := { live.coll with logicalId := 5 } }
def withCircuits : State := match exec (.jobLoadCircuits 0) (jobBlock chip5 2 0 true false []) with
  | .next t => { t with mbx := up.mbx, kol := up.kol }
  | _ => up

theorem test_job_load : (∀ p ∈ [0, 1, 2, 3], (jobBlock chip5 p 0 false false []).serves 0 0x1A = true) ∧
    ((chip5.domAt 1).outOfOrder ((jobBlock chip5 1 0 false false []).block ((jobBlock chip5 1 0 false false []).reqAt 0))) = false ∧
    ((chip5.domAt 1).outOfOrder ((jobBlock chip5 1 1 false false []).block ((jobBlock chip5 1 1 false false []).reqAt 0))) = true := by decide +kernel

/-- ROUTES words of a root: chips, root 5, no parent; installed after the empty CIRCUITS part. -/
def rootRoutes : List Nat := [5 + 0x3F * 2 ^ 48, 0, 0]

theorem test_job_install : (jobBlock withCircuits 1 0 true true rootRoutes).serves 0 0x1A = true ∧
    (withCircuits.domAt 1).circuits.last = true ∧ (chip5.domAt 1).circuits.last = false ∧
    after (.jobInstall 0) (jobBlock withCircuits 1 0 true true rootRoutes) (fun t => (t.domAt 1).pendingJob.isSome) = true := by decide +kernel

/-- Words of a record: pen 1 and mailboxes of a mask. -/
def record (pens mbxs : Nat) : Bytes := (leBytes 8 (1 + pens * 256) ++ leBytes 8 (mbxs * 2 ^ 48) ++ List.replicate 112 0)

theorem test_part_set : (ask up 0x20 [0x101, 0xF80 - 0xF80] (record 1 4)).serves 0 0x20 = true ∧
    (let s := ask up 0x20 [0x101, 0] (record 1 4)
     let ws := (List.range 16).map fun i => (s.mbxAt 0).mem.read64 (0x1000 + 8 * i)
     recBadArg ws = false ∧ s.recBadRange 1 ws = false) ∧
    after (.partSetActive 0) (ask up 0x20 [0x101, 0] (record 1 4)) (fun t => (t.partAt 1).live && (t.mbxAt 2).owner == 1) = true ∧
    (ask live 0x20 [1]).serves 0 0x20 = true ∧ after (.partSetDelete 0) (ask live 0x20 [1]) (fun t => t.kol.cleaning.isSome) = true ∧
    (ask up 0x20 [1]).serves 0 0x20 = true ∧ (ask running 0x20 [1]).serves 0 0x20 = true ∧
    (running.seqAt 1).run.isSome = true := by decide +kernel

/-- The deletion of domain 1, recorded while its epoch runs, and adopted. -/
def leaving : State := match exec (.partSetDelete 0) (ask running 0x20 [1]) with
  | .next t => t
  | _ => up
def left : State := match exec (.partSetDelete 0) (ask live 0x20 [1]) with
  | .next t => t
  | _ => up

theorem test_part_adopt : leaving.kol.cleaning.map (fun c => (c.dom, c.adopted)) = some (1, false) ∧
    left.kol.cleaning.map (fun c => (c.dom, c.adopted, c.awaitEpoch)) = some (1, true, false) ∧ left.shaped = true ∧
    after .partitionCleanDone left (fun t => t.kol.cleaning.isNone && (t.mbxAt 2).owner == 0xF) = true := by decide +kernel

theorem test_modes : (ask maint 0x21 [0x102]).serves 0 0x21 = true ∧ (ask up 0x21 [2]).serves 0 0x21 = true ∧ up.pairAbsent 2 = false ∧
    up.aon.bypass.getD 2 true = true ∧ up.pairEnabled 2 = true ∧ up.anyEpoch = false ∧ running.anyEpoch = true ∧
    (ask up 0x22 []).serves 0 0x22 = true ∧ (ask maint 0x22 []).serves 0 0x22 = true ∧ (ask maint 0x23 []).serves 0 0x23 = true ∧
    (ask up 0x23 []).serves 0 0x23 = true ∧ (ask running 0x22 []).serves 0 0x22 = true := by decide +kernel

theorem test_breaks : ∀ k ∈ [0, 1, 2, 3], ∀ v ∈ [127, 128], (ask maint 0x24 [1 + k * 256, v, 0xF00]).serves 0 0x24 = true ∧
    (ask up 0x24 [1 + k * 256, v, 0xF00]).serves 0 0x24 = true := by decide +kernel

theorem test_break_set : after (.breakTag 0) (ask maint 0x24 [0x201, 127, 0xF00]) (fun t => (t.seqAt 1).brk == some ⟨true, 127, 0xF00⟩) = true ∧
    after (.breakTag 0) (ask maint 0x24 [0x201, 128, 0xF00]) (fun t => (t.seqAt 1).brk == none) = true := by decide +kernel

/-- Position 7 served by the spare, and shadowed by it. -/
def fenced : State := match exec (.fenceCoreFence 0) (ask up 0x25 [0xF000007]) with
  | .next t => { t with mbx := up.mbx, kol := up.kol }
  | _ => up
def shadowed : State := match exec (.fenceCoreShadow 0) (ask up 0x25 [0xF010007]) with
  | .next t => { t with mbx := up.mbx, kol := up.kol }
  | _ => up

theorem test_fence : (∀ a ∈ [0, 1, 2, 3], (ask up 0x25 [7 + a * 65536 + 0xF000000]).serves 0 0x25 = true) ∧ up.fenceBad 7 0 15 = 0 ∧
    up.fenceBad 32 0 15 = 1 ∧ fenced.fenceBad 8 0 15 = 2 ∧ shadowed.fenceBad 7 2 15 = 0 ∧ fenced.fenceBad 7 3 15 = 0 ∧ up.posBusy 7 = false ∧
    up.cores.chosen 32 7 0 15 = some 32 ∧ fenced.cores.serve.getD 7 7 = 32 ∧ shadowed.cores.shadow.getD 7 none = some 32 ∧
    after (.fenceCoreRestore 0) (ask fenced 0x25 [0xF030007]) (fun t => t.cores.serve.getD 7 0 == 7) = true := by decide +kernel

/-! ## Witnesses: the control core, halts, sequencing, the coupler -/

theorem test_window_traps : up.kol.executes = true ∧ up.kol.inTrap = false ∧ up.kol.spill.length < 32 ∧
    after .windowOverflowTrap up (fun t => t.kol.spill.length == 1 && t.kol.executes && t.kol.cwp == 1) = true := by decide +kernel

theorem test_firmware_halts : up.coreRuns = true ∧ (starting 6).aon.power = .starting ∧ up.aon.power.serves = true ∧ up.epochLeft = false ∧
    running.epochLeft = true ∧ up.kol.running = true ∧ up.kol.fwHalted = false ∧ up.clk.dividers = true := by decide +kernel

theorem test_boundary_halt : ({ up with aon := { up.aon with boundaryHalt := 0x40 } } : State).aon.power.serves = true ∧
    ({ up with aon := { up.aon with boundaryHalt := 0x40 } } : State).epochLeft = false ∧
    ({ running with aon := { up.aon with boundaryHalt := 0x80 } } : State).epochLeft = true := by decide +kernel

/-- Epoch 5 of domain 1 runs an image. -/
def program (img : Bytes) : State :=
  let s := { running with cmdMem := (running.cmdMem.writeBytes (running.segAddr 1 1) img) }
  s.onSeq 1 fun x => { x with imgLen := [0, img.length] }

/-- Is the next command one of a kind that may be released, and do its ledger waits hold? -/
def ready (s : State) (kind : Nat) : Bool :=
  match s.nextCmd 1 with
  | some (r, c, rest) =>
    match timeCmd (s.runEnv 1 r) r.timing c rest s.coll.logicalId.toNat with
    | some (_, ct) => c.hdr.kind == kind && mayRelease r c ct.rel && s.landedBefore r (s.runEnv 1 r) (c :: rest) ct.rel &&
        s.ledgerHolds r c (r.start + ct.rel - 1)
    | none => false
  | none => false

/-- A bundle header without a predicate. -/
def header (slots ndesc kind split : Nat) : Bytes := leBytes 4 (slots + ndesc * 2 ^ 14 + kind * 2 ^ 17 + split * 2 ^ 20)

/-- A descriptor of four FP32 elements at a byte address. -/
def four (addr : Nat) : Bytes := leBytes 32 (addr + (4 + 2 ^ 20) * 2 ^ 64 + 2 ^ 112 + 2 ^ 160 + 2 ^ 208)

/-- The first command moves four elements to another place on one core; then a SYNC and END. -/
def moves : State := program (header 0x81 2 0 4 ++ leBytes 8 1 ++ leBytes 8 0x9 ++ four 0x10000 ++ four 0x20000 ++ header 0 0 1 0 ++ endImage)

/-- A SWAP and END, with a program armed or not. -/
def swaps (l : LoadState) : State := (program (header 0 0 2 0 ++ endImage)).onSeq 1 fun x => { x with load := l }

/-- A SYNC that waits for a ledger tally to reach a threshold. -/
def waits (n : Nat) : State := program (header 1 0 1 0 ++ leBytes 8 (3 * 2 ^ 16 + n * 2 ^ 35) ++ endImage)

/-- The array's first element. -/
def given : ComputeIn := { given := [(0x10000, 0x3F)], hits := [], diffs := [] }

/-- The state after a command that answers one. -/
def next (i : Instr) (s : State) : State := match exec i s with
  | .next t => t
  | _ => up

theorem test_compute : moves.memWf = true ∧ moves.shaped = true ∧ ready moves 0 = true ∧
    after (.compute 1 given) moves (fun t => t.sp.read 0x20000 == 0 && (t.until 17400).sp.read 0x20000 == 0x3F && ready t 1) = true := by decide +kernel

theorem test_other_releases : ready running 3 = true ∧ ready (swaps .armed) 2 = true ∧ ready (swaps .empty) 2 = true ∧ ready (waits 0) 1 = true ∧
    ready (waits 1) 1 = false ∧ after (.swap 1) (swaps .armed) (fun t => (t.seqAt 1).activeBank == 0) = true ∧
    after (.tallyWaitWindowEnd 1) (waits 1) (fun t => (t.domAt 1).state == .aborting) = true := by decide +kernel

/-- May the first command due of domain 1 complete? -/
def dueNow (s : State) (idx : Nat) : Bool :=
  match (s.seqAt 1).run with
  | some r => (s.domAt 1).state == .running && r.firstDue.any fun f => f.idx == idx &&
      s.landedBefore r (s.runEnv 1 r) ((s.activeProgram 1).drop r.nextIdx) f.done
  | none => false

theorem test_completion : (let s := next (.sync 1) (next (.compute 1 given) moves)
    dueNow s 1 && s.memWf && s.shaped && dueNow (next (.commandCompletion 1) s) 0) = true ∧
    dueNow (next (.endEpoch 1) running) 0 = true := by decide +kernel

theorem test_stamps : (let s := next (.compute 1 given) moves
    match (s.seqAt 1).run with
    | some r => s.runsAt 1 r 16 && (r.stampOf 16 .a 128).isSome && (r.stampOf 16 .b 128).isNone
    | none => false) = true := by decide +kernel

/-- Domain 1 owns the coupler; its chain 0 lands FP16 beats in one FP32 sheaf and signals tally 3. A stationary command streams sheaf 0. -/
def coupled : State :=
  let s := program (header 0x81 0 0 0 ++ leBytes 8 2 ++ leBytes 8 (3 + 2 ^ 15) ++ endImage)
  let m := (Mem.write64 [] 512 (word (2 * 2 ^ 13 + 2 ^ 27 + 5 * 2 ^ 33))).write64 568 (word (100 + 200 * 2 ^ 24 + 3 * 2 ^ 48 + 2 ^ 53))
  { s with coup := { s.coup with owner := 1, chains := m } }

/-- After its release, with the generation as a function changes it. -/
def opened (f : Gen → Gen) : State :=
  let s := next (.compute 1 { given with given := [] }) coupled
  { s with coup := { s.coup with gens := s.coup.gens.map f } }

theorem test_beats : (let s := opened id
    s.clk.dividers && !s.mcHold 17115 && s.mcHold 17000 && s.memWf && s.shaped &&
      (s.coup.gens.all fun g => (s.genCycles g).any fun x => s.beatDue g x.1 x.2.1 == 17117 && g.complete s x.2.2)) = true ∧
    after (.epilogueBeat 17117 1 false []) (opened id) (fun t => t.coup.gens.map (fun g => g.beats) == [1]) = true ∧
    after (.mcDrain 17100 1) (opened id) (fun t => t.coup.gens.map (fun g => g.drained) == [true]) = true ∧
    after (.mcDrain 17100 2) (opened id) (fun t => (t.domAt 1).state == .aborting) = true := by decide +kernel

theorem test_landing : (let s := opened fun g => { g with closed := some 17148, fin := 17149 }
    s.memWf && s.shaped && (s.coup.gens.find? fun g => g.closed.isSome && !g.landed).isSome && (s.seqAt 1).run.isSome) = true ∧
    (opened id).coup.gens.find? (fun g => !g.drained) ≠ none ∧ (opened id).coup.gens.find? (fun g => g.closed.isNone) ≠ none ∧
    ({ up with coup := { up.coup with abortWait := true } } : State).coup.abortWait = true := by decide +kernel

/-! ## Witnesses: cells -/

/-- Ports that are UP on a state. -/
def linked (s : State) (ps : List Nat) : State :=
  ps.foldl (fun s p => s.onPort p fun q => { q with state := .up, phyEn := true, phyRdy := true }) s

/-- A cell as port p receives it in a slot. -/
def cell (p slot : Nat) (h : CellHdr) (pay : Bytes) : RxCell := { port := p, slot := slot, wait := 10, bytes := wireCell h pay }

/-- A header for logical chip 5. -/
def hdr (type : BitVec 5) (channel : BitVec 17) (epoch : BitVec 8) (count : BitVec 11) : CellHdr :=
  { dst := 5, src := 6, channel := channel, tenant := 0, seq := 0, epoch := epoch, type := type, efmt := 0, count := count }

/-- Epoch 5 of a job of two: entry 3 receives four FP32 elements on port 0, entry 4 barriers; entry 5 a tagged group on port 6. -/
def channels : State :=
  let w (i f p g n : Nat) : List Word :=
    [word (1 + 5 * 2 ^ 19 + i * 2 ^ 35 + g * 2 ^ 52), word (p + 0xFFFFC0 + 2 ^ 24 + 2 ^ 36), word (f + 2 ^ 32 + n * 2 ^ 48), 0]
  let s := (linked running [0, 1, 6]).onDom 1 fun c =>
    { c with activeJob := some { routes := [5 + 2 ^ 16 + 0x3F * 2 ^ 48, 2, 3], seeds := [], circuits := w 3 8 0 0 1 ++ w 4 9 0 0 1 ++ w 5 8 6 1 2 } }
  let ws : List Word := [0x101, 0x0004000000000043, 0x1000000000, 0x10000000] ++ List.replicate 12 0
  let s := s.onPart 1 fun p => { p with words := ws, wordsNow := ws }
  let e (count : Nat) : Entry := ⟨2 + 16 * 2 ^ 10 + 256 * 2 ^ 24, 512 + count * 2 ^ 32, 0, 0⟩
  { ((s.setEntry 3 (e 4)).setEntry 4 (e 0)).setEntry 5 (e 4) with coll := { s.coll with logicalId := 5 } }

/-- A received cell opens to its header and payload. -/
def opens (c : RxCell) (h : CellHdr) (pay : Bytes) : Bool :=
  (openCell c.bytes).any fun x => (cellParts x.1).1 == h && (cellParts x.1).2.take pay.length == pay

theorem test_channel_state : channels.memWf = true ∧ channels.shaped = true ∧ channels.receives 0 = true ∧ channels.isUp 0 = true ∧
    channels.chanDom 0 = some 1 ∧ (channels.openSlot 1 0 6808).map (fun x => (x.idx, x.t, x.k)) = some (0, 0, 0) ∧
    (channels.openSlot 1 0 6809).map (fun x => (x.idx, x.t, x.k)) = some (1, 0, 0) ∧
    (channels.openSlot 1 6 6809).map (fun x => (x.idx, x.t, x.k)) = some (2, 0, 1) ∧ (channels.domAt 1).state = .running ∧
    channels.protectedDom 0 ≠ some 1 := by decide +kernel

set_option maxRecDepth 100000 in
theorem test_data_cell : opens (cell 0 6808 (hdr 1 3 5 4) [1, 2, 3]) (hdr 1 3 5 4) [1, 2, 3] = true ∧
    after (.data (cell 0 6808 (hdr 1 3 5 4) [1, 2, 3])) channels (fun t => (t.entry 3).tally == 0 &&
      (let u := t.until 17200; u.sp.readBytes 262144 3 == [1, 2, 3] && (u.entry 3).tally == 1)) = true := by
  decide +kernel

/-! ## Witnesses: link training, control cells, maintenance, patrol -/

/-- Port p of a state in a step of training. -/
def inTraining (p k : Nat) (f : Port → Port := id) : State :=
  up.onPort p fun q => f { q with state := .training, step := k, phyEn := true, phyRdy := true }

/-- A training or maintenance cell on a port. -/
def plain (p : Nat) (type : BitVec 5) (pay : Bytes) : RxCell := cell p 5 (hdr type 0 0 0) pay

/-- The identity of port 0, as its own neighbour would send it, and a round trip without delay. -/
def identity : Bytes := up.trainIdPayload 0 true
def trip : Bytes := payloadOf [(0, 8, 8000), (8, 8, 7900), (16, 8, 7900), (24, 1, 3)]

theorem test_training_states : (∀ k ∈ [1, 2, 3, 4, 5, 6], (inTraining 0 k).inStep 0 k = true ∧ (inTraining 0 k).receives 0 = true) ∧
    up.chanDom 0 = none ∧ up.strapValid 0 = true ∧ up.strap 0 = 1 ∧ (PartnerId.ofPayload identity).cls = 1 ∧ (PartnerId.ofPayload identity).ack = true ∧
    ({ inTraining 0 2 with clk := { up.clk with localTime := 39 } } : State).receives 0 = false ∧
    after (.alignCell 0 (List.replicate 8 3) 8) (inTraining 0 2 fun q => { q with alignRun := 63, alignLast := some 2 })
      (fun t => (t.portAt 0).step == 3) = true := by decide +kernel

set_option maxRecDepth 100000 in
theorem test_training_cells : opens (plain 0 8 identity) (hdr 8 0 0 0) identity = true ∧
    (let t := (inTraining 0 4).gotTrainId 0 (PartnerId.ofPayload identity)
     (t.portAt 0).step == 5 && t.coll.tx.map (·.hdr.type) == [8, 9]) = true := by
  decide +kernel

theorem test_calibration : ((inTraining 0 5).untilLocal (8000 / 4)).inStep 0 5 = true ∧ payNum trip 8 8 ≠ 0 ∧
    up.calibFault 0 (Calib.ofTrip 0 0) = none ∧
    (∀ n ∈ [0, 15], (inTraining 0 5 fun q => { q with calibRun := n }).inStep 0 5 = true) ∧
    (inTraining 0 6 fun q => { q with partner := some (PartnerId.ofPayload identity) }).upState 0 = (.maintOnly, some 0x11) ∧
    ({ inTraining 0 6 (fun q => { q with partner := some { PartnerId.ofPayload identity with noSched := false } }) with
       boot := { up.boot with keysProgrammed := true } } : State).upState 0 = (.up, some 0) := by decide +kernel

/-- Ports of ring pair 0 down, with the pair in bypass. -/
def pairDown : State := [6, 7].foldl (fun s p => s.onPort p fun q => { q with state := .down, reason := 9, ctl := 1 }) up

theorem test_loss_and_retraining : up.shaped = true ∧ (linked up [0, 10]).strapValid 0 = true ∧ ((linked up [0, 10]).portAt 0).trained = true ∧
    (linked up [0, 10]).edgesFit 0 13 = true ∧ (linked up [0, 10]).edgesFit 0 14 = false ∧ (linked up [0, 10]).edgesFit 10 14 = true ∧
    pairDown.mayRetrain 6 = true ∧ (pairDown.untilLocal 16000000).mayRetrain 6 = true ∧ (up.onPort 0 fun q => { q with state := .down }).mayRetrain 0 = true ∧
    after (.portRetrain 6) pairDown (fun t => !(t.aon.bypass.getD 0 true) && (t.portAt 7).state == .training && !(t.portAt 7).phyEn &&
      after (.bypassSwitchWait 0) t fun u => (u.portAt 6).step == 1 && (u.portAt 7).phyEn) = true := by decide +kernel

/-- Class O port 10 up. -/
def optical : State := linked up [10]

theorem test_elastic_buffer : optical.buffered 10 = true ∧ (optical.portAt 10).elastic = [] ∧
    after (.poison 10 5) optical (fun t => (t.portAt 10).elastic.length == 1 && (t.portAt 10).poisoned == 0) = true := by decide +kernel

theorem test_lost_cells : channels.buffered 0 = false ∧ (channels.portAt 0).trained = true ∧ channels.fedSlot 0 6808 = false ∧
    channels.slotMarked 1 0 6808 = false ∧ channels.usesOf 1 0 6808 ≠ [] ∧ channels.controlUse 1 0 6910 = true ∧
    (channels.openSlot 1 0 6910).isNone = true ∧ channels.stamped 0 = true ∧ ((channels.until (channels.stampAt 0 6910)).domAt 1).state.live = true ∧
    after (.cellStampExpiry 0 6808) channels (fun t => (t.domAt 1).reason == 0x23) = true ∧
    after (.cellStampExpiry 0 6910) channels (fun t => (t.domAt 1).reason == 0x23) = true ∧
    after (.poison 0 6808) channels (fun t => (t.domAt 1).reason == 0x22) = true := by decide +kernel

/-- Die 1 of two, with port 0 to the master and port 1 up; its domain 1 runs. -/
def fedSlave : State :=
  let s := linked running [0, 1]
  { s with boot := { s.boot with straps := { s.boot.straps with fedDies := 1, dieId := 1, fedMaster := false } } }

theorem test_slave_loses_a_bundle : fedSlave.slave = true ∧ fedSlave.fedSlot 0 6807 = true ∧
    (fedSlave.until (fedSlave.stampAt 0 6807)).shaped = true ∧
    after (.cellStampExpiry 0 6807) fedSlave (fun t => (t.domAt 1).reason == 7) = true := by decide +kernel

/-- The END bundle of domain 1, as the master sends it. -/
def endCell : RxCell := cell 0 6807 (hdr 5 0 5 0) endImage

set_option maxRecDepth 100000 in
theorem test_bundle : opens endCell (hdr 5 0 5 0) endImage = true ∧ fedSlave.fedSeq (hdr 5 0 5 0) = some 1 ∧
    (let t := fedSlave.bundleCell 1 6807 (hdr 5 0 5 0) (padPayload endImage)
     (t.seqAt 1).fed == endImage && t.fedIn == []) = true ∧
    (let t := (fedSlave.onSeq 1 fun x => { x with run := none }).bundleCell 1 6807 (hdr 5 0 5 0) (padPayload endImage)
     (t.seqAt 1).runq.any RunEntry.isRelease) = true := by
  decide +kernel

/-- A vote of port 1 to commit, and the domain that waits for it. -/
def vote : Bytes := payloadOf [(0, 1, 1), (1, 1, 1), (6, 2, 0)]
def voting : State := channels.onDom 1 fun c => { c with state := .voting, endTime := 17000 }

set_option maxRecDepth 100000 in
theorem test_control_cells : opens (cell 1 6910 (hdr 3 0 5 0) vote) (hdr 3 0 5 0) vote = true ∧
    (voting.controlDom (cell 1 6910 (hdr 3 0 5 0) vote) (hdr 3 0 5 0)) = some 1 ∧
    (voting.controlDom (cell 1 6910 (hdr 4 0 5 0) []) (hdr 4 0 5 0)) = some 1 ∧ voting.printHolds 1 vote = true ∧
    voting.printHolds 1 (payloadOf [(0, 1, 1), (8, 8, 1)]) = false ∧ voting.isRoot 1 = true ∧ voting.elasticDone 1 = true ∧
    (∀ w ∈ [10, 41], outOfWindow w = (w == 41)) := by decide +kernel

theorem test_watchdogs : (voting.domAt 1).state = .voting ∧ voting.aon.power.serves = true ∧ voting.quiet = true ∧
    ((voting.until ((voting.domAt 1).endTime + voting.barrierWd 1)).domAt 1).state.live = true ∧
    after (.decisionWatchdog 1) voting (fun t => (t.domAt 1).reason == 0x26) = true := by decide +kernel

/-- Domain 1 commits, aborts, or has rolled back. -/
def inState (e : EpochState) : State := channels.onDom 1 fun c => { c with state := e, commitTime := 17000, abortTime := 17000 }

theorem test_commit : (inState .committing).memWf = true ∧ ((inState .committing).domAt 1).state = .committing ∧
    (inState .committing).aon.power.serves = true ∧
    after (.commitCopyDone 1) (inState .committing) (fun t => (t.domAt 1).state == .idle && (t.domAt 1).commitValid) = true := by decide +kernel

theorem test_rollback : (inState .aborting).memWf = true ∧ (inState .aborting).countersDone 1 = true ∧ (inState .aborting).coup.abortWait = false ∧
    (inState .rolled).isRoot 1 = true ∧ ((inState .rolled).domAt 1).participants = 2 ∧
    after (.localRollbackDone 1) (inState .aborting) (fun t => (t.domAt 1).state == .rolled) = true ∧
    (∀ e ∈ [EpochState.aborting, .rolled], after (.rollbackWatchdog 1) (inState e)
      fun t => (t.domAt 1).state == .idle && (t.domAt 1).reason == 0x28 && t.aon.fatal == 0x20) := by decide +kernel

/-- A message in sequence on port 1 of an idle chip, and on port 0 of one that has rolled. -/
def message (pay : Bytes) : RxCell := plain 1 0x0C pay
def syncBody : Bytes := payloadOf [(0, 1, 1), (8, 2, 1), (16, 8, 9000)]
def rolledBody : Bytes := payloadOf [(0, 1, 2), (2, 2, 5), (4, 2, 6), (6, 1, 1), (7, 1, 5)]

set_option maxRecDepth 100000 in
theorem test_messages : opens (message syncBody) (hdr 0x0C 0 0 0) syncBody = true ∧ (linked up [1]).carries 1 = true ∧ (linked up [1]).chanDom 1 = none ∧
    ((linked up [1]).portAt 1).mrxSeq = 0 ∧
    (let t := (linked up [1]).takeSync 1 syncBody
     t.coll.syncTarget == some 9000 && (t.portAt 1).mtxSeq == 1) = true ∧
    (inState .rolled).ofEpoch 1 rolledBody = true ∧ (inState .rolled).chanDom 1 = none := by decide +kernel

theorem test_sync_edge : let s : State := { running with coll := { running.coll with syncTarget := some 9000 } }
    s.clk.dividers = true ∧ s.quiet = true ∧ (s.untilLocal (9000 / 4)).shaped = true ∧ ((s.untilLocal (9000 / 4)).domAt 1).state.live = true ∧
    after .rackSyncEdge s (fun t => t.clk.rackTime == 0 && (t.domAt 1).reason == 0x27) = true := by decide +kernel

/-- Port 6 is protected by domain 1's key. -/
def keyed : State := (inState .aborting).onPart 1 fun p => { p with hasKey := true }

theorem test_counter : keyed.protectedDom 6 = some 1 ∧ keyed.carries 6 = true ∧ (keyed.portAt 6).mrxSeq = 0 ∧ keyed.chanDom 6 = none ∧
    (∀ q ∈ [true, false], let s := (linked up [1]).onPort 1 fun p => { p with ackDue := q, unacked := [(0, [0x0C])] }
      s.shaped = true ∧ s.carries 1 = true ∧ (s.portAt 1).unacked ≠ []) := by decide +kernel

/-- Whatever authenticates a COUNTER cell, some payload carries it. -/
theorem test_counter_genuine (key : BitVec 256) (info : Nat) : ∃ pay : Bytes, payNum pay 8 16 = (Config.counterTag key info).toNat := by
  refine ⟨List.replicate 8 0 ++ leBytes 16 (Config.counterTag key info).toNat, ?_⟩
  have h : (leBytes 16 (Config.counterTag key info).toNat).length = 16 := leBytes_length _ _
  unfold payNum
  rw [List.drop_left' (by simp), List.take_of_length_le (by omega), leNat_leBytes]
  exact Nat.mod_eq_of_lt (BitVec.isLt _)

theorem test_patrol : up.clk.dividers = true ∧ up.aon.power.serves = true ∧ (up.entry 0).kind = 0 ∧
    (∀ m ∈ [1, 3, 10], after (.patrolRead m .clean) up fun t => t.gln.patrolDue m.toNat == 2064 && t.gln.patrolNext m.toNat == 1 &&
      after (.patrolRead m .clean) t fun u => u.clk.localTime == 2064 && u.gln.patrolNext m.toNat == 2) = true ∧
    after (.patrolRead 5 .uncorrectable) up (fun t => t.aon.power == .halted) = true ∧
    (up.onGln fun g => { g with found := (2000, [⟨5, 0, 0⟩]) }).gln.found.1 = up.clk.localTime := by decide +kernel

/-! ## Witnesses: what falls due, other dies, stalls -/

theorem test_agenda_store : let s : State := { up with agenda := [⟨1001, 1, .store 0 0 [(5, 1)] false⟩] }
    s.pending = [] ∧ (s.ports.all fun q => q.queue == [] && q.elastic == []) = true ∧ s.clk.rackTime + 1 = 1001 ∧ up.quiet = true ∧
    (match step s with | .next t => t.sp.read 5 == 1 && t.agenda == [] | _ => false) = true := by decide +kernel

theorem test_start_up_limits : (∀ p ∈ [3, 7], (starting p).quiet = true ∧ (starting p).clk.dividers = true) ∧ (fuse 5).quiet = true ∧
    (fuse 5).clk.dividers = true := by decide +kernel

/-- Die 0 of two, the master, with a window unlocked. -/
def master (id : Nat) : State := { window id with boot := { up.boot with straps := { up.boot.straps with fedDies := 1 } } }

theorem test_other_die : (master 3).shaped = true ∧ (master 3).grants 8 true (0x120000 + 8 * 40) = true ∧ (master 3).posRuns 40 = false ∧
    ({ master 11 with win := { (master 11).win with ledgerSel := 2 ^ 32 } } : State).ledgerHere = false ∧
    ({ master 11 with win := { (master 11).win with ledgerSel := 2 ^ 32 } } : State).grants 8 true 0x1A0008 = true ∧
    ((master 3).onGln fun g => { g with die := 1 }).grants 8 true 0x50008 = true ∧
    (ask (master 0) 0x25 [40 + 0xF000000]).serves 0 0x25 = true ∧ (master 0).fenceBad 40 0 15 = 0 ∧ (master 0).quiet = true := by decide +kernel

/-- A context entry whose HEAD moves while domain 1 runs. -/
theorem test_head_moves : let s := channels.setEntry 0 ⟨5 + 14 * 2 ^ 10, 1024 + 0x3F800000 * 2 ^ 32, 0, 0⟩
    let t : State := { s with win := { s.win with unlocked := [11] } }
    t.grants 8 true 0x1A0018 = true ∧ t.memWf = true ∧ t.shaped = true ∧ t.ledgerHere = true ∧
    t.movesSpan 0 (setEntryWord (t.entry 0) 2 (1 + 2 ^ 32)) = true ∧ t.ledgerCheck [(0, setEntryWord (t.entry 0) 2 (1 + 2 ^ 32))] = 0 := by
  decide +kernel

/-- Domain 1 with a full run queue, and a request that its mailbox holds. -/
def fullQueue (s : State) : State := s.onSeq 1 fun x => { x with runq := List.replicate 8 .abort }
def heldRequest (op : Nat) : Req := ⟨0, 7, BitVec.ofNat 8 op, false, (runArgs 17000).map word⟩

theorem test_stalls : (ask (fullQueue armed) 0x13 (runArgs 17000)).serves 0 0x13 = true ∧
    after (.epochRun 0) (ask (fullQueue armed) 0x13 (runArgs 17000)) (fun t => t.kol.stalled && t.kol.held.isSome &&
      after .watchdog t fun u => u.kol == t.kol) = true ∧
    (∀ op ∈ [0x13, 0x14], let s := armed.onKol fun k => { k with held := some (heldRequest op) }
      s.kol.works = true ∧ s.kol.stalled = false ∧ s.shaped = true ∧ after (if op = 0x13 then .epochRun 0 else .runPrefix 0) s
        fun t => t.kol.held.isNone && t.kol.waiting.length == 1) ∧
    (ask (fullQueue running) 0x20 [1]).serves 0 0x20 = true := by decide +kernel

theorem test_abort_of_a_waiting_request : let s := (queued.onSeq 1 fun x => { x with runq := [.release 17000 5 none 0 1 7] }).onKol fun k =>
      { k with waiting := [{ heldRequest 0x13 with mbox := 1 }] }
    (ask s 0x15 [2]).serves 0 0x15 = true ∧ (∀ q ∈ [0, 2, 3], (s.seqAt q).runq = []) ∧
    after (.epochAbort 0) (ask s 0x15 [2]) (fun t => t.kol.waiting == [] && (t.seqAt 1).runq == []) = true := by decide +kernel

theorem test_trap_limits : let full := up.onKol fun k => { k with spill := List.replicate 32 [] }
    full.kol.executes = true ∧ full.kol.inTrap = false ∧ after .windowOverflowTrap full (fun t => t.kol.fwHalted && t.kol.inTrap) = true ∧
    after .windowUnderflowTrap full (fun t => t.kol.spill.length == 31) = true ∧
    (up.onKol fun k => { k with inTrap := true }).kol.executes = true ∧
    ((up.untilLocal (up.kol.wdogSince + 2000000)).kol.executes && up.quiet) = true := by decide +kernel

theorem test_refused_store : (let s := next (.compute 1 given) moves
    match (s.seqAt 1).run with
    | some r => s.runsAt 1 r 16 && (s.agenda.find? fun y => y.storesAt 1 16 256).isSome && ((s.until 17060).domAt 1).state.live &&
        after (.lineStampExpiry 1 16 .wr 256 true) s fun t => t.sp.read 0x20000 == 0 && t.agenda.length == 1
    | none => false) = true := by decide +kernel

theorem test_coupler_deadlines : (let s := opened id
    s.coup.gens.all fun g => (s.drainDue g).any fun due => ((s.until (due + 1)).domAt 1).state.live &&
      after (.mcDrain (due + 5) 1) s (fun t => (t.domAt 1).state == .aborting) && after .drainDeadline s fun t => (t.domAt 1).reason == 1) = true ∧
    after .epilogueBeatNotPresented (opened id) (fun t => (t.domAt 1).reason == 1) = true := by decide +kernel

end Sys2Proof.Tests
end

section
/-! PROOFS. The shape of a state, that is the numbers of its units, and that every function of the model keeps it: one lemma for each
function that gives a state, in the order of the model (R5, R110, R130, R184, R424, R445). The step lemma follows from them. -/

namespace Sys2Proof.Machine

/-! ## The shape -/

/-- The numbers of positions, of shadows and of cores. -/
def Cores.sizes (c : Cores) : Nat × Nat × Nat := (c.serve.length, c.shadow.length, c.phys.length)

@[simp] theorem Cores.sizes_mk (phys serve shadow sheaves silos) :
    Cores.sizes ⟨phys, serve, shadow, sheaves, silos⟩ = (serve.length, shadow.length, phys.length) := (rfl)

@[simp] theorem Cores.sizes_mk_eq (c : Cores) : (c.serve.length, c.shadow.length, c.phys.length) = c.sizes := (rfl)

@[simp] theorem Cores.sizes_retire (n : Nat) (c : Cores) (k : Nat) : (Cores.retire n c k).sizes = c.sizes := by
  simp [Cores.retire]

@[simp] theorem Cores.sizes_setShadow (n : Nat) (c : Cores) (g : Nat) (k : Option Nat) : (Cores.setShadow n c g k).sizes = c.sizes := by
  unfold Cores.setShadow
  split
  · rfl
  · extract_lets a b
    have ha : a.sizes = c.sizes := by
      unfold a
      split
      · split
        · rfl
        · exact Cores.sizes_retire ..
      · rfl
    have hb : b.sizes = c.sizes := by rw [← ha]; simp [b, -Cores.sizes_mk_eq, Cores.sizes]
    split
    · rw [← hb]; simp
    · exact hb

@[simp] theorem Cores.sizes_setServe (n : Nat) (c : Cores) (g k : Nat) : (Cores.setServe n c g k).sizes = c.sizes := by
  simp only [Cores.setServe]
  split <;> simp [Cores.retire]

@[simp] theorem Cores.sizes_bistReplace (n : Nat) (c : Cores) (k : Nat) : (Cores.bistReplace n c k).sizes = c.sizes := by
  unfold Cores.bistReplace
  extract_lets spare
  split
  · simp
  · rfl

theorem Cores.sizes_foldl {α : Type} (f : Cores → α → Cores) (h : ∀ c a, (f c a).sizes = c.sizes) (l : List α) (c : Cores) :
    (l.foldl f c).sizes = c.sizes := by
  induction l generalizing c with
  | nil => rfl
  | cons a l ih => rw [List.foldl_cons, ih, h]

@[simp] theorem Cores.sizes_bistFence (n : Nat) (c : Cores) (ks : List Nat) : (Cores.bistFence n c ks).sizes = c.sizes :=
  (Cores.sizes_foldl _ (Cores.sizes_bistReplace n) ks _).trans (Cores.sizes_foldl _ (fun c k => by simp) ks c)

/-- The configuration and the number of units of each kind that `State.shaped` speaks of. -/
structure Shape where
  cfg : Cfg
  mbx : Nat
  seqs : Nat
  parts : Nat
  doms : Nat
  ports : Nat
  bypass : Nat
  pairHeld : Nat
  serve : Nat
  shadow : Nat
  phys : Nat
  epiStatus : Nat
  shadows : Nat

/-- The shape of a state. -/
def State.shape (s : State) : Shape :=
  ⟨s.cfg, s.mbx.length, s.seqs.length, s.parts.length, s.coll.doms.length, s.ports.length, s.aon.bypass.length, s.pairHeld.length,
    s.cores.serve.length, s.cores.shadow.length, s.cores.phys.length, s.coup.epiStatus.length, s.rp.shadows.length⟩

/-- The shape that a configuration asks for (R5, R110, R130, R184, R424, R445). -/
def Shape.of (c : Cfg) : Shape :=
  ⟨c, 16, c.nSeq, c.nSeq, c.nSeq, c.nPort, c.nPair, c.nPair, c.nActive, c.nActive, c.nActive + c.nSpare, c.nSeq, 16⟩

/-- A shape is the one that its configuration asks for. -/
def Shape.Fits (k : Shape) : Prop := k = Shape.of k.cfg

theorem State.shaped_iff (s : State) : s.shaped = true ↔ s.shape.Fits := by
  simp [State.shaped, State.shape, Shape.of, Shape.Fits]

@[simp] theorem State.shape_initial (c : Cfg) : (State.initial c).shape = Shape.of c := by
  simp [State.initial, State.shape, Shape.of, Aon.initial, Coll.initial, Cores.initial, Coupler.initial, RegPort.initial]

/-- Every next state of an outcome has the shape of s. -/
def Res.KeepsShape (r : Res) (s : State) : Prop := ∀ t, r = .next t → t.shape = s.shape

@[simp] theorem Res.keepsShape_next (s t : State) : Res.KeepsShape (.next t) s ↔ t.shape = s.shape := by
  simp [Res.KeepsShape]

@[simp] theorem Res.keepsShape_refused (s : State) (r : Refusal) : Res.KeepsShape (.refused r) s := by
  simp [Res.KeepsShape]

@[simp] theorem State.shape_foldl {α : Type} (f : State → α → State) (h : ∀ s a, (f s a).shape = s.shape) (l : List α) (s : State) :
    (l.foldl f s).shape = s.shape := by
  induction l generalizing s with
  | nil => rfl
  | cons a l ih => rw [List.foldl_cons, ih, h]

/-- The same for a fold that carries a result beside the state. -/
theorem State.shape_foldl_fst {α β : Type} (f : State × β → α → State × β) (h : ∀ x a, (f x a).1.shape = x.1.shape) (l : List α)
    (x : State × β) : (l.foldl f x).1.shape = x.1.shape := by
  induction l generalizing x with
  | nil => rfl
  | cons a l ih => rw [List.foldl_cons, ih, h]

@[simp] theorem State.shape_ite (c : Prop) [Decidable c] (s t : State) :
    (if c then s else t).shape = if c then s.shape else t.shape := apply_ite ..

@[simp] theorem Res.keepsShape_ite (c : Prop) [Decidable c] (r q : Res) (s : State) :
    Res.KeepsShape (if c then r else q) s ↔ if c then r.KeepsShape s else q.KeepsShape s := by split <;> rfl

/-- A state written out has the lengths of its parts. -/
@[simp] theorem State.shape_mk (cfg aon clk boot rp win mbx kol parts keyHigh cmdMem seqs cores tables ledger ckpt sp coup ports pairHeld coll fedIn
    fedOut agenda gln tap free pending) :
    State.shape ⟨cfg, aon, clk, boot, rp, win, mbx, kol, parts, keyHigh, cmdMem, seqs, cores, tables, ledger, ckpt, sp, coup, ports, pairHeld,
      coll, fedIn, fedOut, agenda, gln, tap, free, pending⟩ =
    ⟨cfg, mbx.length, seqs.length, parts.length, coll.doms.length, ports.length, aon.bypass.length, pairHeld.length,
      cores.serve.length, cores.shadow.length, cores.phys.length, coup.epiStatus.length, rp.shadows.length⟩ := (rfl)

/-- The lengths of a state's parts are its shape. -/
@[simp] theorem Shape.mk_lengths (s : State) :
    (⟨s.cfg, s.mbx.length, s.seqs.length, s.parts.length, s.coll.doms.length, s.ports.length, s.aon.bypass.length, s.pairHeld.length,
      s.cores.serve.length, s.cores.shadow.length, s.cores.phys.length, s.coup.epiStatus.length, s.rp.shadows.length⟩ : Shape) = s.shape := (rfl)

variable (s : State)

@[simp] theorem State.shape_onSeq (i : Nat) (f) : (s.onSeq i f).shape = s.shape := by
  simp [State.shape, -Shape.mk_lengths]

@[simp] theorem State.shape_onPart (i : Nat) (f) : (s.onPart i f).shape = s.shape := by
  simp [State.shape, -Shape.mk_lengths]

@[simp] theorem State.shape_onPort (i : Nat) (f) : (s.onPort i f).shape = s.shape := by
  simp [State.shape, -Shape.mk_lengths]

@[simp] theorem State.shape_onMbx (i : Nat) (f) : (s.onMbx i f).shape = s.shape := by
  simp [State.shape, -Shape.mk_lengths]

@[simp] theorem State.shape_onDom (i : Nat) (f) : (s.onDom i f).shape = s.shape := by
  simp [State.shape, -Shape.mk_lengths]

@[simp] theorem State.shape_onKol (f) : (s.onKol f).shape = s.shape := rfl
@[simp] theorem State.shape_onGln (f) : (s.onGln f).shape = s.shape := rfl
@[simp] theorem State.shape_onBoot (f) : (s.onBoot f).shape = s.shape := rfl
@[simp] theorem State.shape_onWin (f) : (s.onWin f).shape = s.shape := rfl
@[simp] theorem State.shape_onAon (f) (h : ∀ a, (f a).bypass.length = a.bypass.length) : (s.onAon f).shape = s.shape := by
  simp [State.shape, -Shape.mk_lengths, h]

@[simp] theorem State.shape_onCoup (f) (h : ∀ c, (f c).epiStatus.length = c.epiStatus.length) : (s.onCoup f).shape = s.shape := by
  simp [State.shape, -Shape.mk_lengths, h]

@[simp] theorem State.shape_onColl (f) (h : ∀ c, (f c).doms.length = c.doms.length) : (s.onColl f).shape = s.shape := by
  simp [State.shape, -Shape.mk_lengths, h]

@[simp] theorem State.shape_onCores (f) (h : ∀ c, (f c).sizes = c.sizes) : (s.onCores f).shape = s.shape := by
  have h' := h s.cores
  simp only [Cores.sizes, Prod.mk.injEq] at h'
  simp [State.shape, -Shape.mk_lengths, h']

@[simp] theorem keepsShape_whenTrue (c : Bool) (t : State) (h : t.shape = s.shape) : Res.KeepsShape (whenTrue c s t) s := by
  unfold whenTrue; split
  · exact (Res.keepsShape_next s t).2 h
  · exact (Res.keepsShape_next s s).2 rfl

/-! ## Time, free values, the gleaner and mailbox rings -/

@[simp] theorem State.shape_fresh : s.fresh.2.shape = s.shape := by simp [State.fresh]
@[simp] theorem State.shape_event (code source dom detail) : (s.event code source dom detail).shape = s.shape := by simp [State.event]
@[simp] theorem State.shape_warn (b) : (s.warn b).shape = s.shape := by simp [State.warn]
@[simp] theorem State.shape_clock (n) : (s.clock n).shape = s.shape := by simp [State.clock]
@[simp] theorem State.shape_trace (q w0 w1) : (s.trace q w0 w1).shape = s.shape := by simp [State.trace]
@[simp] theorem State.shape_snapTrigger (trigger loc) : (s.snapTrigger trigger loc).shape = s.shape := by simp [State.snapTrigger]
@[simp] theorem State.shape_latchFatal (code loc) : (s.latchFatal code loc).shape = s.shape := by simp [State.latchFatal]
@[simp] theorem State.shape_post (m e) : (s.post m e).shape = s.shape := by simp [State.post]
@[simp] theorem State.shape_finishReset (m) : (s.finishReset m).shape = s.shape := by simp [State.finishReset]
@[simp] theorem State.shape_resetMbx (m) : (s.resetMbx m).shape = s.shape := by simp [State.resetMbx]
@[simp] theorem State.shape_complete (r code detail r1 r2 r3) :
    (s.complete r code detail r1 r2 r3).shape = s.shape := by simp [State.complete]

/-! ## Programs, the federation path and the ledger's tallies -/

@[simp] theorem State.shape_unarmIf (p) : (s.unarmIf p).shape = s.shape := by simp [State.unarmIf]
@[simp] theorem State.shape_fedSend (die m) : (s.fedSend die m).shape = s.shape := by simp [State.fedSend]
@[simp] theorem State.shape_fedAll (m) : (s.fedAll m).shape = s.shape := by simp [State.fedAll]
@[simp] theorem State.shape_onRun (q f) : (s.onRun q f).shape = s.shape := by simp [State.onRun]
@[simp] theorem State.shape_setEntry (e x) : (s.setEntry e x).shape = s.shape := by simp [State.setEntry]
@[simp] theorem State.shape_zeroTally (e) : (s.zeroTally e).shape = s.shape := by simp [State.zeroTally]
@[simp] theorem State.shape_zeroTallies (cs) : (s.zeroTallies cs).shape = s.shape := by simp [State.zeroTallies]
@[simp] theorem State.shape_checkpoint (e) : (s.checkpoint e).shape = s.shape := by simp [State.checkpoint]
@[simp] theorem State.shape_restoreLedger (d) : (s.restoreLedger d).shape = s.shape := by simp [State.restoreLedger]
@[simp] theorem State.shape_clearCheckpoints (d) : (s.clearCheckpoints d).shape = s.shape := by simp [State.clearCheckpoints]
@[simp] theorem State.shape_refreshFps : s.refreshFps.shape = s.shape := by simp [State.refreshFps]

/-! ## Cells and the states of ports -/

@[simp] theorem State.shape_send (c) : (s.send c).shape = s.shape := by simp [State.send]
@[simp] theorem State.shape_sendControl (d type p t payload) :
    (s.sendControl d type p t payload).shape = s.shape := by simp [State.sendControl]

@[simp] theorem State.shape_sendMaint (p type dst payload) : (s.sendMaint p type dst payload).shape = s.shape := by simp [State.sendMaint]
@[simp] theorem State.shape_replay (p) : (s.replay p).shape = s.shape := by simp [State.replay]
@[simp] theorem State.shape_routeMaint (d dst payload) : (s.routeMaint d dst payload).shape = s.shape := by
  unfold State.routeMaint
  split <;> simp

@[simp] theorem State.shape_sendTrainId (p ack) : (s.sendTrainId p ack).shape = s.shape := by simp [State.sendTrainId]
@[simp] theorem State.shape_identityRefresh : s.identityRefresh.shape = s.shape := by simp [State.identityRefresh]
@[simp] theorem State.shape_setPort (p st reason) : (s.setPort p st reason).shape = s.shape := by simp [State.setPort]
@[simp] theorem State.shape_settlePort (p) : (s.settlePort p).shape = s.shape := by
  unfold State.settlePort
  split <;> simp

@[simp] theorem State.shape_applyIdentity (p) : (s.applyIdentity p).shape = s.shape := by simp [State.applyIdentity]
@[simp] theorem State.shape_applyIdentities : s.applyIdentities.shape = s.shape := by simp [State.applyIdentities]
@[simp] theorem State.shape_portOff (p st reason) : (s.portOff p st reason).shape = s.shape := by simp [State.portOff]
@[simp] theorem State.shape_portDown (p reason) : (s.portDown p reason).shape = s.shape := by simp [State.portDown]
@[simp] theorem State.shape_assertBypass (i) : (s.assertBypass i).shape = s.shape := by simp [State.assertBypass]
@[simp] theorem State.shape_pairLost (p reason) : (s.pairLost p reason).shape = s.shape := by
  unfold State.pairLost
  split <;> simp

@[simp] theorem State.shape_pairBypass (i) : (s.pairBypass i).shape = s.shape := by simp [State.pairBypass]
@[simp] theorem State.shape_startTraining (p) : (s.startTraining p).shape = s.shape := by simp [State.startTraining]

@[simp] theorem State.shape_releaseBypass (i) : (s.releaseBypass i).shape = s.shape := by
  unfold State.releaseBypass
  split
  extract_lets u wait
  have h : ∀ t p, (wait t p).shape = t.shape := fun t p => by
    rw [State.shape_setPort, State.shape_onPort]
  rw [h, h]
  exact State.shape_onAon _ _ fun x => List.length_set

@[simp] theorem State.shape_openRx (c) : (s.openRx c).1.shape = s.shape := by
  unfold State.openRx
  split <;> simp

@[simp] theorem State.shape_recordWait (p w) : (s.recordWait p w).shape = s.shape := by simp [State.recordWait]

/-! ## Ends of epochs -/

@[simp] theorem State.shape_writeData (m off ws) : (s.writeData m off ws).shape = s.shape := by simp [State.writeData]
@[simp] theorem State.shape_postEnds : s.postEnds.shape = s.shape := by simp [State.postEnds]
@[simp] theorem State.shape_endPart (q r aborted detail time) :
    (s.endPart q r aborted detail time).shape = s.shape := by simp [State.endPart]

@[simp] theorem State.shape_stopEpoch (q stop time) : (s.stopEpoch q stop time).shape = s.shape := by
  unfold State.stopEpoch
  split <;> simp

@[simp] theorem State.shape_sendAbort (d reason origin time) : (s.sendAbort d reason origin time).shape = s.shape := by
  unfold State.sendAbort
  split <;> simp

@[simp] theorem State.shape_sendCounters (d) : (s.sendCounters d).shape = s.shape := by simp [State.sendCounters]

@[simp] theorem State.shape_abortCoupler (d) : (s.abortCoupler d).shape = s.shape := by
  unfold State.abortCoupler
  split
  · exact State.shape_onCoup _ _ fun c => rfl
  · rfl

@[simp] theorem State.shape_dropWork (d) : (s.dropWork d).shape = s.shape := by simp [State.dropWork]
@[simp] theorem State.shape_abortEpoch (d reason remote) : (s.abortEpoch d reason remote).shape = s.shape := by simp [State.abortEpoch]
@[simp] theorem State.shape_saveHalt (q) : (s.saveHalt q).shape = s.shape := by
  unfold State.saveHalt
  split <;> simp

@[simp] theorem State.shape_runtimeHalt (q h) : (s.runtimeHalt q h).shape = s.shape := by simp [State.runtimeHalt]
@[simp] theorem State.shape_clearSheaves (d) : (s.clearSheaves d).shape = s.shape := by simp [State.clearSheaves]

@[simp] theorem State.shape_rollbackComplete (d detail time) : (s.rollbackComplete d detail time).shape = s.shape := by
  unfold State.rollbackComplete
  dsimp only
  split
  · simp
  · split <;> simp

@[simp] theorem State.shape_sendRolled (d) : (s.sendRolled d).shape = s.shape := by
  unfold State.sendRolled
  dsimp only
  split
  · simp
  · split <;> simp

@[simp] theorem State.shape_rootCount (d) : (s.rootCount d).shape = s.shape := by simp [State.rootCount]
@[simp] theorem State.shape_commitDecided (d) : (s.commitDecided d).shape = s.shape := by simp [State.commitDecided]
@[simp] theorem State.shape_sendDecision (d value reason) : (s.sendDecision d value reason).shape = s.shape := by
  unfold State.sendDecision
  split <;> simp

@[simp] theorem State.shape_settle (d commit reason from_) : (s.settle d commit reason from_).shape = s.shape := by simp [State.settle]
@[simp] theorem State.shape_bumpKey (d k) : (s.bumpKey d k).shape = s.shape := by simp [State.bumpKey]

@[simp] theorem State.shape_voteUp (d) : (s.voteUp d).shape = s.shape := by
  unfold State.voteUp
  dsimp only
  split
  · simp
  · simp

@[simp] theorem State.shape_endCompleted (d) : (s.endCompleted d).shape = s.shape := by simp [State.endCompleted]
@[simp] theorem State.shape_enterHalted : s.enterHalted.shape = s.shape := by simp [State.enterHalted]
@[simp] theorem State.shape_haltDomain (d) : (s.haltDomain d).shape = s.shape := by simp [State.haltDomain]
@[simp] theorem State.shape_dropQueues : s.dropQueues.shape = s.shape := by simp [State.dropQueues]
@[simp] theorem State.shape_fatalNow (code loc) : (s.fatalNow code loc).shape = s.shape := by simp [State.fatalNow]
@[simp] theorem State.shape_dropAllPorts : s.dropAllPorts.shape = s.shape := by simp [State.dropAllPorts]
@[simp] theorem State.shape_boundaryHaltAt (code) : (s.boundaryHaltAt code).shape = s.shape := by simp [State.boundaryHaltAt]
@[simp] theorem State.shape_takeBoundaryHalt : s.takeBoundaryHalt.shape = s.shape := by simp [State.takeBoundaryHalt]
@[simp] theorem State.shape_startEnd (reason) : (s.startEnd reason).shape = s.shape := by simp [State.startEnd]
@[simp] theorem State.shape_startFail (reason loc) : (s.startFail reason loc).shape = s.shape := by simp [State.startFail]
@[simp] theorem State.shape_startStop (reason) : (s.startStop reason).shape = s.shape := by simp [State.startStop]

/-! ## Firmware halts and memory errors -/

@[simp] theorem State.shape_recordFatal (reason) : (s.recordFatal reason).shape = s.shape := by simp [State.recordFatal]

@[simp] theorem State.shape_firmwareHalt (reason) : (s.firmwareHalt reason).shape = s.shape := by
  unfold State.firmwareHalt
  extract_lets t
  have ht : t.shape = s.shape := s.shape_recordFatal reason
  split
  · rw [State.shape_startFail, ht]
  · rw [State.shape_takeBoundaryHalt, State.shape_boundaryHaltAt, State.shape_dropQueues, ht]
  · rw [State.shape_takeBoundaryHalt, State.shape_boundaryHaltAt, State.shape_dropQueues, ht]
  · exact ht

@[simp] theorem State.shape_memEvent (code l) : (s.memEvent code l).shape = s.shape := by simp [State.memEvent]
@[simp] theorem State.shape_correctedWord (l) : (s.correctedWord l).shape = s.shape := by simp [State.correctedWord]
@[simp] theorem State.shape_zeroedWord (l) : (s.zeroedWord l).shape = s.shape := by simp [State.zeroedWord]
@[simp] theorem State.shape_sramUe (l) : (s.sramUe l).shape = s.shape := by simp [State.sramUe]
@[simp] theorem State.shape_cmdUe (l bank a) : (s.cmdUe l bank a).shape = s.shape := by simp [State.cmdUe]
@[simp] theorem State.shape_ledgerUe (l a) : (s.ledgerUe l a).shape = s.shape := by simp [State.ledgerUe]
@[simp] theorem State.shape_tableUe (l a) : (s.tableUe l a).shape = s.shape := by simp [State.tableUe]
@[simp] theorem State.shape_gleanerUe (a) : (s.gleanerUe a).shape = s.shape := by simp [State.gleanerUe]
@[simp] theorem State.shape_mailboxUe (m) : (s.mailboxUe m).shape = s.shape := by simp [State.mailboxUe]
@[simp] theorem State.shape_uncorrectable (l) : (s.uncorrectable l).shape = s.shape := by
  unfold State.uncorrectable
  split <;> simp

@[simp] theorem State.shape_uncorrectableOnce (l) : (s.uncorrectableOnce l).shape = s.shape := by simp [State.uncorrectableOnce]
@[simp] theorem State.shape_foundWord (l a) : (s.foundWord l a).shape = s.shape := by
  unfold State.foundWord
  split <;> simp

@[simp] theorem State.shape_coreCorrected (l) : (s.coreCorrected l).shape = s.shape := by simp [State.coreCorrected]

@[simp] theorem State.shape_coreUe (q idx off l) : (s.coreUe q idx off l).shape = s.shape := by
  unfold State.coreUe
  extract_lets k
  split
  · split
    · split <;> simp
    · rfl
  · next t _ _ =>
    have ht : t.shape = s.shape := by
      unfold t
      split <;> simp
    rw [State.shape_event, State.shape_onCores _ _ fun c => by simp, ht]
  · rfl

@[simp] theorem State.shape_takeHit (q idx off h) : (s.takeHit q idx off h).shape = s.shape := by
  unfold State.takeHit
  repeat' split
  all_goals simp

@[simp] theorem State.shape_takeDiff (q idx d) : (s.takeDiff q idx d).shape = s.shape := by simp [State.takeDiff]

/-! ## Sends, deliveries and reductions -/

@[simp] theorem State.shape_emit (d p slot h payload) : (s.emit d p slot h payload).shape = s.shape := by simp [State.emit]
@[simp] theorem State.shape_openOut (d i p) : (s.openOut d i p).1.shape = s.shape := by
  unfold State.openOut
  split <;> simp

@[simp] theorem State.shape_sendData (d i c src t n efmt count payload) :
    (s.sendData d i c src t n efmt count payload).shape = s.shape := by
  simp [State.sendData]

@[simp] theorem State.shape_sendBarrier (d c src t payload) :
    (s.sendBarrier d c src t payload).shape = s.shape := by simp [State.sendBarrier]

@[simp] theorem State.shape_sendOwnBarrier (d c t) : (s.sendOwnBarrier d c t).shape = s.shape := by simp [State.sendOwnBarrier]
@[simp] theorem State.shape_later (d t a) : (s.later d t a).shape = s.shape := by simp [State.later]
@[simp] theorem State.shape_countTally (d e n) : (s.countTally d e n).shape = s.shape := by simp [State.countTally]
@[simp] theorem State.shape_deliver (d e t n payload) : (s.deliver d e t n payload).shape = s.shape := by
  unfold State.deliver
  split <;> simp

@[simp] theorem State.shape_enqueue (d p i e t n payload) : (s.enqueue d p i e t n payload).shape = s.shape := by simp [State.enqueue]
@[simp] theorem State.shape_deliverVia (d i c e t n payload) : (s.deliverVia d i c e t n payload).shape = s.shape := by
  unfold State.deliverVia
  split <;> simp

@[simp] theorem State.shape_deliverBarrier (d i c e) : (s.deliverBarrier d i c e).shape = s.shape := by simp [State.deliverBarrier]

@[simp] theorem State.shape_reduceOut (d i c x m ks) : (s.reduceOut d i c x m ks).shape = s.shape := by
  unfold State.reduceOut
  extract_lets els w payload target t
  have ht : t.shape = s.shape := State.shape_onDom _ _ _
  cases target with
  | some e => rw [State.shape_deliverVia, ht]
  | none => rw [State.shape_sendData, ht]

@[simp] theorem State.shape_addTerm (d i c t term) : (s.addTerm d i c t term).shape = s.shape := by
  unfold State.addTerm
  extract_lets same old new t
  refine (State.shape_foldl _ (fun u m => ?_) _ _).trans (State.shape_onDom _ _ _)
  split
  · exact State.shape_reduceOut ..
  · rfl

@[simp] theorem State.shape_addBarrier (d i c t src) : (s.addBarrier d i c t src).shape = s.shape := by
  unfold State.addBarrier
  extract_lets same old new u full
  have hu : u.shape = s.shape := State.shape_onDom _ _ _
  split
  · split
    · rw [State.shape_deliverBarrier, hu]
    · rw [State.shape_sendOwnBarrier, hu]
  · exact hu

@[simp] theorem State.shape_sendTransfer (e entry t stream owned) : (s.sendTransfer e entry t stream owned).shape = s.shape := by
  simp [State.sendTransfer]

@[simp] theorem State.shape_takeSend (d a) : (s.takeSend d a).shape = s.shape := by
  unfold State.takeSend
  extract_lets circ
  split
  · split <;> simp
  · split <;> simp
  · split
    · split <;> simp
    · rfl
  · rfl

/-! ## Cycles pass -/

@[simp] theorem State.shape_storeLine (d cells arrival) : (s.storeLine d cells arrival).shape = s.shape := by simp [State.storeLine]
@[simp] theorem State.shape_leftWindow (d idx off pos stream line) : (s.leftWindow d idx off pos stream line).shape = s.shape := by
  simp [State.leftWindow]

@[simp] theorem State.shape_takeAct (d a) : (s.takeAct d a).shape = s.shape := by
  unfold State.takeAct
  split <;> simp

@[simp] theorem State.shape_queueWrite (p t) : (s.queueWrite p t).shape = s.shape := by
  unfold State.queueWrite
  split
  · next w ws d _ _ =>
    extract_lets home t u
    have ht : t.shape = s.shape := by
      unfold t
      split
      · split <;> simp
      · rfl
    have hu : u.shape = s.shape := by
      unfold u
      split
      · rw [State.shape_storeLine, ht]
      · exact ht
    split
    · rw [State.shape_voteUp, State.shape_bumpKey, State.shape_countTally, State.shape_onPort, hu]
    · rw [State.shape_onPort, hu]
  · rfl

@[simp] theorem State.shape_takeDue (t port) : (s.takeDue t port).shape = s.shape := by
  unfold State.takeDue
  repeat' split
  all_goals simp

@[simp] theorem State.shape_runTo (n : Nat) (s : State) (t : Nat) : (State.runTo n s t).shape = s.shape := by
  induction n generalizing s with
  | zero => exact s.shape_clock _
  | succ n ih =>
    unfold State.runTo
    split
    · split
      · rw [ih, State.shape_takeDue, State.shape_clock]
      · exact s.shape_clock _
    · exact s.shape_clock _

@[simp] theorem State.shape_pass (n) : (s.pass n).shape = s.shape := by
  unfold State.pass
  split
  · split
    · exact s.shape_clock n
    · exact State.shape_runTo _ _ _
  · rfl

@[simp] theorem State.shape_until (t) : (s.until t).shape = s.shape := by simp [State.until]
@[simp] theorem State.shape_untilLocal (t) : (s.untilLocal t).shape = s.shape := by simp [State.untilLocal]

/-! ## Cells of channels -/

@[simp] theorem State.shape_relayPoison (d u) : (s.relayPoison d u).shape = s.shape := by
  unfold State.relayPoison
  split <;> simp

@[simp] theorem State.shape_countMissing (p) : (s.countMissing p).shape = s.shape := by simp [State.countMissing]
@[simp] theorem State.shape_markSlot (d p slot) : (s.markSlot d p slot).shape = s.shape := by simp [State.markSlot]
@[simp] theorem State.shape_slotMissing (d p slot u) : (s.slotMissing d p slot u).shape = s.shape := by simp [State.slotMissing]
@[simp] theorem State.shape_slotPoisoned (d p slot) : (s.slotPoisoned d p slot).shape = s.shape := by simp [State.slotPoisoned]
@[simp] theorem State.shape_rxFail (d p slot u x) : (s.rxFail d p slot u x).shape = s.shape := by
  unfold State.rxFail
  split <;> simp

@[simp] theorem State.shape_openData (d i p g h payload) : (s.openData d i p g h payload).1.shape = s.shape := by
  unfold State.openData
  split
  · extract_lets have_
    cases have_ with
    | some y => exact State.shape_onDom _ _ _
    | none => exact (State.shape_onDom _ _ _).trans (State.shape_onPort _ _ _)
  · rfl

@[simp] theorem State.shape_acceptData (d p u h n payload) : (s.acceptData d p u h n payload).shape = s.shape := by
  unfold State.acceptData
  extract_lets c
  have ho := s.shape_openData d u.idx p (c.gIn s.cfg) h payload
  split
  next t clear heq =>
    rw [heq] at ho
    split
    · rw [State.shape_deliverVia, ho]
    · extract_lets v
      have hv : v.shape = t.shape := by
        show (if c.xdeliv then _ else t).shape = _
        simp
      rw [State.shape_sendData, hv, ho]
    · rw [State.shape_addTerm, ho]
    · exact ho

/-! ## Ledger writes -/

@[simp] theorem State.shape_writeEntry (i x) : (s.writeEntry i x).shape = s.shape := by simp [State.writeEntry]
@[simp] theorem State.shape_writeEntries (ws) : (s.writeEntries ws).shape = s.shape := by simp [State.writeEntries]

/-! ## Register reads -/

@[simp] theorem State.shape_respond (code data) : (s.respond code data).shape = s.shape := by simp [State.respond]
@[simp] theorem State.shape_fillShadow (src a) : (s.fillShadow src a).shape = s.shape := by
  unfold State.fillShadow
  split <;> simp

@[simp] theorem State.shape_advanceSel (a) : (s.advanceSel a).shape = s.shape := by
  unfold State.advanceSel
  split
  · exact State.shape_onWin _ _
  · exact State.shape_onWin _ _
  · rfl

@[simp] theorem State.shape_regRead (src a) : (s.regRead src a).shape = s.shape := by simp [State.regRead]

/-! ## Start-up and resets -/

@[simp] theorem State.shape_keepOutside (t) : (State.keepOutside s t).shape = t.shape := by
  rfl

@[simp] theorem State.shape_mainCleared (a : Aon) (hs : s.shape.Fits) (ha : a.bypass.length = s.cfg.nPair) :
    (s.mainCleared a).shape = s.shape := by
  have h : (s.mainCleared a).shape = (State.initial s.cfg).shape := by
    simp [State.mainCleared, ← Shape.mk_lengths (State.initial s.cfg), ha, -Shape.mk_lengths]
    exact List.length_replicate.symm
  rw [h, State.shape_initial]
  exact hs.symm

@[simp] theorem State.shape_checkStrap (p) : (s.checkStrap p).shape = s.shape := by simp [State.checkStrap]
@[simp] theorem State.shape_ready : s.ready.shape = s.shape := by simp [State.ready]
@[simp] theorem State.shape_endPhase8 : s.endPhase8.shape = s.shape := by simp [State.endPhase8]
@[simp] theorem State.shape_startPhase8 : s.startPhase8.shape = s.shape := by simp [State.startPhase8]
@[simp] theorem State.shape_startPhase7 : s.startPhase7.shape = s.shape := by simp [State.startPhase7]

@[simp] theorem State.shape_startPhase4 : s.startPhase4.shape = s.shape := by
  unfold State.startPhase4
  extract_lets t u
  have ht : t.shape = s.shape := State.shape_onBoot _ _
  split
  · rw [State.shape_onBoot, ht]
  · have hu : u.shape = s.shape := (State.shape_onAon _ _ fun _ => rfl).trans ((State.shape_onBoot _ _).trans ht)
    split
    · rw [State.shape_startPhase7, hu]
    · rw [State.shape_onBoot, hu]

@[simp] theorem State.shape_bootGo : s.bootGo.shape = s.shape := by simp [State.bootGo]

@[simp] theorem State.shape_warmCleared (hs : s.shape.Fits) : s.warmCleared.shape = s.shape := by
  simp only [Shape.Fits, State.shape, Shape.of, Shape.mk.injEq] at hs
  simp [State.warmCleared, State.keepOutside, State.shape, -Shape.mk_lengths, State.initial, Coll.initial, Coupler.initial, RegPort.initial, hs]

@[simp] theorem State.shape_warmReset (hs : s.shape.Fits) : s.warmReset.shape = s.shape := by
  have h := State.shape_foldl State.haltDomain State.shape_haltDomain (List.range s.cfg.nSeq) s
  rw [State.warmReset, State.shape_startPhase4, State.shape_warmCleared _ (h ▸ hs), h]

@[simp] theorem keepsShape_execPowerOn (hs : s.shape.Fits) : Res.KeepsShape (execPowerOn s) s := by
  unfold execPowerOn
  split
  · exact (Res.keepsShape_next _ _).2 ((State.shape_initial s.cfg).trans hs.symm)
  · simp

@[simp] theorem keepsShape_execPowerOff (hs : s.shape.Fits) : Res.KeepsShape (execPowerOff s) s := by
  exact (Res.keepsShape_next _ _).2 ((State.shape_mk ..).trans ((State.shape_initial s.cfg).trans hs.symm))

@[simp] theorem keepsShape_execColdResetRelease (straps) : Res.KeepsShape (execColdResetRelease straps s) s := by
  unfold execColdResetRelease
  split <;> simp

@[simp] theorem keepsShape_execMainResetAssert (pin) (hs : s.shape.Fits) : Res.KeepsShape (execMainResetAssert pin s) s := by
  unfold execMainResetAssert
  split
  · exact (Res.keepsShape_next _ _).2 (State.shape_mainCleared s _ hs List.length_replicate)
  · split <;> simp

@[simp] theorem State.shape_stopWork (d) : (s.stopWork d).shape = s.shape := by simp [State.stopWork]
@[simp] theorem State.shape_linkLossHalt : s.linkLossHalt.shape = s.shape := by simp [State.linkLossHalt]
@[simp] theorem keepsShape_execClockLoss : Res.KeepsShape (execClockLoss s) s := by
  unfold execClockLoss
  repeat' split
  all_goals simp

@[simp] theorem keepsShape_execRefLoss : Res.KeepsShape (execRefLoss s) s := by
  unfold execRefLoss
  split <;> simp

@[simp] theorem keepsShape_execBistDone (failed) : Res.KeepsShape (execBistDone failed s) s := by
  unfold execBistDone
  repeat' split
  all_goals simp

@[simp] theorem keepsShape_execFuseReadAck (data err) : Res.KeepsShape (execFuseReadAck data err s) s := by
  unfold execFuseReadAck
  repeat' split
  all_goals simp

/-! ## Register writes -/

@[simp] theorem State.shape_writePosMap (g data) : ∀ t, s.writePosMap g data = some t → t.shape = s.shape := by
  unfold State.writePosMap
  extract_lets k h n
  split
  · simp
  · rintro t ⟨⟩
    refine State.shape_onCores _ _ fun c => ?_
    extract_lets d e
    rw [Cores.sizes_setShadow, Cores.sizes_setServe]
    unfold d
    split <;> simp

@[simp] theorem State.shape_writeMailbox (m off data) : (s.writeMailbox m off data).shape = s.shape := by
  unfold State.writeMailbox
  split <;> simp

@[simp] theorem State.shape_clearFatal (data) : (s.clearFatal data).shape = s.shape := by simp [State.clearFatal]
@[simp] theorem State.shape_writeGleaner (off data) : (s.writeGleaner off data).shape = s.shape := by
  unfold State.writeGleaner
  split <;> simp

@[simp] theorem State.shape_writeThere (die m refused) : (s.writeThere die m refused).2.shape = s.shape := by
  simp only [State.writeThere]
  split <;> simp

@[simp] theorem State.shape_writePos (g data) : (s.writePos g data).2.shape = s.shape := by
  unfold State.writePos
  extract_lets n refused
  split
  · split
    next t h => exact State.shape_writePosMap s _ _ t h
    · simp
  · split <;> simp

@[simp] theorem State.shape_writeCmdData (data) : (s.writeCmdData data).2.shape = s.shape := by
  unfold State.writeCmdData
  extract_lets bank q t u
  split
  · simp
  · rw [State.shape_advanceSel, State.shape_onSeq]
    rfl

@[simp] theorem State.shape_writeTblData (data) : (s.writeTblData data).2.shape = s.shape := by
  unfold State.writeTblData
  split <;> simp

@[simp] theorem State.shape_writeCoupler (off data) : (s.writeCoupler off data).2.shape = s.shape := by
  unfold State.writeCoupler
  repeat' split
  all_goals simp

@[simp] theorem State.shape_writePortCtl (p data) : (s.writePortCtl p data).2.shape = s.shape := by
  unfold State.writePortCtl
  extract_lets old lp ok lpbk t u
  split
  · simp
  · have hu : u.shape = s.shape := by
      rw [State.shape_onPort]
      unfold t
      split <;> simp
    split
    · exact hu
    · rw [State.shape_pairLost, hu]

@[simp] theorem State.shape_writePairBypass (data) : (s.writePairBypass data).2.shape = s.shape := by
  unfold State.writePairBypass
  split <;> simp

@[simp] theorem State.shape_writeJobWord (sel f) : (s.writeJobWord sel f).2.shape = s.shape := by
  unfold State.writeJobWord
  repeat' split
  all_goals simp

@[simp] theorem State.shape_writeCirc (w data) : (s.writeCirc w data).2.shape = s.shape := by simp [State.writeCirc]
@[simp] theorem State.shape_writeRoute (data) : (s.writeRoute data).2.shape = s.shape := by simp [State.writeRoute]

@[simp] theorem State.shape_writeLedgerWord (k data) : (s.writeLedgerWord k data).2.shape = s.shape := by
  unfold State.writeLedgerWord
  extract_lets i refused x
  split
  · simp
  · split <;> simp

@[simp] theorem State.shape_writeExpert (id off data) : (s.writeExpert id off data).2.shape = s.shape := by
  unfold State.writeExpert
  split <;> simp

@[simp] theorem State.shape_writeStartup (a data) (hs : s.shape.Fits) : (s.writeStartup a data).2.shape = s.shape := by
  unfold State.writeStartup
  repeat' split
  all_goals simp [hs]

@[simp] theorem State.shape_writeReg (a data) (hs : s.shape.Fits) : (s.writeReg a data).2.shape = s.shape := by
  unfold State.writeReg
  split <;> simp [hs]

@[simp] theorem State.shape_regWrite (src a data) (hs : s.shape.Fits) :
    (s.regWrite src a data).shape = s.shape := by simp [State.regWrite, hs]

@[simp] theorem keepsShape_portRequest (t) (h : t.shape = s.shape) : Res.KeepsShape (portRequest s t) s := by
  exact keepsShape_whenTrue s _ t h

/-! ## Ronno requests -/

@[simp] theorem State.shape_take (r) : (s.take r).shape = s.shape := by simp [State.take]
@[simp] theorem State.shape_answer (r code) : (s.answer r code).shape = s.shape := by simp [State.answer]
@[simp] theorem keepsShape_ronno (m : Nat) (pick : State → Req → Bool) (run : Req → State → State)
    (hrun : ∀ r t, (run r t).shape = t.shape) : Res.KeepsShape (ronno m pick run s) s := by
  simp [ronno, hrun]

@[simp] theorem keepsShape_ronnoEntry (m : Nat) (pick : State → Req → Bool) (run : Req → State → State) (add : Req → State → State)
    (hrun : ∀ r t, (run r t).shape = t.shape) (hadd : ∀ r t, (add r t).shape = t.shape) :
    Res.KeepsShape (ronnoEntry m pick run add s) s := by
  unfold ronnoEntry
  split <;> simp [hrun, hadd]

@[simp] theorem shape_runEcho (r) : (runEcho r s).shape = s.shape := by simp [runEcho]
@[simp] theorem shape_runStatus (r) : (runStatus r s).shape = s.shape := by simp [runStatus]
@[simp] theorem shape_runMbxConfig (r) : (runMbxConfig r s).shape = s.shape := by simp [runMbxConfig]
@[simp] theorem shape_runProgBegin (r) : (runProgBegin r s).shape = s.shape := by simp [runProgBegin]

@[simp] theorem shape_runProgChunk (r) : (runProgChunk r s).shape = s.shape := by
  unfold runProgChunk
  extract_lets q off src n code bs
  split
  · exact State.shape_answer ..
  · split
    · exact State.shape_answer ..
    · split
      · exact State.shape_answer ..
      · split
        · exact State.shape_answer ..
        · rw [State.shape_answer, State.shape_onSeq]
          exact State.shape_mk ..

@[simp] theorem State.shape_queueRelease (r q start epoch stopAt snap) : (s.queueRelease r q start epoch stopAt snap).shape = s.shape := by
  simp [State.queueRelease]

@[simp] theorem State.shape_stall : s.stall.shape = s.shape := by simp [State.stall]
@[simp] theorem State.shape_queueEpoch (r mask start stopAt snap) : (s.queueEpoch r mask start stopAt snap).shape = s.shape := by
  simp [State.queueEpoch]

@[simp] theorem State.shape_queueRun (r) : (s.queueRun r).shape = s.shape := by simp [State.queueRun]
@[simp] theorem State.shape_queuePrefix (r) : (s.queuePrefix r).shape = s.shape := by simp [State.queuePrefix]
@[simp] theorem shape_runEpochRun (r) : (runEpochRun r s).shape = s.shape := by simp [runEpochRun]
@[simp] theorem shape_runRunPrefix (r) : (runRunPrefix r s).shape = s.shape := by simp [runRunPrefix]

@[simp] theorem State.shape_answerRelease (start mbox tag) : (s.answerRelease start mbox tag).shape = s.shape := by
  unfold State.answerRelease
  extract_lets t
  have ht : t.shape = s.shape := State.shape_onKol _ _
  split
  · rw [State.shape_complete, ht]
  · exact ht

@[simp] theorem State.shape_discardRelease (start mbox tag which reason) :
    (s.discardRelease start mbox tag which reason).shape = s.shape := by
  simp [State.discardRelease]

@[simp] theorem State.shape_takeAbort (q) : (s.takeAbort q).shape = s.shape := by
  unfold State.takeAbort
  extract_lets x
  split
  · rw [State.shape_discardRelease, State.shape_onSeq]
  · split <;> simp

@[simp] theorem shape_runEpochAbort (r) : (runEpochAbort r s).shape = s.shape := by simp [runEpochAbort]

@[simp] theorem shape_runTableLoad (r) : (runTableLoad r s).shape = s.shape := by
  unfold runTableLoad
  extract_lets t off bs u
  have hu : u.shape = s.shape := State.shape_mk ..
  split
  · exact State.shape_answer ..
  · split
    · exact State.shape_answer ..
    · split
      · exact State.shape_answer ..
      · split
        · exact State.shape_answer ..
        · rw [State.shape_answer, State.shape_fedAll, State.shape_refreshFps, hu]

@[simp] theorem State.shape_writeEverywhere (ws) : (s.writeEverywhere ws).shape = s.shape := by simp [State.writeEverywhere]
@[simp] theorem shape_runLedgerSet (r) : (runLedgerSet r s).shape = s.shape := by simp [runLedgerSet]
@[simp] theorem shape_runMaintEnter (r) : (runMaintEnter r s).shape = s.shape := by simp [runMaintEnter]
@[simp] theorem shape_runMaintLeave (r) : (runMaintLeave r s).shape = s.shape := by simp [runMaintLeave]
@[simp] theorem shape_runBreakSet (r) : (runBreakSet r s).shape = s.shape := by simp [runBreakSet]

/-! ## Firmware, alarms and the patrol -/

@[simp] theorem keepsShape_execWatchdog : Res.KeepsShape (execWatchdog s) s := by
  unfold execWatchdog
  split
  · extract_lets t
    have ht : t.shape = s.shape := State.shape_untilLocal ..
    unfold whenTrue
    split <;> simp [ht]
  · simp

@[simp] theorem keepsShape_execWindowUnderflowTrap : Res.KeepsShape (execWindowUnderflowTrap s) s := by
  unfold execWindowUnderflowTrap
  extract_lets k
  split
  · split
    · simp
    · split <;> simp
  · simp

@[simp] theorem State.shape_reading (sensor v) : (s.reading sensor v).shape = s.shape := by simp [State.reading]
@[simp] theorem State.shape_thermWarned (sensor v) : (s.thermWarned sensor v).shape = s.shape := by simp [State.thermWarned]
@[simp] theorem State.shape_thermTrip : s.thermTrip.shape = s.shape := by simp [State.thermTrip]

/-! ## Releases and completions -/

@[simp] theorem State.shape_checkStop (q) : (s.checkStop q).shape = s.shape := by
  unfold State.checkStop
  split <;> simp

@[simp] theorem State.shape_releaseEpoch (q start epoch stopAt snap mbox tag) :
    (s.releaseEpoch q start epoch stopAt snap mbox tag).shape = s.shape := by
  simp [State.releaseEpoch]

@[simp] theorem keepsShape_execEpochRelease (q) : Res.KeepsShape (execEpochRelease q s) s := by
  unfold execEpochRelease
  split <;> simp

@[simp] theorem State.shape_storeOuts (q e c ct cos) : (s.storeOuts q e c ct cos).shape = s.shape := by
  unfold State.storeOuts
  refine State.shape_foldl _ (fun t x => ?_) _ _
  split
  extract_lets u
  have hu : u.shape = t.shape := by
    unfold u
    split
    · exact State.shape_foldl _ (fun _ _ => State.shape_later ..) _ _
    · rfl
  split
  · split
    · exact (State.shape_onCores _ _ fun _ => by simp).trans hu
    · exact hu
  · exact hu

@[simp] theorem State.shape_sendOuts (e t c cos) : (s.sendOuts e t c cos).shape = s.shape := by
  unfold State.sendOuts
  split <;> simp

@[simp] theorem State.shape_presentBeats (q r e c ct cos) : (s.presentBeats q r e c ct cos).shape = s.shape := by
  unfold State.presentBeats
  split <;> simp

@[simp] theorem State.shape_statusOf (e c cos) : (s.statusOf e c cos).1.shape = s.shape := by
  unfold State.statusOf
  split <;> simp

@[simp] theorem State.shape_predValue (e c cos) : (s.predValue e c cos).1.shape = s.shape := by
  unfold State.predValue
  split
  · split
    · split <;> simp
    · rfl
  · rfl

@[simp] theorem State.shape_meet (q c inp) : (s.meet q c inp).shape = s.shape := by simp [State.meet]
@[simp] theorem State.shape_sendEmpty (e t c) : (s.sendEmpty e t c).shape = s.shape := by
  unfold State.sendEmpty
  split <;> simp

@[simp] theorem State.shape_computeAt (q r e c ct inp) : (s.computeAt q r e c ct inp).shape = s.shape := by simp [State.computeAt]
@[simp] theorem State.shape_sendBundle (q c release) : (s.sendBundle q c release).shape = s.shape := by simp [State.sendBundle]

@[simp] theorem State.shape_swapProgram (q e c) : (s.swapProgram q e c).shape = s.shape := by
  unfold State.swapProgram
  extract_lets swap t
  have ht : t.shape = s.shape := State.shape_onSeq ..
  split
  · rw [State.shape_onRun, ht]
  · exact ht

@[simp] theorem State.shape_releaseCmd (q r e c t ct inp) : (s.releaseCmd q r e c t ct inp).shape = s.shape := by
  unfold State.releaseCmd
  extract_lets time t
  have ht : t.shape = s.shape := State.shape_until ..
  split
  · exact ht
  · split
    · exact ht
    · split
      · rw [State.shape_runtimeHalt, ht]
      · split
        · rw [State.shape_runtimeHalt, ht]
        · next v _ w _ _ _ _ _ _ =>
          have hv : v.shape = s.shape := (State.shape_onRun ..).trans ((State.shape_onSeq ..).trans ((State.shape_sendBundle ..).trans ht))
          split
          · rw [State.shape_computeAt, hv]
          · have hw : w.shape = s.shape := (State.shape_onRun ..).trans hv
            split
            · rw [State.shape_swapProgram, hw]
            · exact hw

@[simp] theorem State.shape_releaseKind (q kind inp) : (s.releaseKind q kind inp).shape = s.shape := by
  unfold State.releaseKind
  repeat' split
  all_goals simp

@[simp] theorem keepsShape_execTallyWaitWindowEnd (q) : Res.KeepsShape (execTallyWaitWindowEnd q s) s := by
  unfold execTallyWaitWindowEnd
  split <;> simp

@[simp] theorem State.shape_advance (q i n) : (s.advance q i n).shape = s.shape := by simp [State.advance]
@[simp] theorem State.shape_retierHead (i lim) : (s.retierHead i lim).shape = s.shape := by simp [State.retierHead]
@[simp] theorem State.shape_traceCmd (q f) : (s.traceCmd q f).shape = s.shape := by simp [State.traceCmd]
@[simp] theorem State.shape_completeCmd (q r f) : (s.completeCmd q r f).shape = s.shape := by simp [State.completeCmd]
@[simp] theorem keepsShape_execCommandCompletion (q) : Res.KeepsShape (execCommandCompletion q s) s := by
  unfold execCommandCompletion
  repeat' split
  all_goals simp

@[simp] theorem State.shape_spStall (q g line chan) : (s.spStall q g line chan).shape = s.shape := by simp [State.spStall]
@[simp] theorem State.shape_lineSlip (q idx off g line chan detail stamp) :
    (s.lineSlip q idx off g line chan detail stamp).shape = s.shape := by
  simp [State.lineSlip]

@[simp] theorem State.shape_haltNow (q : Nat) (act : State → State) (hact : ∀ t, (act t).shape = t.shape) :
    (s.haltNow q act).shape = s.shape := by
  simp [State.haltNow, hact]

@[simp] theorem State.shape_takeLine (q x poison) : (s.takeLine q x poison).shape = s.shape := by simp [State.takeLine]
@[simp] theorem State.shape_lineData (q r g chan line time poison) : (s.lineData q r g chan line time poison).shape = s.shape := by
  unfold State.lineData
  split <;> simp

@[simp] theorem keepsShape_execSpReadData (q pos chan line time poison) :
    Res.KeepsShape (execSpReadData q pos chan line time poison s) s := by
  unfold execSpReadData
  split <;> simp

@[simp] theorem State.shape_refuseStore (q r pos line) : (s.refuseStore q r pos line).shape = s.shape := by
  unfold State.refuseStore
  split <;> simp

@[simp] theorem keepsShape_execLineStampExpiry (q pos chan line refused) :
    Res.KeepsShape (execLineStampExpiry q pos chan line refused s) s := by
  unfold execLineStampExpiry
  repeat' split
  all_goals simp

/-! ## Slots of received cells -/

@[simp] theorem State.shape_badCell (p) : (s.badCell p).shape = s.shape := by simp [State.badCell]
@[simp] theorem State.shape_arrive (p slot) : (s.arrive p slot).shape = s.shape := by simp [State.arrive]
@[simp] theorem State.shape_avail (p slot) : (s.avail p slot).shape = s.shape := by simp [State.avail]
@[simp] theorem State.shape_sendAck (p negative) : (s.sendAck p negative).shape = s.shape := by simp [State.sendAck]

@[simp] theorem State.shape_fedLost : s.fedLost.shape = s.shape := by
  unfold State.fedLost
  refine State.shape_foldl _ (fun t q => ?_) _ _
  split
  · simp
  · rfl

@[simp] theorem State.shape_poisonAt (p slot) : (s.poisonAt p slot).shape = s.shape := by
  unfold State.poisonAt
  repeat' split
  all_goals simp

@[simp] theorem State.shape_slotSeen (p slot) : (s.slotSeen p slot).shape = s.shape := by
  unfold State.slotSeen
  split <;> simp

@[simp] theorem keepsShape_slotRow (c : RxCell) (isType : CellHdr → Bytes → Bool) (act : CellHdr → Bytes → State → State)
    (hact : ∀ hdr pay t, (act hdr pay t).shape = t.shape) : Res.KeepsShape (slotRow c isType act s) s := by
  unfold slotRow
  split
  · extract_lets t
    have ht : (t.openRx c).1.shape = s.shape := (State.shape_openRx ..).trans (State.shape_arrive ..)
    split
    · next u h =>
      rw [h] at ht
      simp [ht]
    · next u hdr pay h =>
      rw [h] at ht
      split <;> simp [hact, ht]
  · simp

@[simp] theorem State.shape_stray (p slot count) : (s.stray p slot count).shape = s.shape := by
  unfold State.stray
  repeat' split
  all_goals simp

@[simp] theorem keepsShape_linkRow (c : RxCell) (isType : CellHdr → Bytes → Bool) (act : CellHdr → Bytes → State → State)
    (hact : ∀ hdr pay t, (act hdr pay t).shape = t.shape) : Res.KeepsShape (linkRow c isType act s) s := by
  unfold linkRow
  refine keepsShape_slotRow _ _ _ _ fun hdr pay t => ?_
  split
  · split
    · exact State.shape_stray ..
    · exact hact hdr pay t
  · exact hact hdr pay t

/-! ## Wiring, identity and synchronisation -/

@[simp] theorem State.shape_checkWiring (ws p) : (s.checkWiring ws p).1.shape = s.shape := by
  unfold State.checkWiring
  extract_lets w q
  split
  · split
    · exact State.shape_pairLost ..
    · split
      · exact State.shape_pairLost ..
      · rfl
  · rfl

@[simp] theorem State.shape_checkAllWiring (ws) : (s.checkAllWiring ws).1.shape = s.shape := by
  unfold State.checkAllWiring
  refine State.shape_foldl_fst _ ?_ _ _
  exact fun x p => State.shape_checkWiring x.1 ws p

@[simp] theorem State.shape_sendTrainTime (p) : (s.sendTrainTime p).shape = s.shape := by simp [State.sendTrainTime]
@[simp] theorem State.shape_spreadSync (number target) : (s.spreadSync number target).shape = s.shape := by simp [State.spreadSync]
@[simp] theorem State.shape_startSync (lead) : (s.startSync lead).shape = s.shape := by simp [State.startSync]
@[simp] theorem State.shape_installWiring (ws) : (s.installWiring ws).shape = s.shape := by simp [State.installWiring]

@[simp] theorem State.shape_finishWiring (r) : (s.finishWiring r).shape = s.shape := by
  unfold State.finishWiring
  extract_lets d ws
  have h := State.shape_checkAllWiring s ws
  split
  next t bad heq =>
    rw [heq] at h
    extract_lets u
    have hu : u.shape = s.shape := (State.shape_onDom ..).trans h
    split <;> simp [hu]

@[simp] theorem State.shape_retrain (p) : (s.retrain p).shape = s.shape := by
  unfold State.retrain
  split <;> simp

@[simp] theorem State.shape_lastWiring (r) : (s.lastWiring r).shape = s.shape := by simp [State.lastWiring]
@[simp] theorem State.shape_bypassDone (r i) : (s.bypassDone r i).shape = s.shape := by simp [State.bypassDone]
@[simp] theorem shape_runPortBypass (r) : (runPortBypass r s).shape = s.shape := by simp [runPortBypass]

@[simp] theorem State.shape_trainingEnded : s.trainingEnded.shape = s.shape := by
  unfold State.trainingEnded
  extract_lets t
  have ht : t.shape = s.shape := State.shape_endPhase8 s
  split
  · exact ht
  · simp only []
    split
    · split <;> simp [ht]
    · split
      · split <;> simp [ht]
      · exact ht

/-! ## Training -/

@[simp] theorem State.shape_trainFail (p reason) : (s.trainFail p reason).shape = s.shape := by simp [State.trainFail]
@[simp] theorem State.shape_goodCell (p) : (s.goodCell p).shape = s.shape := by simp [State.goodCell]
@[simp] theorem State.shape_keepPartner (p x) : (s.keepPartner p x).shape = s.shape := by simp [State.keepPartner]
@[simp] theorem State.shape_gotTrainId (p x) : (s.gotTrainId p x).shape = s.shape := by simp [State.gotTrainId]
@[simp] theorem keepsShape_takeTrainId (c) : Res.KeepsShape (takeTrainId c s) s := by simp [takeTrainId]
@[simp] theorem State.shape_countCalib (p c) : (s.countCalib p c).shape = s.shape := by simp [State.countCalib]
@[simp] theorem State.shape_setPad (p) : (s.setPad p).shape = s.shape := by simp [State.setPad]
@[simp] theorem State.shape_keepCalib (p c) : (s.keepCalib p c).shape = s.shape := by simp [State.keepCalib]
@[simp] theorem State.shape_sendTrainDone (p) : (s.sendTrainDone p).shape = s.shape := by simp [State.sendTrainDone]
@[simp] theorem State.shape_calibrated (p c) : (s.calibrated p c).shape = s.shape := by simp [State.calibrated]
@[simp] theorem State.shape_recalibrated (p c) : (s.recalibrated p c).shape = s.shape := by simp [State.recalibrated]
@[simp] theorem State.shape_gotTrip (p c) : (s.gotTrip p c).shape = s.shape := by
  unfold State.gotTrip
  split <;> simp

@[simp] theorem State.shape_gotTrainTime (p tRx pay) : (s.gotTrainTime p tRx pay).shape = s.shape := by simp [State.gotTrainTime]
@[simp] theorem State.shape_gotTrainDone (p code) : (s.gotTrainDone p code).shape = s.shape := by simp [State.gotTrainDone]
@[simp] theorem keepsShape_execTrainDone (c) : Res.KeepsShape (execTrainDone c s) s := by simp [execTrainDone]
@[simp] theorem keepsShape_execPortLoss (port cause) : Res.KeepsShape (execPortLoss port cause s) s := by
  unfold execPortLoss
  split <;> simp

/-! ## Scheduled cells -/

@[simp] theorem keepsShape_takePoison (port slot) : Res.KeepsShape (takePoison port slot s) s := by simp [takePoison]
@[simp] theorem State.shape_controlMissing (d p slot) : (s.controlMissing d p slot).shape = s.shape := by simp [State.controlMissing]
@[simp] theorem keepsShape_execCellStampExpiry (port slot) : Res.KeepsShape (execCellStampExpiry port slot s) s := by
  unfold execCellStampExpiry
  repeat' split
  all_goals simp

@[simp] theorem keepsShape_takeReserved (c) : Res.KeepsShape (takeReserved c s) s := by simp [takeReserved]

@[simp] theorem keepsShape_takeIdle (c) : Res.KeepsShape (takeIdle c s) s := by
  refine keepsShape_slotRow _ _ _ _ fun hdr pay t => ?_
  extract_lets u
  have hu : u.shape = t.shape := State.shape_goodCell ..
  split
  · split
    · rw [State.shape_slotMissing, hu]
    · exact hu
  · exact hu

@[simp] theorem State.shape_slipAt (d p slot core wait) : (s.slipAt d p slot core wait).shape = s.shape := by simp [State.slipAt]
@[simp] theorem State.shape_cellSlip (d p slot u wait) : (s.cellSlip d p slot u wait).shape = s.shape := by simp [State.cellSlip]
@[simp] theorem State.shape_elasticData (d p slot u h n pay) :
    (s.elasticData d p slot u h n pay).shape = s.shape := by simp [State.elasticData]

@[simp] theorem State.shape_strayElastic (d p h) : (s.strayElastic d p h).shape = s.shape := by simp [State.strayElastic]
@[simp] theorem State.shape_chanCell (c : RxCell) (h : CellHdr) (act : Nat → SlotUse → State → State)
    (hact : ∀ d u t, (act d u t).shape = t.shape) : (s.chanCell c h act).shape = s.shape := by
  unfold State.chanCell
  repeat' split
  all_goals simp [hact]

@[simp] theorem State.shape_checked (d : Nat) (c : RxCell) (u : SlotUse) (h : CellHdr) (data : Bool) (n : Nat) (seq : Option Nat)
    (act : State → State) (hact : ∀ t, (act t).shape = t.shape) : (s.checked d c u h data n seq act).shape = s.shape := by
  unfold State.checked
  split <;> simp [hact]

@[simp] theorem keepsShape_takeData (c) : Res.KeepsShape (takeData c s) s := by
  refine keepsShape_slotRow _ _ _ _ fun hdr pay t => State.shape_chanCell _ _ _ _ fun d u t => ?_
  extract_lets g o n
  split
  · exact State.shape_slotMissing ..
  · exact State.shape_checked _ _ _ _ _ _ _ _ _ fun t => by split <;> simp

@[simp] theorem State.shape_tagFail (d p slot) : (s.tagFail d p slot).shape = s.shape := by simp [State.tagFail]

@[simp] theorem keepsShape_takeTag (c) : Res.KeepsShape (takeTag c s) s := by
  refine keepsShape_slotRow _ _ _ _ fun hdr pay t => State.shape_chanCell _ _ _ _ fun d u t => ?_
  split
  · exact State.shape_slotMissing ..
  · refine State.shape_checked _ _ _ _ _ _ _ _ _ fun t => ?_
    split
    · split <;> simp
    · exact State.shape_tagFail ..

@[simp] theorem keepsShape_takeChannelBarrier (c) : Res.KeepsShape (takeChannelBarrier c s) s := by
  refine keepsShape_slotRow _ _ _ _ fun hdr pay t => State.shape_chanCell _ _ _ _ fun d u t =>
    State.shape_checked _ _ _ _ _ _ _ _ _ fun t => ?_
  extract_lets k v
  split
  · exact State.shape_abortEpoch ..
  · have hv : v.shape = t.shape := by
      unfold v
      split <;> simp
    split
    · rw [State.shape_deliverBarrier, hv]
    · rw [State.shape_sendBarrier]
      split <;> simp [hv]
    · rw [State.shape_addBarrier, hv]
    · exact hv

@[simp] theorem State.shape_controlCell (c : RxCell) (h : CellHdr) (act : Nat → State → State) (hact : ∀ d t, (act d t).shape = t.shape) :
    (s.controlCell c h act).shape = s.shape := by
  unfold State.controlCell
  split <;> simp [hact]

@[simp] theorem State.shape_barrierCell (c : RxCell) (h : CellHdr) (pay : Bytes) (act : Nat → State → State)
    (hact : ∀ d t, (act d t).shape = t.shape) : (s.barrierCell c h pay act).shape = s.shape := by
  simp [State.barrierCell, hact]

@[simp] theorem keepsShape_takeAbortCell (c) : Res.KeepsShape (takeAbortCell c s) s := by simp [takeAbortCell]
@[simp] theorem keepsShape_takeVote (c) : Res.KeepsShape (takeVote c s) s := by simp [takeVote]

@[simp] theorem keepsShape_takeDecision (c) : Res.KeepsShape (takeDecision c s) s := by
  refine keepsShape_slotRow _ _ _ _ fun hdr pay t => State.shape_barrierCell _ _ _ _ _ fun d t => ?_
  split
  · split
    · exact State.shape_countMissing ..
    · next j _ _ =>
      extract_lets u
      have hu : u.shape = t.shape := State.shape_foldl _ (fun _ _ => State.shape_sendControl ..) _ _
      split <;> simp [hu]
  · exact State.shape_countMissing ..

@[simp] theorem State.shape_bundleWhole (q slot epoch bytes) : (s.bundleWhole q slot epoch bytes).shape = s.shape := by
  unfold State.bundleWhole
  extract_lets x
  split
  · exact State.shape_onSeq ..
  · split <;> simp

@[simp] theorem State.shape_bundleCell (q slot h pay) : (s.bundleCell q slot h pay).shape = s.shape := by simp [State.bundleCell]

@[simp] theorem keepsShape_takeBundleCell (c) : Res.KeepsShape (takeBundleCell c s) s := by
  refine keepsShape_slotRow _ _ _ _ fun hdr pay t => ?_
  split
  · split <;> simp
  · exact State.shape_stray ..

/-! ## Commit and rollback -/

@[simp] theorem State.shape_finishCommit (d) : (s.finishCommit d).shape = s.shape := by
  unfold State.finishCommit
  split
  next m last _ =>
    extract_lets t u v w
    have hw : w.shape = s.shape :=
      (State.shape_onDom ..).trans ((State.shape_clearCheckpoints ..).trans ((State.shape_until ..).trans (State.shape_mk ..)))
    split <;> simp [hw]

@[simp] theorem State.shape_restoreEpoch (d) : (s.restoreEpoch d).shape = s.shape := by
  unfold State.restoreEpoch
  split <;> simp

@[simp] theorem State.shape_partitionLost (d) : (s.partitionLost d).shape = s.shape := by simp [State.partitionLost]

/-! ## The coupler -/

@[simp] theorem State.shape_onGen (n f) : (s.onGen n f).shape = s.shape := by
  exact State.shape_onCoup _ _ fun c => rfl

@[simp] theorem State.shape_couplerGen : s.couplerGen.shape = s.shape := by simp [State.couplerGen]
@[simp] theorem State.shape_couplerSlip (q detail stamp) : (s.couplerSlip q detail stamp).shape = s.shape := by simp [State.couplerSlip]
@[simp] theorem State.shape_takeBeat (g t last data) : (s.takeBeat g t last data).shape = s.shape := by simp [State.takeBeat]
@[simp] theorem State.shape_epiBeat (g t last data) : (s.epiBeat g t last data).shape = s.shape := by
  unfold State.epiBeat
  split <;> simp

@[simp] theorem keepsShape_execEpilogueBeat (time gen last data) : Res.KeepsShape (execEpilogueBeat time gen last data s) s := by
  unfold execEpilogueBeat
  extract_lets t
  refine keepsShape_whenTrue _ _ _ ?_
  split
  · simp
  · split <;> simp

@[simp] theorem State.shape_drainMissing (g due) : (s.drainMissing g due).shape = s.shape := by simp [State.drainMissing]

@[simp] theorem keepsShape_execMcDrain (time gen) : Res.KeepsShape (execMcDrain time gen s) s := by
  unfold execMcDrain
  extract_lets t
  refine keepsShape_whenTrue _ _ _ ?_
  split
  · extract_lets u
    have hu : u.shape = s.shape := by
      unfold u
      split
      · split <;> simp
      · rfl
    simp [hu]
  · split <;> simp

@[simp] theorem State.shape_land (g r) : (s.land g r).shape = s.shape := by
  unfold State.land
  extract_lets e ch mine res put u rec_
  have hu : u.shape = s.shape := State.shape_onCores _ _ fun _ => by simp
  split
  next v w heq =>
    have hv : v.shape = s.shape := by
      rw [show v = _ from (congrArg Prod.fst heq).symm]
      split <;> simp [hu]
    extract_lets x
    have hx : x.shape = s.shape := (State.shape_onCoup _ _ fun _ => List.length_set).trans hv
    split <;> simp [hx]

@[simp] theorem keepsShape_execLandingComplete : Res.KeepsShape (execLandingComplete s) s := by
  unfold execLandingComplete
  repeat' split
  all_goals simp

@[simp] theorem keepsShape_execDrainDeadline : Res.KeepsShape (execDrainDeadline s) s := by
  unfold execDrainDeadline
  repeat' split
  all_goals simp

@[simp] theorem keepsShape_execEpilogueBeatNotPresented : Res.KeepsShape (execEpilogueBeatNotPresented s) s := by
  unfold execEpilogueBeatNotPresented
  repeat' split
  all_goals simp

/-! ## Job loads -/

@[simp] theorem State.shape_writeSeeds (j) : (s.writeSeeds j).shape = s.shape := by simp [State.writeSeeds]
@[simp] theorem State.shape_installJob (r d) : (s.installJob r d).shape = s.shape := by simp [State.installJob]
@[simp] theorem shape_runJobLoad (r) : (runJobLoad r s).shape = s.shape := by simp [runJobLoad]

/-! ## Expert windows and fences -/

@[simp] theorem State.shape_dropSessions : s.dropSessions.shape = s.shape := by simp [State.dropSessions]
@[simp] theorem shape_runExpertUnlock (r) : (runExpertUnlock r s).shape = s.shape := by simp [runExpertUnlock]
@[simp] theorem State.shape_recheckJob (d) : (s.recheckJob d).shape = s.shape := by
  unfold State.recheckJob
  split <;> simp

@[simp] theorem shape_runExpertLock (r) : (runExpertLock r s).shape = s.shape := by simp [runExpertLock]

@[simp] theorem Cores.sizes_act (c : Cores) (n g a k : Nat) : (c.act n g a k).sizes = c.sizes := by
  unfold Cores.act
  split
  · split
    · simp only [Cores.fence]
      split <;> simp
    · rfl
  · split <;> simp
  · simp
  · simp [Cores.restore]

@[simp] theorem State.shape_fenceThere (s : State) (r : Req) (pos : Nat) : (s.fenceThere r pos).shape = s.shape := by
  simp [State.fenceThere]

@[simp] theorem State.shape_fenceHere (r pos action spare) : (s.fenceHere r pos action spare).shape = s.shape := by
  unfold State.fenceHere
  extract_lets bad g
  split
  · exact State.shape_complete ..
  · split
    · exact State.shape_answer ..
    · next t w _ _ =>
      have ht : t.shape = s.shape := (State.shape_onCores _ _ fun c => Cores.sizes_act ..).trans (State.shape_pass ..)
      rw [State.shape_complete, State.shape_event, ht]

@[simp] theorem shape_runFenceCore (r) : (runFenceCore r s).shape = s.shape := by simp [runFenceCore]

/-! ## Program commits -/

@[simp] theorem shape_runProgCommit (r) : (runProgCommit r s).shape = s.shape := by
  unfold runProgCommit
  extract_lets q code
  split
  · exact State.shape_answer ..
  · split
    · exact State.shape_answer ..
    · split
      · exact State.shape_answer ..
      · extract_lets
        split <;> simp

/-! ## Maintenance cells -/

@[simp] theorem State.shape_maintIn (p : Nat) (h : CellHdr) (act : State → State) (hact : ∀ t, (act t).shape = t.shape) :
    (s.maintIn p h act).shape = s.shape := by
  simp [State.maintIn, hact]

@[simp] theorem State.shape_takeAck (p ack) : (s.takeAck p ack).shape = s.shape := by simp [State.takeAck]
@[simp] theorem keepsShape_takeMaintAck (c) : Res.KeepsShape (takeMaintAck c s) s := by simp [takeMaintAck]
@[simp] theorem State.shape_takeCounter (p pay) : (s.takeCounter p pay).shape = s.shape := by
  unfold State.takeCounter
  split <;> simp

@[simp] theorem keepsShape_takeCounterCell (c) : Res.KeepsShape (takeCounterCell c s) s := by simp [takeCounterCell]
@[simp] theorem State.shape_routed (pay : Bytes) (own : Nat → State → State) (hown : ∀ d t, (own d t).shape = t.shape) :
    (s.routed pay own).shape = s.shape := by
  simp [State.routed, hown]

@[simp] theorem keepsShape_takeRolled (c) : Res.KeepsShape (takeRolled c s) s := by
  refine keepsShape_linkRow _ _ _ _ fun hdr pay t => State.shape_maintIn _ _ _ _ fun t => State.shape_routed _ _ _ fun d t => ?_
  split <;> simp

@[simp] theorem keepsShape_takeRollbackDone (c) : Res.KeepsShape (takeRollbackDone c s) s := by
  refine keepsShape_linkRow _ _ _ _ fun hdr pay t => State.shape_maintIn _ _ _ _ fun t => State.shape_routed _ _ _ fun d t => ?_
  split <;> simp

@[simp] theorem State.shape_takeSync (p pay) : (s.takeSync p pay).shape = s.shape := by simp [State.takeSync]
@[simp] theorem keepsShape_takeSyncMessage (c) : Res.KeepsShape (takeSyncMessage c s) s := by simp [takeSyncMessage]
@[simp] theorem State.shape_rebase (t) : (s.rebase t).shape = s.shape := by simp [State.rebase]
@[simp] theorem State.shape_anchorPort (p) : (s.anchorPort p).shape = s.shape := by simp [State.anchorPort]
@[simp] theorem State.shape_discardReleases : s.discardReleases.shape = s.shape := by simp [State.discardReleases]
@[simp] theorem State.shape_syncEdge (target) : (s.syncEdge target).shape = s.shape := by simp [State.syncEdge]
@[simp] theorem keepsShape_execRackSyncEdge : Res.KeepsShape (execRackSyncEdge s) s := by
  unfold execRackSyncEdge
  split <;> simp

/-! ## Partition changes -/

@[simp] theorem State.shape_unarmHit (d r) : (s.unarmHit d r).shape = s.shape := by simp [State.unarmHit]
@[simp] theorem State.shape_joinMbxs (d) : (s.joinMbxs d).shape = s.shape := by simp [State.joinMbxs]
@[simp] theorem State.shape_takeRecord (d) : (s.takeRecord d).shape = s.shape := by simp [State.takeRecord]
@[simp] theorem State.shape_adopt (c) : (s.adopt c).shape = s.shape := by simp [State.adopt]
@[simp] theorem State.shape_cleanPos (g) : (s.cleanPos g).shape = s.shape := by simp [State.cleanPos]
@[simp] theorem State.shape_cleanTable (t) : (s.cleanTable t).shape = s.shape := by simp [State.cleanTable]
@[simp] theorem State.shape_cleanMbx (m) : (s.cleanMbx m).shape = s.shape := by simp [State.cleanMbx]
@[simp] theorem State.shape_clean (d r scrub) : (s.clean d r scrub).shape = s.shape := by simp [State.clean]
@[simp] theorem State.shape_cleanEnd (c) : (s.cleanEnd c).shape = s.shape := by simp [State.cleanEnd]
@[simp] theorem State.shape_afterAdopt : s.afterAdopt.shape = s.shape := by
  unfold State.afterAdopt
  split <;> simp

@[simp] theorem State.shape_zeroCounters (d) : (s.zeroCounters d).shape = s.shape := by simp [State.zeroCounters]
@[simp] theorem State.shape_setKey (d old new live) : (s.setKey d old new live).shape = s.shape := by simp [State.setKey]
@[simp] theorem State.shape_recordPart (r d ws live scrub) : (s.recordPart r d ws live scrub).shape = s.shape := by simp [State.recordPart]
@[simp] theorem State.shape_addRecord (r) : (s.addRecord r).shape = s.shape := by simp [State.addRecord]
@[simp] theorem shape_runPartSet (r) : (runPartSet r s).shape = s.shape := by simp [runPartSet]

@[simp] theorem State.shape_finishDue (q due n : Nat) (s : State) : (State.finishDue q due n s).shape = s.shape := by
  induction n generalizing s with
  | zero => rfl
  | succ n ih =>
    unfold State.finishDue
    split
    · split
      · split
        · rw [ih, State.shape_completeCmd]
        · rfl
      · rfl
    · rfl

@[simp] theorem State.shape_toBoundary (q since) : (s.toBoundary q since).shape = s.shape := by
  unfold State.toBoundary
  split
  · split
    · split <;> simp
    · rfl
  · rfl

@[simp] theorem keepsShape_execPartitionAdopt (q) : Res.KeepsShape (execPartitionAdopt q s) s := by
  unfold execPartitionAdopt
  split <;> simp

@[simp] theorem keepsShape_execPartitionCleanDone : Res.KeepsShape (execPartitionCleanDone s) s := by
  unfold execPartitionCleanDone
  split <;> simp

/-! ## Received cells and the elastic buffer -/

@[simp] theorem Res.shape_orElse (r : Res) (h : r.KeepsShape s) : (Res.orElse r s).shape = s.shape := by
  unfold Res.orElse
  split
  · exact h _ rfl
  · rfl

@[simp] theorem State.shape_takeCell (c) : (s.takeCell c).shape = s.shape := by
  refine Res.shape_orElse _ _ ?_
  split <;> simp

@[simp] theorem State.shape_elasticDrain (p n : Nat) (s : State) : (State.elasticDrain p n s).shape = s.shape := by
  induction n generalizing s with
  | zero => rfl
  | succ n ih =>
    unfold State.elasticDrain
    split
    · rw [ih, State.shape_takeCell, State.shape_onPort]
    · rfl

@[simp] theorem State.shape_elasticRun (p) : (s.elasticRun p).shape = s.shape := by simp [State.elasticRun]
@[simp] theorem State.shape_elasticPush (c) : (s.elasticPush c).shape = s.shape := by simp [State.elasticPush]
@[simp] theorem keepsShape_cellRow (c : RxCell) (k : CellKind) (direct : Res) (hd : direct.KeepsShape s) :
    Res.KeepsShape (cellRow c k direct s) s := by
  simp [cellRow, hd]

@[simp] theorem shape_tick : (tick s).shape = s.shape := by simp [tick]

/-! ## The test access port -/

@[simp] theorem State.shape_tapScan (ir out) : (s.tapScan ir out).shape = s.shape := by simp [State.tapScan]
@[simp] theorem State.shape_boundaryScan (ir scan drive) : (s.boundaryScan ir scan drive).shape = s.shape := by simp [State.boundaryScan]
@[simp] theorem State.shape_eraseKeys : s.eraseKeys.shape = s.shape := by simp [State.eraseKeys]
@[simp] theorem keepsShape_execDbgAccess (busWord) : Res.KeepsShape (execDbgAccess busWord s) s := by
  unfold execDbgAccess
  repeat' split
  all_goals simp

/-! ## The step -/

/-- Every command keeps the shape of a state that fits its configuration: a row without a lemma of its own is one call of a function above. -/
theorem keepsShape_exec (i : Instr) (hs : s.shape.Fits) : Res.KeepsShape (exec i s) s := by
  cases i <;> simp [exec,
    execTestReset, execRegisterPortReady, execReferenceCheckDone, execBistTimeout, execSecTimeout, execImageAuthenticated,
    execFwStartTimeout, execFederationCheckDone, execFederationTimeout, execBootGo, execWarmReset, execRegisterWrite, execRecordWord0Read,
    execReqTail, execCplHead, execMbxReset, execAlarmFatalClear, execSnapRelease, execCmdDataRead, execCmdDataWrite, execTblDataRead,
    execTblDataWrite, execSrResultRead, execPosMapWrite, execCouplerOwnerWrite, execChainRecWrite, execPortCtlWrite, execPairBypassWrite,
    execLedgerWordWrite, execCircRouteWordWrite, execEcho, execStatus, execMbxConfig, execBadOpcode, execProgBegin, execProgChunk,
    execEpochRun, execRunPrefix, execEpochAbort, execTableLoad, execLedgerSet, execMaintEnter, execMaintLeave, execBreakClear,
    execBreakCount, execBreakTag, execFirmwareHalt, execWindowOverflowTrap, execEpochBoundaryHalt, execThermWarn, execThermal,
    execPatrolRead, execCompute, execSync, execSwap, execEndEpoch, execPortBypassEnter, execPortBypassRelease, execPhyReady, execAlignCell,
    execTrainTime, execTrainingLimitExpiry, execPortRetrain, execBypassSwitchWait, execCommitCopyDone, execLocalRollbackDone,
    execDecisionWatchdog, execRollbackWatchdog, execCouplerStuck, execJobLoadWiring, execJobLoadRoutes, execJobLoadCircuits,
    execJobLoadSeeds, execJobInstall, execExpertUnlock, execExpertLock, execFenceCoreFence, execFenceCoreShadow, execFenceCoreShadowEnd,
    execFenceCoreRestore, execProgCommit, execMaintAckDue, execMaintReplayTimeout, execPartSetActive, execPartSetDelete, execIdleCell,
    execData, execTag, execChannelBarrier, execBarrierVote, execBarrierDecision, execAbort, execBundle, execReservedTypeCell, execTrainId,
    execRolled, execRollbackDone, execSyncMessage, execMaintAck, execCounter, execPoison, execExtest, execSamplePreload, execIdcode,
    execBypass, execDbgStatus, execDbgOpen, execSecErased, hs]

theorem keepsShape_step (hs : s.shape.Fits) : Res.KeepsShape (step s) s := by
  unfold step
  split
  · exact (Res.keepsShape_next _ _).2 (shape_tick s)
  next i rest _ => exact keepsShape_exec { s with pending := rest } i hs

/-- Settles O6: a step keeps the shape, and whether a state is shaped, and its configuration, are read off the shape. -/
theorem stepKeepsConfiguredShape : Obligations.StepKeepsConfiguredShape := by
  intro s t hs h
  have ht := keepsShape_step s (s.shaped_iff.1 hs) t h
  exact ⟨t.shaped_iff.2 (ht ▸ s.shaped_iff.1 hs), congrArg Shape.cfg ht⟩

end Sys2Proof.Machine
end

section
/-! PROOFS. Writes of one word: into an entry of the ledger, which checks, unarms and keeps a checkpoint (14 R336-R338, R351), and into
the pending job (16 R420). -/

namespace Sys2Proof

/-! ## Bytes written as they were -/

/-- A byte written as it reads leaves a canonical memory as it is: nothing is listed that reads as unlisted. -/
theorem Mem.write_read_self {m : Mem} (h : m.wf = true) (a : Nat) : m.write a (m.read a) = m := by
  induction m with
  | nil => rfl
  | cons c m ih =>
    obtain ⟨k, v⟩ := c
    obtain ⟨hv, habove, hwf⟩ := Mem.wf_cons.1 h
    rcases Nat.lt_trichotomy a k with hlt | rfl | hgt
    · have hk : k ≠ a := by omega
      simp [Mem.write, Mem.read, hlt, hk, Mem.read_above habove (Nat.le_of_lt hlt)]
    · simp [Mem.write, Mem.read, hv]
    · have hk : k ≠ a := by omega
      simp [Mem.write, Mem.read, hk, hk.symm, Nat.not_lt_of_lt hgt, ih hwf]

/-- A read of n + 1 bytes begins with the first of them. -/
theorem Mem.readBytes_succ (m : Mem) (a n : Nat) : m.readBytes a (n + 1) = m.read a :: m.readBytes (a + 1) n := by
  simp [Mem.readBytes, List.range_succ_eq_map, Nat.add_comm, Nat.add_left_comm]

theorem Mem.writeBytes_readBytes_self {m : Mem} (h : m.wf = true) (n : Nat) : ∀ a, m.writeBytes a (m.readBytes a n) = m := by
  induction n with
  | zero => intro a; rfl
  | succ n ih =>
    intro a
    rw [Mem.readBytes_succ, Mem.writeBytes, Mem.write_read_self h, ih]

/-- Bytes survive the way through their number. -/
theorem leBytes_leNat (bs : Bytes) : leBytes bs.length (leNat bs) = bs := by
  induction bs with
  | nil => rfl
  | cons b bs ih =>
    have hb : b.toNat < 256 := b.isLt
    have hdiv : (b.toNat + 256 * leNat bs) / 256 = leNat bs := by omega
    have hlow : BitVec.ofNat 8 (b.toNat + 256 * leNat bs) = b := by
      apply BitVec.eq_of_toNat_eq
      rw [BitVec.toNat_ofNat]
      omega
    simp only [List.length_cons, leNat, leBytes, hdiv, hlow, ih]

theorem leNat_lt (bs : Bytes) : leNat bs < 256 ^ bs.length := by
  have h := leNat_leBytes bs.length (leNat bs)
  rw [leBytes_leNat] at h
  exact h ▸ Nat.mod_lt _ (by positivity)

/-- The bytes of a word read are the bytes it was read from. -/
theorem Mem.leBytes_read64 (m : Mem) (a : Nat) : leBytes 8 (m.read64 a).toNat = m.readBytes a 8 := by
  have hlen : (m.readBytes a 8).length = 8 := by simp [Mem.readBytes]
  have hlt : leNat (m.readBytes a 8) < 2 ^ 64 := by simpa [hlen] using leNat_lt (m.readBytes a 8)
  have hle := leBytes_leNat (m.readBytes a 8)
  rw [hlen] at hle
  rw [Mem.read64, BitVec.toNat_ofNat, Nat.mod_eq_of_lt hlt, hle]

/-- A word written as it was read changes nothing. -/
theorem Mem.write64_read64_self {m : Mem} (h : m.wf = true) (a : Nat) : m.write64 a (m.read64 a) = m := by
  rw [Mem.write64, Mem.leBytes_read64, Mem.writeBytes_readBytes_self h]

/-- A string written in two parts. -/
theorem Mem.writeBytes_append (bs cs : Bytes) : ∀ (m : Mem) (a : Nat),
    m.writeBytes a (bs ++ cs) = (m.writeBytes a bs).writeBytes (a + bs.length) cs := by
  induction bs with
  | nil => intro m a; rfl
  | cons b bs ih =>
    intro m a
    simp only [List.cons_append, Mem.writeBytes, ih, List.length_cons, Nat.add_assoc, Nat.add_comm 1]

/-- A word written reads back, and every other byte is as before. -/
theorem Mem.stored_write64 {m : Mem} (h : m.wf = true) (a : Nat) (w : Word) : Mem.stored m (m.write64 a w) a w :=
  ⟨Mem.read64_write64 h a w, fun b hb => Mem.read_writeBytes_of_outside _ h a b (by simpa using hb)⟩

namespace Machine

/-! ## A word of an entry -/

/-- An entry is written as its four words, one behind the other. -/
theorem Entry.toMem_words (m : Mem) (i : Nat) (w0 w1 w2 w3 : Word) :
    Entry.toMem ⟨w0.toNat, w1.toNat, w2.toNat, w3.toNat⟩ m i =
      (((m.write64 (32 * i) w0).write64 (32 * i + 8) w1).write64 (32 * i + 16) w2).write64 (32 * i + 24) w3 := by
  simp [Entry.toMem, Entry.words, Mem.write64, Mem.writeBytes_append, Nat.add_assoc]

/-- Writing an entry with one word replaced writes that word alone. -/
theorem setEntryWord_toMem {m : Mem} (h : m.wf = true) (i : Nat) {k : Nat} (hk : k < 4) (w : Word) :
    (setEntryWord (Entry.ofMem m i) k w.toNat).toMem m i = m.write64 (32 * i + 8 * k) w := by
  have after (c : Nat) (hc : 32 * i + 8 * k + 8 ≤ c) :
      (m.write64 (32 * i + 8 * k) w).write64 c (m.read64 c) = m.write64 (32 * i + 8 * k) w := by
    rw [← Mem.read64_write64_of_outside h (32 * i + 8 * k) c w (.inr hc)]
    exact Mem.write64_read64_self (Mem.wf_write64 h _ w) c
  match k, hk with
  | 0, _ =>
    simp only [Nat.mul_zero, Nat.add_zero] at after ⊢
    exact (Entry.toMem_words m i w _ _ _).trans (by simp [after])
  | 1, _ => exact (Entry.toMem_words m i _ w _ _).trans (by simp [Mem.write64_read64_self h, after])
  | 2, _ => exact (Entry.toMem_words m i _ _ w _).trans (by simp [Mem.write64_read64_self h, after])
  | 3, _ => exact (Entry.toMem_words m i _ _ _ w).trans (by simp [Mem.write64_read64_self h])

/-! ## Unarming (R136, R311, R337) -/

theorem State.armedProgram_congr {s t : State} (q : Nat) (hseq : t.seqAt q = s.seqAt q) (hmem : t.cmdMem = s.cmdMem)
    (hcfg : t.cfg = s.cfg) : t.armedProgram q = s.armedProgram q := by
  simp [State.armedProgram, State.program, State.segAddr, hseq, hmem, hcfg]

/-- A sequencer that does not exist has nothing to unarm. -/
theorem State.onSeq_unarm_seqAt (s : State) (i j : Nat) :
    (s.onSeq i Sequencer.unarm).seqAt j = if i = j then (s.seqAt j).unarm else s.seqAt j := by
  rw [State.onSeq_seqAt]
  by_cases hj : j < s.seqs.length
  · simp [hj]
  · have hd : s.seqAt j = Sequencer.initial :=
      List.getD_eq_default _ _ (Nat.le_of_not_lt hj)
    have hu : Sequencer.initial.unarm = Sequencer.initial := rfl
    simp [hj, hd, hu]

/-- Unarming up to a sequencer, as `State.unarmIf` does it for all. -/
def State.unarmBelow (s : State) (p : Nat → Cmd → Bool) (n : Nat) : State :=
  (List.range n).foldl (fun s q => if (s.armedProgram q).any (p q) then s.onSeq q Sequencer.unarm else s) s

theorem State.unarmIf_eq (s : State) (p : Nat → Cmd → Bool) : s.unarmIf p = s.unarmBelow p s.cfg.nSeq := rfl

theorem State.unarmBelow_succ (s : State) (p : Nat → Cmd → Bool) (n : Nat) : s.unarmBelow p (n + 1) =
    if ((s.unarmBelow p n).armedProgram n).any (p n) then (s.unarmBelow p n).onSeq n Sequencer.unarm else s.unarmBelow p n := by
  simp [State.unarmBelow, List.range_succ]

theorem State.keeps_unarmBelow (s : State) (p : Nat → Cmd → Bool) (n : Nat) : s.keeps (s.unarmBelow p n) [.seqs] :=
  State.keeps_foldl _ (fun t q => State.keeps_ite (t.keeps_onSeq q _) (t.keeps_refl _)) _ s

theorem State.unarmBelow_seqAt (s : State) (p : Nat → Cmd → Bool) (n q : Nat) : (s.unarmBelow p n).seqAt q =
    if q < n ∧ (s.armedProgram q).any (p q) = true then (s.seqAt q).unarm else s.seqAt q := by
  induction n generalizing q with
  | zero => simp [State.unarmBelow]
  | succ n ih =>
    have hn : (s.unarmBelow p n).seqAt n = s.seqAt n := by simp [ih n]
    have hkeeps := s.keeps_unarmBelow p n
    rw [State.unarmBelow_succ, State.armedProgram_congr n hn (hkeeps .cmdMem (by decide)) (hkeeps .cfg (by decide))]
    by_cases hq : q = n
    · subst hq
      split <;> rename_i ha <;> simp [State.onSeq_unarm_seqAt, hn, ha]
    · have hlt : q < n + 1 ↔ q < n := by omega
      simp only [hlt, ← ih q]
      split
      · rw [State.onSeq_unarm_seqAt, if_neg (Ne.symm hq)]
      · rfl

theorem State.keeps_unarmIf (s : State) (p : Nat → Cmd → Bool) : s.keeps (s.unarmIf p) [.seqs] := s.keeps_unarmBelow p _

theorem State.unarmed_unarmIf (s : State) (p : Nat → Cmd → Bool) : s.unarmed (s.unarmIf p) p := fun q => s.unarmBelow_seqAt p _ q

/-- Unarming speaks of the sequencers, the command memory and the configuration alone. -/
theorem State.unarmed_of_keeps {s t u : State} {p : Nat → Cmd → Bool} {l : List Field} (h : t.unarmed u p) (hk : s.keeps t l)
    (hseq : Field.seqs ∉ l) (hmem : Field.cmdMem ∉ l) (hcfg : Field.cfg ∉ l) : s.unarmed u p := by
  intro q
  have hat : t.seqAt q = s.seqAt q := congrArg (·.getD q Sequencer.initial) (hk .seqs hseq)
  have hc : t.cfg = s.cfg := hk .cfg hcfg
  rw [h q, State.armedProgram_congr q hat (hk .cmdMem hmem) hc, hat, hc]

/-! ## Writing one entry -/

/-- A static change of one entry unarms the programs that name it. -/
theorem State.staticChanges_single_any (s : State) (i : Nat) (x : Entry) (p : Nat → Bool) :
    (s.staticChanges [(i, x)]).any p = (decide (x.statics ≠ (s.entry i).statics) && p i) := by
  by_cases h : x.statics = (s.entry i).statics <;> simp [State.staticChanges, h]

theorem State.writeEntries_single (s : State) (i : Nat) (x : Entry) : s.writeEntries [(i, x)] =
    (s.writeEntry i x).unarmIf fun _ c => decide (x.statics ≠ (s.entry i).statics) && inRanges c.entries i := by
  simp [State.writeEntries, State.staticChanges_single_any]

theorem State.keeps_withLedger (s : State) (m : Mem) : s.keeps { s with ledger := m } [.ledger] := by
  intro f hf; cases f <;> first | rfl | exact absurd (by decide) hf

theorem State.keeps_setEntry (s : State) (i : Nat) (x : Entry) : s.keeps (s.setEntry i x) [.ledger] := s.keeps_withLedger _

theorem State.setEntry_ledger (s : State) (i : Nat) (x : Entry) : (s.setEntry i x).ledger = x.toMem s.ledger i := by
  unfold State.setEntry; with_reducible rfl

theorem State.keeps_checkpoint (s : State) (i : Nat) : s.keeps (s.checkpoint i) [.ckpt] := by
  refine State.keeps_ite (s.keeps_refl _) ?_
  intro f hf; cases f <;> first | rfl | exact absurd (by decide) hf

/-- After a checkpoint the entry has one. -/
theorem State.mem_checkpoint (s : State) (i : Nat) : ∃ c ∈ (s.checkpoint i).ckpt, c.1 = i := by
  unfold State.checkpoint
  split
  · rename_i h
    simpa using h
  · exact ⟨_, List.mem_append_right _ (List.mem_singleton.2 rfl), rfl⟩

theorem State.keeps_writeEntry (s : State) (i : Nat) (x : Entry) : s.keeps (s.writeEntry i x) [.ledger, .ckpt] :=
  (State.keeps_ite ((s.keeps_checkpoint i).mono (by decide)) (s.keeps_refl _)).trans ((State.keeps_setEntry _ i x).mono (by decide))

theorem State.writeEntry_ledger (s : State) (i : Nat) (x : Entry) : (s.writeEntry i x).ledger = x.toMem s.ledger i := by
  have h : s.keeps (if s.movesSpan i x then s.checkpoint i else s) [.ckpt] := State.keeps_ite (s.keeps_checkpoint i) (s.keeps_refl _)
  have hl := h .ledger (by decide)
  unfold State.writeEntry
  rw [State.setEntry_ledger, hl]

theorem State.writeEntry_ckpt (s : State) (i : Nat) (x : Entry) :
    (s.writeEntry i x).ckpt = if s.movesSpan i x then (s.checkpoint i).ckpt else s.ckpt := by
  have h := State.keeps_setEntry (if s.movesSpan i x then s.checkpoint i else s) i x
  exact (h .ckpt (by decide)).trans (apply_ite ..)

/-- The first update of HEAD or CURSOR in an epoch has a checkpoint; another write has none (R351). -/
theorem State.writeEntry_checkpoint (s : State) (i : Nat) (x : Entry) :
    (s.movesSpan i x = false → (s.writeEntry i x).ckpt = s.ckpt) ∧
      (s.movesSpan i x = true → ∃ c ∈ (s.writeEntry i x).ckpt, c.1 = i) := by
  rw [State.writeEntry_ckpt]
  refine ⟨fun h => by simp [h], fun h => ?_⟩
  simpa [h] using s.mem_checkpoint i

end Machine
end Sys2Proof
end

section
/-! PROOFS. The obligation of LEDGER_WORD, CIRC_WORD and ROUTE_WORD (14 R338; 16 R420). -/

namespace Sys2Proof.Machine

/-! ## The registers -/

theorem State.writeReg_ledgerWord (s : State) {k : Nat} (hk : k < 4) (data : Word) :
    s.writeReg (0x1A0008 + 8 * k) data = s.writeLedgerWord k data := by
  match k, hk with
  | 0, _ | 1, _ | 2, _ | 3, _ => simp [State.writeReg, regionOf, State.writeExpert]

theorem State.writeReg_circWord (s : State) {w : Nat} (hw : w < 4) (data : Word) :
    s.writeReg (0x190008 + 8 * w) data = s.writeCirc w data := by
  match w, hw with
  | 0, _ | 1, _ | 2, _ | 3, _ => simp [State.writeReg, regionOf, State.writeExpert]

theorem State.writeReg_routeWord (s : State) (data : Word) : s.writeReg 0x190048 data = s.writeRoute data := by
  simp [State.writeReg, regionOf, State.writeExpert]

/-! ## An answered effect -/

/-- What an effect keeps, its answer keeps beside the register port. -/
theorem State.keeps_respond_of_keeps {s t : State} {l : List Field} (h : s.keeps t l) (code : BitVec 3) (data : Word) :
    s.keeps (t.respond code data) (.rp :: l) :=
  (h.mono fun _ hf => List.mem_cons_of_mem _ hf).trans ((t.keeps_respond code data).mono fun _ hf => by simp_all)

/-- The answer leaves the shadows of a state whose register port the effect kept. -/
theorem State.answered_respond_of_keeps {s t : State} {l : List Field} (h : s.keeps t l) (hrp : Field.rp ∉ l) (code : BitVec 3)
    (data : Word) : s.answered (t.respond code data) code data :=
  ⟨rfl, rfl, rfl, show t.rp.shadows = s.rp.shadows from congrArg RegPort.shadows (h .rp hrp)⟩

/-! ## LEDGER_WORD -/

/-- The checks of LEDGER_WORD that refuse an entry as it would stand (R338). -/
def State.refusesEntry (s : State) (i : Nat) (x : Entry) : Prop :=
  s.ledgerCheck [(i, x)] ≠ 0 ∨ (s.anyEpoch = true ∧ x.statics ≠ (s.entry i).statics)

section
variable {s : State} {i k : Nat} {x : Entry} {data : Word}

theorem State.writeLedgerWord_refused (hi : field s.win.ledgerSel 0 17 = i) (hx : setEntryWord (s.entry i) k data.toNat = x)
    (hh : s.ledgerHere = true) (h : s.refusesEntry i x) :
    s.writeLedgerWord k data = (rspDenied, s.onWin fun w => { w with granErr := w.granErr ||| 1 }) := by
  subst hi hx
  unfold State.writeLedgerWord
  simp only [hh, Bool.not_true, Bool.false_eq_true, if_false]
  exact if_pos h

theorem State.writeLedgerWord_taken (hi : field s.win.ledgerSel 0 17 = i) (hx : setEntryWord (s.entry i) k data.toNat = x)
    (hh : s.ledgerHere = true) (h : ¬ s.refusesEntry i x) :
    s.writeLedgerWord k data = (rspOk, (s.writeEntry i x).unarmIf fun _ c =>
      decide (x.statics ≠ (s.entry i).statics) && inRanges c.entries i) := by
  rw [← State.writeEntries_single]
  subst hi hx
  unfold State.writeLedgerWord
  simp only [hh, Bool.not_true, Bool.false_eq_true, if_false]
  exact if_neg h

/-- A write of an entry with one word replaced stores that word alone. -/
theorem State.writeEntry_stored (hm : s.ledger.wf = true) (hk : k < 4) :
    Mem.stored s.ledger (s.writeEntry i (setEntryWord (s.entry i) k data.toNat)).ledger (32 * i + 8 * k) data := by
  rw [State.writeEntry_ledger, State.entry, setEntryWord_toMem hm i hk]
  exact Mem.stored_write64 hm _ data

end

theorem exec_ledgerWordWrite {s : State} {src : BitVec 4} {k : Nat} (hk : k < 4) (data : Word)
    (hg : s.grants src true (0x1A0008 + 8 * k) = true) : exec (.ledgerWordWrite src k data) s =
      .next ((s.writeLedgerWord k data).2.respond (s.writeLedgerWord k data).1 0) := by
  rw [← s.writeReg_ledgerWord hk]
  exact s.regWrite_granted src _ data hg

theorem ledgerWord_here (src : BitVec 4) (k : Nat) (data : Word) (s : State) (hk : k < 4) (hm : s.ledger.wf = true)
    (hh : s.ledgerHere = true) (hg : s.grants src true (0x1A0008 + 8 * k) = true) :
    let i := field s.win.ledgerSel 0 17
    let x := setEntryWord (s.entry i) k data.toNat
    let bad := s.ledgerCheck [(i, x)] ≠ 0 ∨ (s.anyEpoch = true ∧ x.statics ≠ (s.entry i).statics)
    ∃ t, exec (.ledgerWordWrite src k data) s = .next t ∧
      (bad → s.answered t rspDenied 0 ∧ t.win = { s.win with granErr := s.win.granErr ||| 1 } ∧ s.keeps t [.rp, .win]) ∧
      (¬bad → s.answered t rspOk 0 ∧ Mem.stored s.ledger t.ledger (32 * i + 8 * k) data ∧
        (s.movesSpan i x = false → t.ckpt = s.ckpt) ∧ (s.movesSpan i x = true → ∃ c ∈ t.ckpt, c.1 = i) ∧
        s.unarmed t (fun _ c => decide (x.statics ≠ (s.entry i).statics) && inRanges c.entries i) ∧
        s.keeps t [.rp, .ledger, .seqs, .ckpt]) := by
  intro i x bad
  refine ⟨_, exec_ledgerWordWrite hk data hg, fun hbad => ?_, fun hok => ?_⟩
  · rw [State.writeLedgerWord_refused rfl rfl hh hbad]
    have hkeeps := s.keeps_onWin fun w => { w with granErr := w.granErr ||| 1 }
    exact ⟨State.answered_respond_of_keeps hkeeps (by decide) _ _, rfl, State.keeps_respond_of_keeps hkeeps _ _⟩
  · rw [State.writeLedgerWord_taken rfl rfl hh hok]
    obtain ⟨hstay, hnew⟩ := s.writeEntry_checkpoint i x
    have hentry := s.keeps_writeEntry i x
    have hunarm := (s.writeEntry i x).keeps_unarmIf fun _ c => decide (x.statics ≠ (s.entry i).statics) && inRanges c.entries i
    have hledger := hunarm .ledger (by decide)
    have hckpt := hunarm .ckpt (by decide)
    have hkeeps := (hentry.mono (k := [.ledger, .seqs, .ckpt]) (by decide)).trans (hunarm.mono (by decide))
    refine ⟨State.answered_respond_of_keeps hkeeps (by decide) _ _, ?_, ?_, ?_, ?_, State.keeps_respond_of_keeps hkeeps _ _⟩
    · show Mem.stored s.ledger (State.unarmIf _ _).ledger _ data
      rw [hledger]
      exact State.writeEntry_stored hm hk
    · exact fun hmove => hckpt.trans (hstay hmove)
    · show _ → ∃ c ∈ (State.unarmIf _ _).ckpt, _
      rw [hckpt]
      exact hnew
    · exact State.unarmed_of_keeps (State.unarmed_unarmIf _ _) hentry (by decide) (by decide) (by decide)

/-! ## Another die's ledger -/

/-- A write that another die checks is sent there, and a free value says whether it is taken (notes/assumptions/21). -/
theorem State.writeThere_spec (s : State) (die : Nat) (m : FedMsg) (refused : Windows → Windows) :
    let r := s.writeThere die m refused
    r.2.free = s.free + 1 ∧ r.2.fedOut = (die, m) :: s.fedOut ∧
      ((r.1 = rspOk ∧ r.2.win = s.win) ∨ (r.1 = rspDenied ∧ r.2.win = refused s.win)) ∧ s.keeps r.2 [.win, .fedOut, .free] := by
  intro r
  have hsent : s.keeps (s.fresh.2.fedSend die m) [.win, .fedOut, .free] := by
    intro f hf; cases f <;> first | rfl | exact absurd (by decide) hf
  by_cases hw : (s.fresh.1).getLsbD 0
  · have hr : r = (rspOk, s.fresh.2.fedSend die m) := if_pos hw
    rw [hr]
    exact ⟨rfl, rfl, .inl ⟨rfl, rfl⟩, hsent⟩
  · have hr : r = (rspDenied, (s.fresh.2.fedSend die m).onWin refused) := if_neg hw
    rw [hr]
    exact ⟨rfl, rfl, .inr ⟨rfl, rfl⟩, hsent.trans ((State.keeps_onWin _ _).mono (by decide))⟩

theorem State.writeLedgerWord_there {s : State} (k : Nat) (data : Word) (hh : s.ledgerHere = false) :
    s.writeLedgerWord k data = s.writeThere (field s.win.ledgerSel 32 3) (.write (0x1A0008 + 8 * k) (field s.win.ledgerSel 0 17) data)
      fun w => { w with granErr := w.granErr ||| 1 } := by
  simp [State.writeLedgerWord, hh]

theorem ledgerWord_there (src : BitVec 4) (k : Nat) (data : Word) (s : State) (hk : k < 4) (hh : s.ledgerHere = false)
    (hg : s.grants src true (0x1A0008 + 8 * k) = true) :
    ∃ t, exec (.ledgerWordWrite src k data) s = .next t ∧ t.free = s.free + 1 ∧
      t.fedOut = (field s.win.ledgerSel 32 3, FedMsg.write (0x1A0008 + 8 * k) (field s.win.ledgerSel 0 17) data) :: s.fedOut ∧
      ((s.answered t rspOk 0 ∧ t.win = s.win) ∨ (s.answered t rspDenied 0 ∧ t.win = { s.win with granErr := s.win.granErr ||| 1 })) ∧
      s.keeps t [.rp, .win, .fedOut, .free] := by
  refine ⟨_, exec_ledgerWordWrite hk data hg, ?_⟩
  obtain ⟨hfree, hout, hanswer, hkeeps⟩ := State.writeLedgerWord_there k data hh ▸ s.writeThere_spec _ _ _
  refine ⟨hfree, hout, ?_, State.keeps_respond_of_keeps hkeeps _ _⟩
  have hanswered := State.answered_respond_of_keeps hkeeps (by decide)
  rcases hanswer with ⟨hcode, hwin⟩ | ⟨hcode, hwin⟩
  · exact .inl ⟨hcode ▸ hanswered _ _, hwin⟩
  · exact .inr ⟨hcode ▸ hanswered _ _, hwin⟩

/-! ## CIRC_WORD and ROUTE_WORD -/

/-- The bits of a circuit's words, as masks. -/
theorem masked_circMask (data : Word) (w : Nat) :
    masked data (circMask w) = if w = 0 then data &&& 0x1FFFFFFFFFFFFFFF else data := by
  by_cases h : w = 0
  · simp [h, masked, circMask, word]
  · have hones : word (circMask w) = BitVec.allOnes 64 := by rw [circMask, if_neg h]; rfl
    rw [masked, hones, BitVec.and_allOnes, if_neg h]

/-- The bits of a ROUTES word, as masks. -/
theorem masked_routeMask (data : Word) (i : Nat) : masked data (routeMask i) =
    data &&& if i = 0 then 0x3FFFFFFFFFFFFF else if i < 3 then 0xFFFFFFFFFFFF else 0x3F3FFFFFFFFF := by
  unfold masked routeMask
  congr 1
  split
  · rfl
  · split <;> rfl

/-- What a word of the pending job's wiring does, answered, in its three cases (R420). -/
theorem State.writeJobWord_spec (s : State) (hs : s.shaped = true) (sel : Word) (put : Job → Job) :
    let d := field sel 0 3
    let t := (s.writeJobWord sel put).2.respond (s.writeJobWord sel put).1 0
    (field sel 24 1 = 1 → s.answered t rspDenied 0 ∧ t.win = { s.win with collErr := s.win.collErr ||| 1 } ∧ s.keeps t [.rp, .win]) ∧
    (field sel 24 1 = 0 → s.anyEpoch = true → s.answered t rspDenied 0 ∧ s.keeps t [.rp]) ∧
    (field sel 24 1 = 0 → s.anyEpoch = false → d < s.cfg.nSeq → s.answered t rspOk 0 ∧
      t.domAt d = { s.domAt d with pendingJob := (s.domAt d).pendingJob.map put } ∧
      (∀ e, e ≠ d → t.domAt e = s.domAt e) ∧ s.keeps t [.rp, .coll]) := by
  intro d t
  refine ⟨fun hbank => ?_, fun hbank hrun => ?_, fun hbank hrun hd => ?_⟩
  · have hr : s.writeJobWord sel put = (rspDenied, s.onWin fun w => { w with collErr := w.collErr ||| 1 }) := if_pos hbank
    have hkeeps := s.keeps_onWin fun w => { w with collErr := w.collErr ||| 1 }
    simp only [t, hr]
    exact ⟨State.answered_respond_of_keeps hkeeps (by decide) _ _, rfl, State.keeps_respond_of_keeps hkeeps _ _⟩
  · have hr : s.writeJobWord sel put = (rspDenied, s) := by simp [State.writeJobWord, hbank, hrun]
    simp only [t, hr]
    exact ⟨s.respond_answered _ _, s.keeps_respond _ _⟩
  · have hr : s.writeJobWord sel put = (rspOk, s.onDom d fun c => { c with pendingJob := c.pendingJob.map put }) := by
      simp [State.writeJobWord, hbank, hrun, d]
    have hkeeps := s.keeps_onDom d fun c => { c with pendingJob := c.pendingJob.map put }
    have hdoms : s.coll.doms.length = s.cfg.nSeq := by
      simp only [State.shaped, decide_eq_true_eq] at hs
      obtain ⟨-, -, -, hdoms, -⟩ := hs
      exact hdoms
    have hat (e : Nat) : t.domAt e = if d = e ∧ e < s.coll.doms.length then
        { s.domAt e with pendingJob := (s.domAt e).pendingJob.map put } else s.domAt e := by
      simp only [t, hr]
      exact s.onDom_domAt d e _
    refine ⟨?_, ?_, fun e he => ?_, ?_⟩
    · simp only [t, hr]
      exact State.answered_respond_of_keeps hkeeps (by decide) _ _
    · rw [hat d, if_pos ⟨rfl, hdoms ▸ hd⟩]
    · rw [hat e, if_neg fun h => he h.1.symm]
    · simp only [t, hr]
      exact State.keeps_respond_of_keeps hkeeps _ _

theorem exec_circWordWrite {s : State} {src : BitVec 4} {w : Nat} (hw : w < 4) (data : Word)
    (hg : s.grants src true (0x190008 + 8 * w) = true) : exec (.circRouteWordWrite src (.circ w) data) s =
      .next ((s.writeCirc w data).2.respond (s.writeCirc w data).1 0) := by
  rw [← s.writeReg_circWord hw]
  exact s.regWrite_granted src _ data hg

theorem exec_routeWordWrite {s : State} {src : BitVec 4} (data : Word) (hg : s.grants src true 0x190048 = true) :
    exec (.circRouteWordWrite src .route data) s = .next ((s.writeRoute data).2.respond (s.writeRoute data).1 0) := by
  rw [← s.writeReg_routeWord]
  exact s.regWrite_granted src _ data hg

/-- Settles O26: each command answers what its register's write does; a ledger word checked here by `ledgerWord_here`, one of another
die by `ledgerWord_there`, a word of the pending job by `State.writeJobWord_spec`. That a static change refused in an epoch sets
LEDGER_BAD too, and that a word the pending job does not hold is answered OK, are the model's choices (notes/assumptions/41, 43). -/
theorem ledgerAndJobWordsAreChecked : Obligations.LedgerAndJobWordsAreChecked := by
  refine ⟨fun src k data s hk hm _ hh hg => ?_, ledgerWord_there, fun src reg data s hs hreg => ?_⟩
  · have hledger : s.ledger.wf = true := by
      simp only [State.memWf, Bool.and_eq_true] at hm
      obtain ⟨⟨⟨⟨⟨⟨-, hledger⟩, -⟩, -⟩, -⟩, -⟩, -⟩ := hm
      exact hledger
    exact ledgerWord_here src k data s hk hledger hh hg
  · cases reg with
    | circ w =>
      intro a sel put d hg
      refine ⟨_, exec_circWordWrite (hreg w rfl) data hg, ?_⟩
      have h := s.writeJobWord_spec hs s.win.circSel put
      simp only [State.writeCirc, masked_circMask]
      exact h
    | route =>
      intro a sel put d hg
      refine ⟨_, exec_routeWordWrite data hg, ?_⟩
      have h := s.writeJobWord_spec hs s.win.routeSel put
      simp only [State.writeRoute, masked_routeMask]
      exact h

end Sys2Proof.Machine
end

section
/-! PROOFS. Register writes: what a granted write answers, and the registers that only store. The obligation of REGISTER_WRITE (02 R54;
03 R100; 17 R439; 18 R443, R444). -/

namespace Sys2Proof.Machine

/-- A granted write whose register takes it: the effect `u`, answered with the register's code. -/
theorem State.regWrite_gives {s u : State} {src : BitVec 4} {a : Nat} {w : Word} {code : BitVec 3} {l : List Field}
    (hg : s.grants src true a = true) (hw : s.writeReg a w = (code, u)) (hk : s.keeps u l) (hrp : Field.rp ∉ l) :
    portRequest s (s.regWrite src.toNat a w) = .next (u.respond code 0) ∧ s.answered (u.respond code 0) code 0 ∧
      s.keeps (u.respond code 0) (.rp :: l) := by
  refine ⟨?_, State.answered_respond_of_keeps hk hrp code 0, State.keeps_respond_of_keeps hk code 0⟩
  rw [s.regWrite_granted src a w hg, hw]

/-! ## Gleaner registers -/

theorem State.healthIndex_low (s : State) {off : Nat} (h : off < 0x400) : s.healthIndex off = none := by
  simp [State.healthIndex, Nat.not_le_of_lt h]

/-- A gleaner register below the core counters, GLN_DIE apart, is that of the die which GLN_DIE names. -/
theorem State.dieOf_gleaner (s : State) {a off : Nat} (hr : regionOf a = .gleaner off) (h : off < 0x400) (hd : off ≠ 0x358) :
    s.dieOf a = s.gln.die.toNat % 8 := by
  simp [State.dieOf, hr, s.healthIndex_low h, hd]

theorem State.keeps_fedSend (s : State) (die : Nat) (m : FedMsg) : s.keeps (s.fedSend die m) [.fedOut] := by
  intro f hf; cases f <;> first | rfl | exact absurd (by decide) hf

theorem State.writeReg_gleaner_there (s : State) {a off : Nat} (data : Word) (hr : regionOf a = .gleaner off) (h : off < 0x400)
    (hd : off ≠ 0x358) (hdie : s.gln.die.toNat % 8 ≠ s.boot.straps.dieId.toNat) :
    s.writeReg a data = (rspOk, s.fedSend (s.gln.die.toNat % 8) (.write a 0 data)) := by
  simp [State.writeReg, State.otherDie, hr, s.dieOf_gleaner hr h hd, hdie]

theorem State.writeReg_gleaner_here (s : State) {a off : Nat} (data : Word) (hr : regionOf a = .gleaner off) (h : off < 0x400)
    (hd : off ≠ 0x358) (hdie : s.gln.die.toNat % 8 = s.boot.straps.dieId.toNat) :
    s.writeReg a data = (rspOk, s.writeGleaner off data) := by
  simp [State.writeReg, State.otherDie, hr, s.dieOf_gleaner hr h hd, hdie]

theorem State.writeReg_imageAddr (s : State) (data : Word) :
    s.writeReg 0x88 data = (rspOk, s.onBoot fun b => { b with imageAddr := data &&& 0xFFFFFFFFFF }) := by
  simp [State.writeReg, regionOf, State.writeStartup, masked, word]

/-- Settles O20: a granted write does what its register does (`State.regWrite_granted`); a gleaner register is written on the die that GLN_DIE
names (`State.writeReg_gleaner_there`, `State.writeReg_gleaner_here`). -/
theorem registerWriteStoresByAccessType : Obligations.RegisterWriteStoresByAccessType := by
  refine ⟨fun src addr data s hg => ?_, fun src data s hdie hg => ?_, fun src data s hdie => ?_⟩
  · exact ⟨_, s.regWrite_granted src _ data hg, rfl, rfl, rfl⟩
  · have hw := s.writeReg_gleaner_there (a := 0x50008) data rfl (by decide) (by decide) hdie
    obtain ⟨he, ha, hk⟩ := State.regWrite_gives hg hw (s.keeps_fedSend _ _) (by decide)
    exact ⟨_, he, ha, rfl, hk⟩
  · refine ⟨fun hg => ?warn, fun hg => ?irqEn, fun hg => ?firstFatal, fun hg => ?imageAddr⟩
    case warn =>
      have hw := s.writeReg_gleaner_here (a := 0x50008) data rfl (by decide) (by decide) hdie
      obtain ⟨he, ha, hk⟩ := State.regWrite_gives hg hw (s.keeps_onGln _) (by decide)
      exact ⟨_, he, ha, rfl, hk⟩
    case irqEn =>
      have hw := s.writeReg_gleaner_here (a := 0x50010) data rfl (by decide) (by decide) hdie
      obtain ⟨he, ha, hk⟩ := State.regWrite_gives hg hw (s.keeps_onGln _) (by decide)
      exact ⟨_, he, ha, rfl, hk⟩
    case firstFatal =>
      have hw := s.writeReg_gleaner_here (a := 0x50018) data rfl (by decide) (by decide) hdie
      obtain ⟨he, ha, hk⟩ := State.regWrite_gives hg hw (s.keeps_refl []) (by decide)
      exact ⟨_, he, ha, hk⟩
    case imageAddr =>
      obtain ⟨he, ha, hk⟩ := State.regWrite_gives hg (s.writeReg_imageAddr data) (s.keeps_onBoot _) (by decide)
      exact ⟨_, he, ha, rfl, hk⟩

end Sys2Proof.Machine
end

section
/-! PROOFS. Cores and the position map, the coupler's registers, and the copies that go to the other dies of a part (01 R33; 13 R311, R313,
R314; 17 R424, R440). -/

namespace Sys2Proof.Machine

/-! ## Numbers of the configuration (R5) -/

theorem nActive_pos (c : Cfg) : 0 < c.nActive := by
  unfold Cfg.nActive; split <;> decide

theorem nSeq_le (c : Cfg) : c.nSeq ≤ 8 := by
  unfold Cfg.nSeq; split <;> decide

theorem State.shaped_cores {s : State} (h : s.shaped = true) :
    s.cores.serve.length = s.cfg.nActive ∧ s.cores.shadow.length = s.cfg.nActive := by
  simp only [State.shaped, decide_eq_true_eq] at h
  obtain ⟨-, -, -, -, -, -, -, hserve, hshadow, -⟩ := h
  exact ⟨hserve, hshadow⟩

/-! ## Copies to the other dies -/

/-- The dies that a copy goes to. -/
theorem State.fedAll_fedOut (s : State) (m : FedMsg) : s.copiedOut (s.fedAll m) m := by
  have hfold (l : List Nat) (t : State) (x : Nat × FedMsg) :
      x ∈ (l.foldl (fun s e => s.fedSend e m) t).fedOut ↔ x ∈ t.fedOut ∨ (x.2 = m ∧ x.1 ∈ l) := by
    induction l generalizing t with
    | nil => simp
    | cons e l ih =>
      rw [List.foldl_cons, ih]
      simp only [State.fedSend, List.mem_cons, Prod.ext_iff]
      tauto
  intro x
  rw [State.fedAll, hfold]
  simp only [List.mem_filter, List.mem_range, Nat.lt_succ_iff, bne_iff_ne]

theorem State.keeps_fedAll (s : State) (m : FedMsg) : s.keeps (s.fedAll m) [.fedOut] :=
  State.keeps_foldl _ (fun t e => t.keeps_fedSend e m) _ s

theorem State.copiedOut_of_keeps {s t u : State} {m : FedMsg} {l : List Field} (h : t.copiedOut u m) (hk : s.keeps t l)
    (hout : Field.fedOut ∉ l) (hboot : Field.boot ∉ l) : s.copiedOut u m := by
  have ho : t.fedOut = s.fedOut := hk .fedOut hout
  have hb : t.boot = s.boot := hk .boot hboot
  intro x
  rw [h x, ho, hb]

/-! ## Cores that take and leave a position (R424) -/

/-- Core k of a list is in a state, where it exists. -/
def physIn (l : List PhysCore) (k : Nat) (st : CoreState) : Prop := ∀ p, l[k]? = some p → p.state = st

/-- The state of a core that has left a position: FREE if it is a spare. -/
def leftState (n k : Nat) : CoreState := if n ≤ k then .free else .fenced

theorem physIn_modify_same (l : List PhysCore) (k : Nat) (st : CoreState) : physIn (l.modify k fun p => { p with state := st }) k st := by
  intro p hp
  rw [List.getElem?_modify] at hp
  obtain ⟨q, -, rfl⟩ := Option.map_eq_some_iff.1 hp
  simp

theorem physIn_modify_other (l : List PhysCore) {k j : Nat} (f : PhysCore → PhysCore) (st : CoreState) (h : k ≠ j) :
    physIn (l.modify k f) j st ↔ physIn l j st := by
  simp [physIn, h]

section
variable (n : Nat) (c : Cores) (g : Nat)

theorem Cores.setServe_same {k : Nat} (h : c.serve.getD g g = k) : Cores.setServe n c g k = c := if_pos h

theorem Cores.setServe_new {k : Nat} (h : c.serve.getD g g ≠ k) : Cores.setServe n c g k =
    { c with serve := c.serve.set g k
             phys := (Cores.retire n c (c.serve.getD g g)).phys.modify k fun p => { p with state := .serving }
             sheaves := c.sheaves.clear (65536 * g) 65536 } := if_neg h

theorem Cores.setServe_shadow (k : Nat) : (Cores.setServe n c g k).shadow = c.shadow := by
  by_cases h : c.serve.getD g g = k
  · rw [c.setServe_same n g h]
  · rw [c.setServe_new n g h]

/-- The core that serves the position afterwards. -/
theorem Cores.setServe_serve (k : Nat) (hg : g < c.serve.length) : (Cores.setServe n c g k).serve.getD g g = k := by
  by_cases h : c.serve.getD g g = k
  · rw [c.setServe_same n g h, h]
  · rw [c.setServe_new n g h]
    simp [hg]

theorem Cores.setServe_serve_other (k : Nat) {x : Nat} (h : x ≠ g) : (Cores.setServe n c g k).serve[x]? = c.serve[x]? := by
  by_cases hk : c.serve.getD g g = k
  · rw [c.setServe_same n g hk]
  · rw [c.setServe_new n g hk]
    simp [Ne.symm h]

/-- The core that served the position has left it, and the new one serves. -/
theorem Cores.setServe_phys {k : Nat} (h : c.serve.getD g g ≠ k) :
    physIn (Cores.setServe n c g k).phys (c.serve.getD g g) (leftState n (c.serve.getD g g)) ∧
      physIn (Cores.setServe n c g k).phys k .serving := by
  rw [c.setServe_new n g h]
  refine ⟨?_, physIn_modify_same _ _ _⟩
  rw [physIn_modify_other _ _ _ (Ne.symm h)]
  exact physIn_modify_same _ _ _

/-- The cores after the shadow of a position has left it; one that serves the position stays as it is. -/
def Cores.afterShadow : List PhysCore :=
  match c.shadow.getD g none with
  | some old => if c.serve.getD g g = old then c.phys else (Cores.retire n c old).phys
  | none => c.phys

/-- The shadow of a position leaves it. -/
theorem Cores.afterShadow_left {j : Nat} (hj : c.shadow.getD g none = some j) (hs : c.serve.getD g g ≠ j) :
    physIn (c.afterShadow n g) j (leftState n j) := by
  simp only [Cores.afterShadow, hj, if_neg hs]
  exact physIn_modify_same _ _ _

/-- A core that does not shadow the position, or that has left it, stays as it is. -/
theorem Cores.afterShadow_kept {j : Nat} {st : CoreState} (h : physIn c.phys j st)
    (hj : c.shadow.getD g none = some j → c.serve.getD g g = j ∨ st = leftState n j) : physIn (c.afterShadow n g) j st := by
  unfold Cores.afterShadow
  split
  next o ho =>
    split
    · exact h
    next hs =>
      by_cases hoj : o = j
      · subst hoj
        rcases hj ho with hserve | rfl
        · exact absurd hserve hs
        · exact physIn_modify_same _ _ _
      · exact (physIn_modify_other _ _ _ hoj).2 h
  · exact h

theorem Cores.setShadow_same {k : Option Nat} (h : c.shadow.getD g none = k) : Cores.setShadow n c g k = c := if_pos h

/-- A core that enters a position as its shadow, if there is one. -/
def shadowEnters (l : List PhysCore) : Option Nat → List PhysCore
  | none => l
  | some k => l.modify k fun p => { p with state := .shadowing }

theorem shadowEnters_kept {l : List PhysCore} {k : Option Nat} {j : Nat} {st : CoreState} (h : physIn l j st) (hk : k ≠ some j) :
    physIn (shadowEnters l k) j st := by
  cases k with
  | none => exact h
  | some k => exact (physIn_modify_other _ _ _ fun hkj => hk (congrArg some hkj)).2 h

theorem Cores.setShadow_new {k : Option Nat} (h : c.shadow.getD g none ≠ k) : Cores.setShadow n c g k =
    { c with shadow := c.shadow.set g k, phys := shadowEnters (c.afterShadow n g) k } := by
  simp only [Cores.setShadow, if_neg h, Cores.afterShadow]
  cases c.shadow.getD g none with
  | none => cases k <;> rfl
  | some o => by_cases hs : c.serve.getD g g = o <;> simp only [hs, if_true, if_false] <;> cases k <;> rfl

/-- Setting a shadow changes the shadow of that position and states of cores alone. -/
theorem Cores.setShadow_spec (k : Option Nat) :
    (Cores.setShadow n c g k).serve = c.serve ∧ (Cores.setShadow n c g k).sheaves = c.sheaves ∧
      (g < c.shadow.length → (Cores.setShadow n c g k).shadow.getD g none = k) ∧
      ∀ x, x ≠ g → (Cores.setShadow n c g k).shadow[x]? = c.shadow[x]? := by
  by_cases h : c.shadow.getD g none = k
  · rw [c.setShadow_same n g h]
    exact ⟨rfl, rfl, fun _ => h, fun _ _ => rfl⟩
  · rw [c.setShadow_new n g h]
    exact ⟨rfl, rfl, fun hg => by simp [hg], fun x hx => by simp [Ne.symm hx]⟩

/-- A core that neither enters nor leaves the position as its shadow stays as it is. -/
theorem Cores.setShadow_kept {k : Option Nat} {j : Nat} {st : CoreState} (h : physIn c.phys j st) (hk : k ≠ some j)
    (hj : c.shadow.getD g none = some j → c.serve.getD g g = j ∨ st = leftState n j) : physIn (Cores.setShadow n c g k).phys j st := by
  by_cases hs : c.shadow.getD g none = k
  · rwa [c.setShadow_same n g hs]
  · rw [c.setShadow_new n g hs]
    exact shadowEnters_kept (c.afterShadow_kept n g h hj) hk

end

/-! ## POS_MAP (R440) -/

/-- A core shadows a position no longer, without leaving it. -/
def Cores.unshadow (c : Cores) (l k : Nat) : Cores :=
  if c.shadow.getD l none = some k then { c with shadow := c.shadow.set l none } else c

theorem Cores.unshadow_spec (c : Cores) (l k : Nat) : (c.unshadow l k).serve = c.serve ∧
    (c.unshadow l k).shadow.length = c.shadow.length ∧ ∀ x, x ≠ l → (c.unshadow l k).shadow[x]? = c.shadow[x]? := by
  unfold Cores.unshadow
  split
  · exact ⟨rfl, List.length_set, fun x hx => by simp [Ne.symm hx]⟩
  · exact ⟨rfl, rfl, fun _ _ => rfl⟩

/-- The cores after a position's serving core and its shadow have been set. -/
def Cores.setPos (n : Nat) (c : Cores) (l k : Nat) (h : Option Nat) : Cores := Cores.setShadow n (Cores.setServe n c l k) l h

theorem Cores.setPos_spec (n : Nat) (c : Cores) (l k : Nat) (h : Option Nat) (hserve : l < c.serve.length)
    (hshadow : l < c.shadow.length) :
    (c.setPos n l k h).serve.getD l l = k ∧ (c.setPos n l k h).shadow.getD l none = h ∧
      ∀ x, x ≠ l → (c.setPos n l k h).serve[x]? = c.serve[x]? ∧ (c.setPos n l k h).shadow[x]? = c.shadow[x]? := by
  obtain ⟨hs, -, hsh, hother⟩ := (Cores.setServe n c l k).setShadow_spec n l h
  rw [Cores.setServe_shadow] at hsh hother
  refine ⟨?_, hsh hshadow, fun x hx => ⟨?_, hother x hx⟩⟩
  · rw [Cores.setPos, hs, c.setServe_serve n l k hserve]
  · rw [Cores.setPos, hs, c.setServe_serve_other n l k hx]

/-- A new serving core serves, and the one before has left. -/
theorem Cores.setPos_phys (n : Nat) (c : Cores) (l k : Nat) (h : Option Nat) (hserve : l < c.serve.length) (hnew : c.serve.getD l l ≠ k) :
    (h ≠ some (c.serve.getD l l) → physIn (c.setPos n l k h).phys (c.serve.getD l l) (leftState n (c.serve.getD l l))) ∧
      (h ≠ some k → physIn (c.setPos n l k h).phys k .serving) := by
  obtain ⟨hold, hserves⟩ := c.setServe_phys n l hnew
  exact ⟨fun hh => Cores.setShadow_kept n _ l hold hh fun _ => .inr rfl,
    fun hh => Cores.setShadow_kept n _ l hserves hh fun _ => .inl (c.setServe_serve n l k hserve)⟩

/-- The cores after a POS_MAP write that is taken. -/
def Cores.remap (n : Nat) (c : Cores) (l k : Nat) (h : Option Nat) : Cores := (c.unshadow l k).setPos n l k h

theorem Cores.remap_spec (n : Nat) (c : Cores) (l k : Nat) (h : Option Nat) (hserve : l < c.serve.length) (hshadow : l < c.shadow.length)
    (hk : h ≠ some k) :
    (c.remap n l k h).serve.getD l l = k ∧ (c.remap n l k h).shadow.getD l none = h ∧
      (∀ x, x ≠ l → (c.remap n l k h).serve[x]? = c.serve[x]? ∧ (c.remap n l k h).shadow[x]? = c.shadow[x]?) ∧
      (c.serve.getD l l ≠ k → h ≠ some (c.serve.getD l l) →
        physIn (c.remap n l k h).phys (c.serve.getD l l) (leftState n (c.serve.getD l l))) ∧
      (c.serve.getD l l ≠ k → physIn (c.remap n l k h).phys k .serving) := by
  obtain ⟨hus, hulen, huother⟩ := c.unshadow_spec l k
  obtain ⟨hsv, hsh, hother⟩ := (c.unshadow l k).setPos_spec n l k h (hus ▸ hserve) (hulen ▸ hshadow)
  have hphys := (c.unshadow l k).setPos_phys n l k h (hus ▸ hserve)
  rw [hus] at hphys hother
  exact ⟨hsv, hsh, fun x hx => huother x hx ▸ hother x hx, fun hne hh => (hphys hne).1 hh, fun hne => (hphys hne).2 hk⟩

/-- May a POS_MAP write to a position give it core k and shadow h (0xFF for none)? -/
def State.mapOk (s : State) (g k h : Nat) : Prop :=
  s.posRuns g = false ∧ s.coreFor (g % s.cfg.nActive) k = true ∧
    (h = 0xFF ∨ (s.coreFor (g % s.cfg.nActive) h = true ∧ h ≠ k))

/-- The shadow that a POS_MAP word names. -/
def shadowField (data : Word) : Option Nat := if field data 8 8 = 0xFF then none else some (field data 8 8)

theorem shadowField_ne {data : Word} {k : Nat} (h : field data 8 8 ≠ k) : shadowField data ≠ some k := by
  unfold shadowField
  split
  · nofun
  · exact fun hc => h (Option.some.inj hc)

/-- The checks of POS_MAP, as the write makes them. -/
theorem State.mapOk_iff (s : State) (g k h : Nat) : s.mapOk g k h ↔ (s.posRuns g || !s.coreFor (g % s.cfg.nActive) k ||
    (h != 0xFF && (!s.coreFor (g % s.cfg.nActive) h || h == k))) = false := by
  simp only [State.mapOk, Bool.or_eq_false_iff, Bool.not_eq_false', Bool.and_eq_false_iff, bne_eq_false_iff_eq, beq_eq_false_iff_ne,
    and_assoc]

/-- A POS_MAP write to a position of this die. -/
theorem State.writePosMap_eq {s : State} {g : Nat} (data : Word) (hdie : g / s.cfg.nActive = s.boot.straps.dieId.toNat) :
    (s.mapOk g (field data 0 8) (field data 8 8) → s.writePosMap (g % s.cfg.nActive) data = some (s.onCores fun c =>
      c.remap s.cfg.nActive (g % s.cfg.nActive) (field data 0 8) (shadowField data))) ∧
    (¬ s.mapOk g (field data 0 8) (field data 8 8) → s.writePosMap (g % s.cfg.nActive) data = none) := by
  have hg : s.boot.straps.dieId.toNat * s.cfg.nActive + g % s.cfg.nActive = g := by
    rw [← hdie, Nat.mul_comm, Nat.div_add_mod]
  rw [State.mapOk_iff, Bool.not_eq_false]
  unfold State.writePosMap
  simp only [hg]
  exact ⟨fun h => if_neg (by simp [h]), fun h => if_pos h⟩

theorem regionOf_expert {a : Nat} (h0 : 0x100000 ≤ a) (h1 : a < 0x1B0000) :
    regionOf a = .expert ((a - 0x100000) / 0x10000 + 1) (a % 0x10000) := by
  simp (disch := omega) only [regionOf, if_neg, if_pos]

theorem State.writeReg_posMap (s : State) {g : Nat} (data : Word) (hg : g < 1024) : s.writeReg (0x120000 + 8 * g) data = s.writePos g data := by
  have hid : (0x120000 + 8 * g - 0x100000) / 0x10000 + 1 = 3 := by omega
  have hoff : (0x120000 + 8 * g) % 0x10000 = 8 * g := by omega
  simp only [State.writeReg, regionOf_expert (a := 0x120000 + 8 * g) (by omega) (by omega), hid, hoff]
  rw [State.writeExpert, Nat.mul_div_cancel_left g (by decide)]
  all_goals omega

/-- What POS_MAP does to a position of this die, answered (R440). -/
theorem State.writePos_here {s : State} {g : Nat} (data : Word) (hs : s.shaped = true)
    (hdie : g / s.cfg.nActive = s.boot.straps.dieId.toNat) :
    let n := s.cfg.nActive
    let l := g % n
    let k := field data 0 8
    let h := field data 8 8
    let old := s.cores.serve.getD l l
    let t := (s.writePos g data).2.respond (s.writePos g data).1 0
    (s.mapOk g k h → s.answered t rspOk 0 ∧ t.cores.serve.getD l l = k ∧ t.cores.shadow.getD l none = (if h = 0xFF then none else some h) ∧
      (∀ x, x ≠ l → t.cores.serve[x]? = s.cores.serve[x]? ∧ t.cores.shadow[x]? = s.cores.shadow[x]?) ∧
      (old ≠ k → old ≠ h → physIn t.cores.phys old (leftState n old)) ∧ (old ≠ k → physIn t.cores.phys k .serving) ∧
      s.keeps t [.rp, .cores]) ∧
    (¬ s.mapOk g k h → s.answered t rspDenied 0 ∧ t.win = { s.win with vaErr := s.win.vaErr ||| 1 } ∧ s.keeps t [.rp, .win]) := by
  intro n l k h old t
  obtain ⟨hok, hbad⟩ := State.writePosMap_eq data hdie
  refine ⟨fun hmap => ?_, fun hmap => ?_⟩
  · have hw : s.writePos g data = (rspOk, s.onCores fun c => c.remap n l k (shadowField data)) := by
      simp only [State.writePos, if_pos hdie, hok hmap, n, l, k]
    have hkeeps := s.keeps_onCores fun c => c.remap n l k (shadowField data)
    have hl : l < n := Nat.mod_lt _ (nActive_pos s.cfg)
    obtain ⟨hserve, hshadow⟩ := State.shaped_cores hs
    have hk : shadowField data ≠ some k := by
      obtain ⟨-, -, hff | ⟨-, hne⟩⟩ := hmap
      · simp [shadowField, show field data 8 8 = 0xFF from hff]
      · exact shadowField_ne hne
    obtain ⟨hsv, hsh, hother, hold, hnew⟩ := s.cores.remap_spec n l k (shadowField data) (hserve ▸ hl) (hshadow ▸ hl) hk
    simp only [t, hw]
    exact ⟨State.answered_respond_of_keeps hkeeps (by decide) _ _, hsv, hsh, hother,
      fun hne hneh => hold hne (shadowField_ne (Ne.symm hneh)), hnew, State.keeps_respond_of_keeps hkeeps _ _⟩
  · have hw : s.writePos g data = (rspDenied, s.onWin fun w => { w with vaErr := w.vaErr ||| 1 }) := by
      simp only [State.writePos, if_pos hdie, hbad hmap]
    have hkeeps := s.keeps_onWin fun w => { w with vaErr := w.vaErr ||| 1 }
    simp only [t, hw]
    exact ⟨State.answered_respond_of_keeps hkeeps (by decide) _ _, rfl, State.keeps_respond_of_keeps hkeeps _ _⟩

/-- What POS_MAP does to a position of another die, answered (notes/assumptions/21). -/
theorem State.writePos_there {s : State} {g : Nat} (data : Word) (hdie : g / s.cfg.nActive ≠ s.boot.straps.dieId.toNat) :
    let t := (s.writePos g data).2.respond (s.writePos g data).1 0
    let denied := s.answered t rspDenied 0 ∧ t.win = { s.win with vaErr := s.win.vaErr ||| 1 }
    (s.posRuns g = true → denied ∧ s.keeps t [.rp, .win]) ∧
    (s.posRuns g = false → t.fedOut = (g / s.cfg.nActive, FedMsg.write (0x120000 + 8 * g) 0 data) :: s.fedOut ∧ t.free = s.free + 1 ∧
      ((s.answered t rspOk 0 ∧ t.win = s.win) ∨ denied) ∧ s.keeps t [.rp, .win, .fedOut, .free]) := by
  intro t denied
  refine ⟨fun hrun => ?_, fun hrun => ?_⟩
  · have hw : s.writePos g data = (rspDenied, s.onWin fun w => { w with vaErr := w.vaErr ||| 1 }) := by
      simp only [State.writePos, if_neg hdie, hrun, if_true]
    have hkeeps := s.keeps_onWin fun w => { w with vaErr := w.vaErr ||| 1 }
    simp only [denied, t, hw]
    exact ⟨⟨State.answered_respond_of_keeps hkeeps (by decide) _ _, rfl⟩, State.keeps_respond_of_keeps hkeeps _ _⟩
  · have hw : s.writePos g data = s.writeThere (g / s.cfg.nActive) (.write (0x120000 + 8 * g) 0 data)
        fun w => { w with vaErr := w.vaErr ||| 1 } := by
      simp only [State.writePos, if_neg hdie, hrun, Bool.false_eq_true, if_false]
    obtain ⟨hfree, hout, hanswer, hkeeps⟩ := hw ▸ s.writeThere_spec _ _ _
    have hanswered := State.answered_respond_of_keeps hkeeps (by decide)
    refine ⟨hout, hfree, ?_, State.keeps_respond_of_keeps hkeeps _ _⟩
    rcases hanswer with ⟨hcode, hwin⟩ | ⟨hcode, hwin⟩
    · exact .inl ⟨hcode ▸ hanswered _ _, hwin⟩
    · exact .inr ⟨hcode ▸ hanswered _ _, hwin⟩

/-! ## The coupler's registers (R311, R313, R314) -/

theorem State.writeReg_coupler (s : State) {a : Nat} (data : Word) (h0 : 0x170000 ≤ a) (h1 : a < 0x180000) :
    s.writeReg a data = s.writeCoupler (a - 0x170000) data := by
  have hid : (a - 0x100000) / 0x10000 + 1 = 8 := by omega
  have hoff : a % 0x10000 = a - 0x170000 := by omega
  simp only [State.writeReg, regionOf_expert (a := a) (by omega) (by omega), hid, hoff]
  rw [State.writeExpert]

/-- A setting of the coupler that is stored: the programs that depend on it are unarmed, and every other die of the part gets it. -/
def State.setCoupler (s : State) (f : Coupler → Coupler) (p : Nat → Cmd → Bool) (m : FedMsg) : State :=
  ((s.onCoup f).unarmIf p).fedAll m

theorem State.setCoupler_spec (s : State) (f : Coupler → Coupler) (p : Nat → Cmd → Bool) (m : FedMsg) :
    (s.setCoupler f p m).coup = f s.coup ∧ s.copiedOut (s.setCoupler f p m) m ∧ s.unarmed (s.setCoupler f p m) p ∧
      s.keeps (s.setCoupler f p m) [.coup, .seqs, .fedOut] := by
  have hcoup := s.keeps_onCoup f
  have hunarm := (s.onCoup f).keeps_unarmIf p
  have hsent := ((s.onCoup f).unarmIf p).keeps_fedAll m
  have hbefore := (hcoup.mono (k := [.coup, .seqs]) (by decide)).trans (hunarm.mono (by decide))
  refine ⟨(hsent .coup (by decide)).trans (hunarm .coup (by decide)), ?_, ?_, (hbefore.mono (by decide)).trans (hsent.mono (by decide))⟩
  · exact State.copiedOut_of_keeps (State.fedAll_fedOut _ m) hbefore (by decide) (by decide)
  · have hu := State.unarmed_of_keeps ((s.onCoup f).unarmed_unarmIf p) hcoup (by decide) (by decide) (by decide)
    intro q
    rw [← hu q]
    exact congrArg (·.getD q Sequencer.initial) (hsent .seqs (by decide))

theorem masked_chainMask (data : Word) (w : Nat) : masked data (chainMask w) =
    data &&& if w = 0 then 0x1FFFFFFFFF else if w = 7 then 0x3FFFFFFFFFFFFF else 0xFFFFFFFFFFFFFFFF := by
  unfold masked chainMask
  congr 1
  split
  · rfl
  · rfl
  next h0 h7 => rw [if_neg h0, if_neg h7]; rfl

theorem setWidth_owner (data : Word) : ((data.setWidth 4 : BitVec 4).setWidth 64 : Word) = data &&& 15 := by
  apply BitVec.eq_of_toNat_eq
  simp only [BitVec.toNat_setWidth, BitVec.toNat_and]
  exact (Nat.mod_eq_of_lt (by omega)).trans (Nat.and_two_pow_sub_one_eq_mod data.toNat 4).symm

theorem State.writeCoupler_denied {s : State} {off : Nat} (data : Word) (hrun : s.anyEpoch = true) (hoff : off = 0 ∨ 0x1000 ≤ off) :
    s.writeCoupler off data = (rspDenied, s) := by
  unfold State.writeCoupler
  rcases hoff with rfl | hoff
  · simp [hrun]
  · rw [if_neg (by omega), if_pos hoff, if_pos hrun]

theorem State.writeCoupler_owner {s : State} (data : Word) (hrun : s.anyEpoch = false) : s.writeCoupler 0 data =
    (rspOk, s.setCoupler (fun c => { c with owner := data.setWidth 4 }) (fun _ c => c.dst == 3) (.write 0x170000 0 (data &&& 15))) := by
  rw [← setWidth_owner]
  simp only [State.writeCoupler, if_true, hrun, Bool.false_eq_true, if_false, State.setCoupler]

theorem State.writeCoupler_chain {s : State} {q c w : Nat} (data : Word) (hrun : s.anyEpoch = false) (hc : c < 8) (hw : w < 8) :
    s.writeCoupler (0x1000 + 512 * q + 64 * c + 8 * w) data =
      (rspOk, s.setCoupler (fun x => { x with chains := x.chains.write64 (512 * q + 64 * c + 8 * w) (masked data (chainMask w)) })
        (fun i x => i == q && x.chains.contains c)
        (.write (0x171000 + 0x200 * q + 0x40 * c + 8 * w) 0 (masked data (chainMask w)))) := by
  have ha : 0x1000 + 512 * q + 64 * c + 8 * w - 0x1000 = 512 * q + 64 * c + 8 * w := by omega
  have hword : (512 * q + 64 * c + 8 * w) % 64 / 8 = w := by omega
  have hseq : (512 * q + 64 * c + 8 * w) / 512 = q := by omega
  have hchain : (512 * q + 64 * c + 8 * w) % 512 / 64 = c := by omega
  have haddr : 0x170000 + (0x1000 + 512 * q + 64 * c + 8 * w) = 0x171000 + 0x200 * q + 0x40 * c + 8 * w := by omega
  unfold State.writeCoupler
  rw [if_neg (by omega), if_pos (by omega)]
  simp only [hrun, Bool.false_eq_true, if_false, ha, hword, hseq, hchain, haddr]
  rfl

/-- What a coupler register does that stores a setting, answered. -/
theorem State.coupler_stored {s : State} {src : BitVec 4} {a : Nat} {data : Word} {f : Coupler → Coupler} {p : Nat → Cmd → Bool} {m : FedMsg}
    (hg : s.grants src true a = true) (hw : s.writeReg a data = (rspOk, s.setCoupler f p m)) :
    let t := (s.writeReg a data).2.respond (s.writeReg a data).1 0
    s.answered t rspOk 0 ∧ t.coup = f s.coup ∧ s.copiedOut t m ∧ s.unarmed t p ∧ s.keeps t [.rp, .coup, .seqs, .fedOut] := by
  obtain ⟨hcoup, hsent, hunarmed, hkeeps⟩ := s.setCoupler_spec f p m
  obtain ⟨-, hanswered, hk⟩ := State.regWrite_gives hg hw hkeeps (by decide)
  simp only [hw]
  exact ⟨hanswered, hcoup, hsent, hunarmed, hk⟩

theorem State.memWf_chains {s : State} (h : s.memWf = true) : s.coup.chains.wf = true := by
  simp only [State.memWf, Bool.and_eq_true] at h
  obtain ⟨⟨⟨-, hchains⟩, -⟩, -⟩ := h
  exact hchains

/-- Settles O24: a position of this die by `State.writePos_here`, one of another die by `State.writePos_there`, the coupler's registers by
`State.coupler_stored`. That a core that does not exist, or one that would serve and shadow the same position, is DENIED is the model's choice
(notes/assumptions/44), and what another die does with its position is a free value (notes/assumptions/21). -/
theorem positionMapAndCouplerSettings : Obligations.PositionMapAndCouplerSettings := by
  refine ⟨fun src g data s hs hg hgrant => ?_, fun src data s hs hgrant => ?_, fun src q c w data s hm hs hq hc hw hgrant => ?_⟩
  · refine ⟨_, s.regWrite_granted src _ data hgrant, ?_⟩
    rw [s.writeReg_posMap data hg]
    refine ⟨fun hdie => ?_, State.writePos_there data⟩
    obtain ⟨hok, hbad⟩ := State.writePos_here data hs hdie
    exact ⟨hok, fun h => by obtain ⟨ha, hwin, hk⟩ := hbad h; exact ⟨⟨ha, hwin⟩, hk⟩⟩
  · have hreg := s.writeReg_coupler (a := 0x170000) data (by decide) (by decide)
    refine ⟨_, s.regWrite_granted src _ data hgrant, fun hrun => ?_, fun hrun => ?_⟩
    · rw [hreg, State.writeCoupler_denied data hrun (.inl rfl)]
      exact ⟨s.respond_answered _ _, s.keeps_respond _ _⟩
    · exact State.coupler_stored hgrant (hreg.trans (State.writeCoupler_owner data hrun))
  · have hq8 : q < 8 := Nat.lt_of_lt_of_le hq (nSeq_le s.cfg)
    have hoff : 0x171000 + 0x200 * q + 0x40 * c + 8 * w - 0x170000 = 0x1000 + 512 * q + 64 * c + 8 * w := by omega
    have hreg := s.writeReg_coupler (a := 0x171000 + 0x200 * q + 0x40 * c + 8 * w) data (by omega) (by omega)
    rw [hoff] at hreg
    refine ⟨_, s.regWrite_granted src _ data hgrant, fun hrun => ?_, fun hrun => ?_⟩
    · rw [hreg, State.writeCoupler_denied data hrun (.inr (by omega))]
      exact ⟨s.respond_answered _ _, s.keeps_respond _ _⟩
    · obtain ⟨hanswered, hcoup, hsent, hunarmed, hkeeps⟩ :=
        State.coupler_stored hgrant (hreg.trans (State.writeCoupler_chain data hrun hc hw))
      rw [masked_chainMask] at hcoup hsent
      refine ⟨hanswered, ?_, ?_, hsent, hunarmed, hkeeps⟩
      · rw [hcoup]
        exact Mem.stored_write64 (State.memWf_chains hm) _ _
      · rw [hcoup]

end Sys2Proof.Machine
end

section
/-! PROOFS. Requests that Kolate takes and completes at once: what `State.serves` says, and what taking and completing leave (04 R112-R118). -/

namespace Sys2Proof.Machine

/-! ## Taking a request (R112, R114, R116) -/

/-- A request that is served: the mailbox next in turn, which may be served, and a request that passes the common checks. -/
theorem State.serves_iff (s : State) (m op : Nat) : s.serves m op = true ↔
    s.memWf = true ∧ s.shaped = true ∧ s.kolateFree = true ∧ s.nextMbx = some m ∧ (s.reqAt m).opcode.toNat = op ∧
      (s.take (s.reqAt m)).commonCheck (s.reqAt m) = 0 := by
  simp only [State.serves, State.reqAt, Bool.and_eq_true, beq_iff_eq, and_assoc]

/-- A row whose request is served runs its command on the state in which the request has been taken. -/
theorem ronno_served {s : State} {m op : Nat} {pick : State → Req → Bool} (run : Req → State → State) (h : s.serves m op = true)
    (hp : pick s (s.reqAt m) = true) : ronno m pick run s = .next (run (s.reqAt m) (s.take (s.reqAt m))) := by
  obtain ⟨-, -, hfree, hnext, -, hcheck⟩ := (s.serves_iff m op).1 h
  unfold State.reqAt at hp hcheck
  simp [ronno, State.reqAt, hfree, hnext, hp, hcheck]

theorem State.keeps_take (s : State) (r : Req) : s.keeps (s.take r) [.mbx, .kol] :=
  ((s.keeps_onMbx _ _).mono (by decide)).trans ((State.keeps_onKol _ _).mono (by decide))

/-- What the round-robin asks of the mailbox that it serves (R114, R116). -/
theorem State.nextMbx_spec {s : State} {m : Nat} (h : s.nextMbx = some m) :
    m < 16 ∧ (s.mbxAt m).takeable m = true ∧ ∀ r ∈ s.kol.waiting, r.mbox ≠ m := by
  have hmem := List.mem_of_find?_eq_some h
  have hp := List.find?_some h
  simp only [List.mem_map, List.mem_range] at hmem
  obtain ⟨k, -, rfl⟩ := hmem
  simp only [Bool.and_eq_true, Bool.not_eq_true', List.any_eq_false, beq_iff_eq] at hp
  exact ⟨Nat.mod_lt _ (by decide), hp⟩

/-- The mailbox of a request that is served, and the control core that serves it. -/
theorem State.serves_mailbox {s : State} {m op : Nat} (h : s.serves m op = true) :
    m < s.mbx.length ∧ (s.mbxAt m).mem.wf = true ∧ (s.mbxAt m).overrun = false ∧ (s.mbxAt m).resetBusy = false ∧
      s.kol.works = true ∧ s.kol.held = none ∧ s.kol.cleaning = none ∧ ∀ r ∈ s.kol.waiting, r.mbox ≠ m := by
  obtain ⟨hmem, hshape, hfree, hnext, -, -⟩ := (s.serves_iff m op).1 h
  obtain ⟨hm, htake, hwait⟩ := State.nextMbx_spec hnext
  have hlen : s.mbx.length = 16 := by
    simp only [State.shaped, decide_eq_true_eq] at hshape
    exact hshape.1
  simp only [State.memWf, Bool.and_eq_true, List.all_eq_true] at hmem
  simp only [Mailbox.takeable, Bool.and_eq_true, Bool.not_eq_true'] at htake
  simp only [State.kolateFree, Bool.and_eq_true, Bool.not_eq_true', Option.isNone_iff_eq_none] at hfree
  obtain ⟨-, hmboxes⟩ := hmem
  obtain ⟨⟨⟨hover, hreset⟩, -⟩, -⟩ := htake
  obtain ⟨⟨⟨⟨⟨⟨hrun, hhalt⟩, -⟩, hheld⟩, hclean⟩, -⟩, -⟩ := hfree
  have hml : m < s.mbx.length := by omega
  refine ⟨hml, ?_, hover, hreset, by simp [Kolate.works, hrun, hhalt], hheld, hclean, hwait⟩
  apply hmboxes
  rw [State.mbxAt, List.getD_eq_getElem?_getD, List.getElem?_eq_getElem hml]
  exact List.getElem_mem hml

/-- A request with one completion reserves nothing. -/
theorem State.take_mbxAt {s : State} {m : Nat} (hm : m < s.mbx.length) (ht : (s.reqAt m).twice = false) :
    (s.take (s.reqAt m)).mbxAt m = { s.mbxAt m with reqHead := (s.mbxAt m).reqHead + 1 } := by
  have hbox : (s.reqAt m).mbox = m := rfl
  show ((s.onMbx (s.reqAt m).mbox _).mbxAt m) = _
  rw [State.onMbx_mbxAt, hbox, if_pos ⟨rfl, hm⟩, ht]
  rfl

theorem State.take_mbxAt_other (s : State) {m k : Nat} (h : k ≠ m) : (s.take (s.reqAt m)).mbxAt k = s.mbxAt k := by
  show ((s.onMbx (s.reqAt m).mbox _).mbxAt k) = _
  rw [State.onMbx_mbxAt]
  exact if_neg fun hc => h hc.1.symm

/-! ## Completing it (R113, R117) -/

/-- Storing a completion leaves every byte outside its slot. -/
theorem Mailbox.store_mem_outside (b : Mailbox) (e : W4) (h : b.mem.wf = true) (x : Nat) (hx : x < b.slot ∨ b.slot + 32 ≤ x) :
    (b.store e).mem.read x = b.mem.read x := by
  rw [Mailbox.store_eq]
  have h1 := Mem.wf_write64 h b.slot e.w0
  have h2 := Mem.wf_write64 h1 (b.slot + 8) e.w1
  have h3 := Mem.wf_write64 h2 (b.slot + 16) e.w2
  have outside {m : Mem} (hm : m.wf = true) (a : Nat) (w : Word) (ha : x < a ∨ a + 8 ≤ x) : (m.write64 a w).read x = m.read x :=
    (Mem.stored_write64 hm a w).2 x ha
  dsimp only
  rw [outside h3 _ _ (by omega), outside h2 _ _ (by omega), outside h1 _ _ (by omega), outside h _ _ (by omega)]

theorem Kolate.letGo_held {k : Kolate} {r : Req} (hclean : k.cleaning = none) (hwait : r ∉ k.waiting) :
    ({ k with held := some r } : Kolate).letGo r = { k with held := none } := by
  simp [Kolate.letGo, hclean, List.erase_of_not_mem hwait]

/-- What completing a request does to the state that its command has left, where the command left mailboxes and control core alone. -/
theorem State.complete_taken {s u : State} {m op : Nat} {l : List Field} (h : s.serves m op = true) (hop : op ≠ 0x13 ∧ op ≠ 0x14)
    (hk : (s.take (s.reqAt m)).keeps u l) (hmbx : Field.mbx ∉ l) (hkol : Field.kol ∉ l) (code detail : Nat) (r1 r2 r3 : Word) :
    let t := u.complete (s.reqAt m) code detail r1 r2 r3
    t.mbxAt m = ({ s.mbxAt m with reqHead := (s.mbxAt m).reqHead + 1 } : Mailbox).store
        (cplEntry (s.reqAt m).tag (s.reqAt m).opcode.toNat code detail r1 r2 r3) ∧
      (∀ k, k ≠ m → t.mbxAt k = s.mbxAt k) ∧ t.kol = { s.kol with turn := (m + 1) % 16, wdogSince := s.clk.localTime } := by
  obtain ⟨hm, -, hover, hreset, hworks, hheld, hclean, hwait⟩ := State.serves_mailbox h
  obtain ⟨-, -, -, -, hopc, -⟩ := (s.serves_iff m op).1 h
  have hnot : ¬ ((s.reqAt m).opcode = 0x13 ∨ (s.reqAt m).opcode = 0x14) := by
    rintro (ho | ho)
    · exact hop.1 (by rw [← hopc, ho]; rfl)
    · exact hop.2 (by rw [← hopc, ho]; rfl)
  have htake := State.take_mbxAt hm (by simpa [Req.twice] using hnot)
  have hukol : u.kol = { s.kol with turn := (m + 1) % 16, held := some (s.reqAt m), wdogSince := s.clk.localTime } := hk .kol hkol
  have hmbxs : u.mbx = (s.take (s.reqAt m)).mbx := hk .mbx hmbx
  have hbox (k : Nat) : u.mbxAt k = (s.take (s.reqAt m)).mbxAt k := by rw [State.mbxAt, hmbxs]; rfl
  have hum : u.mbxAt m = { s.mbxAt m with reqHead := (s.mbxAt m).reqHead + 1 } := (hbox m).trans htake
  have hlen : m < u.mbx.length := by rw [hmbxs]; simpa [State.take] using hm
  have he := u.complete_eq (s.reqAt m) code detail r1 r2 r3 (fun hc => absurd hc hnot) (by rw [hukol]; exact hworks)
    (by rw [show (s.reqAt m).mbox = m from rfl, hum]; exact hover) (by rw [show (s.reqAt m).mbox = m from rfl, hum]; exact hreset)
  intro t
  have ht : t = _ := he
  rw [ht]
  refine ⟨?_, fun k hkm => ?_, ?_⟩
  · rw [← hum]
    exact (u.onMbx_mbxAt m m _).trans (if_pos ⟨rfl, hlen⟩)
  · refine (u.onMbx_mbxAt m k _).trans ((if_neg fun hc => hkm hc.1.symm).trans ?_)
    rw [hbox, s.take_mbxAt_other hkm]
  · have hr : s.reqAt m ∉ s.kol.waiting := fun hc => hwait _ hc rfl
    show u.kol.letGo (s.reqAt m) = _
    rw [hukol]
    refine (Kolate.letGo_held (k := { s.kol with turn := (m + 1) % 16, wdogSince := s.clk.localTime }) hclean hr).trans ?_
    rw [← hheld]

/-- A request that is served, and whose command leaves mailboxes and control core alone, is answered once, in its mailbox. -/
theorem State.served_completed {s u : State} {m op : Nat} {l : List Field} (h : s.serves m op = true) (hop : op ≠ 0x13 ∧ op ≠ 0x14)
    (hk : (s.take (s.reqAt m)).keeps u l) (hmbx : Field.mbx ∉ l) (hkol : Field.kol ∉ l) (code detail : Nat) (r1 r2 r3 : Word) :
    s.completed (u.complete (s.reqAt m) code detail r1 r2 r3) m code detail r1 r2 r3 ∧
      s.onlyAnswered (u.complete (s.reqAt m) code detail r1 r2 r3) m l := by
  obtain ⟨-, hwf, -⟩ := State.serves_mailbox h
  obtain ⟨hbox, hothers, hkolate⟩ := State.complete_taken h hop hk hmbx hkol code detail r1 r2 r3
  refine ⟨?_, hothers, hkolate, ?_⟩
  · let b : Mailbox := { s.mbxAt m with reqHead := (s.mbxAt m).reqHead + 1 }
    let e := cplEntry (s.reqAt m).tag (s.reqAt m).opcode.toNat code detail r1 r2 r3
    obtain ⟨-, -, -, -, hentries, -, -, -, -, -, -, h0, h1, h2, h3⟩ := b.store_spec e hwf
    have hslot : 0xC00 + 32 * ((s.mbxAt m).cplTail.toNat % max (b.store e).entries 1) = b.slot := by rw [hentries]; rfl
    have hstore : b.store e = { b with cplTail := b.cplTail + 1, entries := (b.store e).entries, mem := (b.store e).mem } := by
      rw [Mailbox.store_eq]
    simp only [State.completed, hbox]
    rw [hslot]
    exact ⟨hstore, h0, h1, h2, h3, b.store_mem_outside e hwf⟩
  · have htake := (s.keeps_take (s.reqAt m)).mono (k := [.mbx, .kol] ++ l) fun f hf => List.mem_append_left l hf
    have hcomplete := (u.keeps_complete (s.reqAt m) code detail r1 r2 r3).mono (k := [.mbx, .kol] ++ l) fun f hf => List.mem_append_left l hf
    exact (htake.trans (hk.mono fun f hf => List.mem_append_right _ hf)).trans hcomplete

end Sys2Proof.Machine
end

section
/-! PROOFS. FENCE_CORE: its checks, what each action does to the cores of a position, and the position of another die (17 R424-R426). -/

namespace Sys2Proof.Machine

/-! ## What an action does to the cores (R425) -/

section
variable (n : Nat) (c : Cores) (g : Nat)

/-- An action changes the cores of its own position alone. -/
theorem Cores.act_other (action spare : Nat) {x : Nat} (hx : x ≠ g) :
    (c.act n g action spare).serve[x]? = c.serve[x]? ∧ (c.act n g action spare).shadow[x]? = c.shadow[x]? := by
  have hset (k : Option Nat) : (Cores.setShadow n c g k).serve[x]? = c.serve[x]? ∧ (Cores.setShadow n c g k).shadow[x]? = c.shadow[x]? := by
    obtain ⟨hserve, -, -, hshadow⟩ := c.setShadow_spec n g k
    exact ⟨by rw [hserve], hshadow x hx⟩
  unfold Cores.act
  split
  · split
    · unfold Cores.fence
      refine ⟨by simp [Ne.symm hx], ?_⟩
      dsimp only
      split
      · simp [Ne.symm hx]
      · rfl
    · exact ⟨rfl, rfl⟩
  · split
    · exact hset _
    · exact ⟨rfl, rfl⟩
  · exact hset none
  · exact ⟨by simp [Cores.restore, Ne.symm hx], rfl⟩

/-- FENCE: the chosen core serves, the one before is FENCED, and the sheaves of the position are zero. -/
theorem Cores.fence_spec (k : Nat) (hserve : g < c.serve.length) (hshadow : g < c.shadow.length) :
    (c.fence g k).serve.getD g g = k ∧ physIn (c.fence g k).phys k .serving ∧
      (c.serve.getD g g ≠ k → physIn (c.fence g k).phys (c.serve.getD g g) .fenced) ∧
      (c.fence g k).shadow.getD g none = (if c.shadow.getD g none = some k then none else c.shadow.getD g none) ∧
      ∀ b, 65536 * g ≤ b → b < 65536 * g + 65536 → (c.fence g k).sheaves.read b = 0 := by
  unfold Cores.fence
  dsimp only
  refine ⟨by simp [hserve], physIn_modify_same _ _ _, fun hk => ?_, ?_, fun b h0 h1 => ?_⟩
  · exact (physIn_modify_other _ _ _ (Ne.symm hk)).2 (physIn_modify_same _ _ _)
  · split
    · simp [hshadow]
    · rfl
  · rw [Mem.read_clear, if_pos ⟨h0, h1⟩]
    rfl

/-- RESTORE: the position's own core serves, the one before is FREE, and the sheaves of the position are zero. -/
theorem Cores.restore_spec (hserve : g < c.serve.length) :
    (c.restore g).serve.getD g g = g ∧ physIn (c.restore g).phys g .serving ∧
      (c.serve.getD g g ≠ g → physIn (c.restore g).phys (c.serve.getD g g) .free) ∧
      ∀ b, 65536 * g ≤ b → b < 65536 * g + 65536 → (c.restore g).sheaves.read b = 0 := by
  unfold Cores.restore
  dsimp only
  refine ⟨by simp [hserve], physIn_modify_same _ _ _, fun hk => ?_, fun b h0 h1 => ?_⟩
  · exact (physIn_modify_other _ _ _ (Ne.symm hk)).2 (physIn_modify_same _ _ _)
  · rw [Mem.read_clear, if_pos ⟨h0, h1⟩]
    rfl

/-- SHADOW: the chosen core shadows the position, which had no shadow. -/
theorem Cores.setShadow_enters (k : Nat) (h : c.shadow[g]? = some none) :
    (Cores.setShadow n c g (some k)).shadow.getD g none = some k ∧ physIn (Cores.setShadow n c g (some k)).phys k .shadowing := by
  obtain ⟨hg, -⟩ := List.getElem?_eq_some_iff.1 h
  obtain ⟨-, -, hshadow, -⟩ := c.setShadow_spec n g (some k)
  refine ⟨hshadow hg, ?_⟩
  rw [c.setShadow_new n g (by simp [List.getD_eq_getElem?_getD, h])]
  exact physIn_modify_same _ _ _

/-- SHADOW_END: the shadow leaves the position. -/
theorem Cores.setShadow_leaves {k : Nat} (h : c.shadow.getD g none = some k) (hk : k ≠ c.serve.getD g g) :
    physIn (Cores.setShadow n c g none).phys k (leftState n k) := by
  rw [c.setShadow_new n g (by rw [h]; nofun)]
  exact c.afterShadow_left n g h (Ne.symm hk)

variable {n c g}

theorem Cores.act_fence {spare k : Nat} (hk : c.chosen n g 0 spare = some k) : c.act n g 0 spare = c.fence g k := by
  simp [Cores.act, hk]

theorem Cores.act_shadow {spare k : Nat} (hk : c.chosen n g 1 spare = some k) : c.act n g 1 spare = Cores.setShadow n c g (some k) := by
  simp [Cores.act, hk]

end

/-! ## The request -/

theorem field_lt (w : Word) (lo n : Nat) : field w lo n < 2 ^ n := Nat.mod_lt _ (by positivity)

/-- FENCE_CORE by its action. -/
def fenceRow (m action : Nat) : Instr :=
  if action = 0 then .fenceCoreFence m else if action = 1 then .fenceCoreShadow m else if action = 2 then .fenceCoreShadowEnd m
  else .fenceCoreRestore m

theorem exec_fenceRow {s : State} {m : Nat} (h : s.serves m 0x25 = true) :
    exec (fenceRow m (field (s.argAt m 1) 16 2)) s = .next (runFenceCore (s.reqAt m) (s.take (s.reqAt m))) := by
  obtain ⟨-, -, -, -, hop, -⟩ := (s.serves_iff m 0x25).1 h
  have hrow (action : Nat) (ha : field (s.argAt m 1) 16 2 = action) :
      ronno m (pickFence action) runFenceCore s = .next (runFenceCore (s.reqAt m) (s.take (s.reqAt m))) :=
    ronno_served runFenceCore h (by simp [pickFence, hop, ← ha, State.argAt])
  have hlt := field_lt (s.argAt m 1) 16 2
  match ha : field (s.argAt m 1) 16 2, hlt with
  | 0, _ => exact hrow 0 ha
  | 1, _ => exact hrow 1 ha
  | 2, _ => exact hrow 2 ha
  | 3, _ => exact hrow 3 ha

/-- A position that is this die's, or no die's. -/
theorem runFenceCore_here {s : State} {r : Req}
    (h : field (r.arg 1) 0 11 / s.cfg.nActive = s.boot.straps.dieId.toNat ∨
      s.boot.straps.fedDies.toNat < field (r.arg 1) 0 11 / s.cfg.nActive) :
    runFenceCore r s = s.fenceHere r (field (r.arg 1) 0 11) (field (r.arg 1) 16 2) (field (r.arg 1) 24 4) := by
  refine if_neg fun ⟨hne, hle⟩ => ?_
  rcases h with h | h
  · exact hne h
  · omega

theorem runFenceCore_there {s : State} {r : Req} (h : ¬ field (r.arg 1) 0 11 / s.cfg.nActive = s.boot.straps.dieId.toNat)
    (hle : field (r.arg 1) 0 11 / s.cfg.nActive ≤ s.boot.straps.fedDies.toNat) :
    runFenceCore r s = s.fenceThere r (field (r.arg 1) 0 11) := if_pos ⟨h, hle⟩

section
variable {s : State} {r : Req} {pos action spare : Nat}

theorem State.fenceHere_bad (h : s.fenceBad pos action spare ≠ 0) :
    s.fenceHere r pos action spare = s.complete r rBadArg (s.fenceBad pos action spare) 0 0 0 := if_pos h

theorem State.fenceHere_refused (h : s.fenceBad pos action spare = 0) (hc : s.fenceCode pos ≠ 0) :
    s.fenceHere r pos action spare = s.answer r (s.fenceCode pos) := by
  unfold State.fenceHere
  simp only [h, ne_eq, not_true_eq_false, if_false, hc, not_false_eq_true, if_true]

/-- The state in which an action has acted, 384 cycles on, and has been reported. -/
def State.afterFence (s : State) (pos action spare : Nat) : State :=
  let g := pos % s.cfg.nActive
  let t := (s.pass 384).onCores fun c => c.act s.cfg.nActive g action spare
  t.event 0x000D (t.cores.serve.getD g g) (t.posDomain pos) (action + (t.cores.posMap g).toNat % 65536 * 65536)

theorem State.fenceHere_acts (h : s.fenceBad pos action spare = 0) (hc : s.fenceCode pos = 0) : s.fenceHere r pos action spare =
    (s.afterFence pos action spare).complete r rOk 0 ((s.afterFence pos action spare).cores.posMap (pos % s.cfg.nActive)) 0 0 := by
  unfold State.fenceHere
  simp only [h, hc, ne_eq, not_true_eq_false, if_false]
  rfl

theorem State.keeps_afterFence : (s.pass 384).keeps (s.afterFence pos action spare) [.gln, .cores] :=
  ((State.keeps_onCores _ _).mono (by decide)).trans ((State.keeps_event _ _ _ _ _).mono (by decide))

/-- A position of another die: the request is completed here, and the die's part in it is one free value (notes/assumptions/21). -/
theorem State.fenceThere_spec (hq : s.quiet = true) : ∃ t code detail w, s.fenceThere r pos = t.complete r code detail w 0 0 ∧
    t.free = s.free + 1 ∧ s.keeps t [.clk, .rp, .gln, .free, .fedOut] := by
  have hfresh := s.keeps_fresh.mono (k := [.clk, .rp, .gln, .free, .fedOut]) (by decide)
  have hfree : s.fresh.2.free = s.free + 1 := rfl
  have hquiet : s.fresh.2.quiet = true := hq
  unfold State.fenceThere
  generalize s.fresh = f at hfresh hfree hquiet ⊢
  obtain ⟨w, t⟩ := f
  dsimp only at hfresh hfree hquiet ⊢
  split
  · exact ⟨_, _, _, _, rfl, hfree, hfresh⟩
  · split
    · exact ⟨_, _, _, _, rfl, hfree, hfresh⟩
    · have hpass := t.keeps_pass 384 hquiet
      have hsend := (t.pass 384).keeps_fedSend (pos / t.cfg.nActive) (.write (0x120000 + 8 * pos) 0 (r.arg 1))
      refine ⟨_, _, _, _, rfl, ?_, (hfresh.trans (hpass.mono (by decide))).trans (hsend.mono (by decide))⟩
      exact (hsend .free (by decide)).trans ((hpass .free (by decide)).trans hfree)

end

/-- Settles O37: the checks by `State.fenceHere_bad` and `State.fenceHere_refused`, the actions by `Cores.fence_spec`,
`Cores.setShadow_enters`, `Cores.setShadow_leaves` and `Cores.restore_spec`, another die's position by `State.fenceThere_spec`. That SPARE is
ignored where no spare is chosen, that RESTORE takes an own core which self-test did not fence, and that the scrubs of an action take 384
cycles together, are the model's choices (notes/assumptions/61, 62). -/
theorem coresAreFencedShadowedAndRestored : Obligations.CoresAreFencedShadowedAndRestored := by
  intro m s h pos action spare g here bad row
  have hexec : exec row s = .next (runFenceCore (s.reqAt m) (s.take (s.reqAt m))) := exec_fenceRow h
  let v := s.take (s.reqAt m)
  have hv : v.keeps v [] := v.keeps_refl []
  have hhere (hd : here ∨ s.boot.straps.fedDies.toNat < pos / s.cfg.nActive) :
      runFenceCore (s.reqAt m) (s.take (s.reqAt m)) = v.fenceHere (s.reqAt m) pos action spare := runFenceCore_here hd
  have hcode : v.fenceCode pos = if s.unlocked 3 then 0x0E else if s.posBusy pos then 0x05 else 0 := rfl
  have hrefused (code : Nat) (hd : here) (hbad : bad = 0) (hc : v.fenceCode pos = code) (h0 : code ≠ 0) :
      runFenceCore (s.reqAt m) (s.take (s.reqAt m)) = v.complete (s.reqAt m) code 0 0 0 0 := by
    subst hc
    exact (hhere (.inl hd)).trans (State.fenceHere_refused hbad h0)
  refine ⟨_, hexec, fun hd hbad => ?_, fun hd hbad hlock => ?_, fun hd hbad hlock hbusy => ?_, fun hd hbad hlock hbusy => ?_,
    fun hd hle hq => ?_⟩
  · rw [(hhere hd).trans (State.fenceHere_bad hbad)]
    exact State.served_completed h (by decide) hv (by decide) (by decide) _ _ _ _ _
  · rw [hrefused 0x0E hd hbad (by simp [hcode, hlock]) (by decide)]
    exact State.served_completed h (by decide) hv (by decide) (by decide) _ _ _ _ _
  · rw [hrefused 0x05 hd hbad (by simp [hcode, hlock, hbusy]) (by decide)]
    exact State.served_completed h (by decide) hv (by decide) (by decide) _ _ _ _ _
  · intro u old set
    let w := v.afterFence pos action spare
    have ht : runFenceCore (s.reqAt m) (s.take (s.reqAt m)) = w.complete (s.reqAt m) 0 0 (w.cores.posMap g) 0 0 :=
      (hhere (.inl hd)).trans (State.fenceHere_acts hbad (by simp [hcode, hlock, hbusy]))
    have hw : u.keeps w [.gln, .cores] := State.keeps_afterFence
    have hdone := w.keeps_complete (s.reqAt m) 0 0 (w.cores.posMap g) 0 0
    have hcores : (w.complete (s.reqAt m) 0 0 (w.cores.posMap g) 0 0).cores = u.cores.act s.cfg.nActive g action spare :=
      hdone .cores (by decide)
    rw [ht]
    generalize hc : w.complete (s.reqAt m) 0 0 (w.cores.posMap g) 0 0 = t at hdone hcores ⊢
    rw [hcores]
    refine ⟨(hw.mono (by decide)).trans (hdone.mono (by decide)), fun hq => ?_, fun x hx => u.cores.act_other _ g _ _ hx,
      fun ha k hk hserve hshadow => ?_, fun ha k hk hnone => ?_, fun ha hshadow => ?_, fun ha hserve => ?_⟩
    · have hpass : v.keeps w [.clk, .rp, .gln, .cores] := ((v.keeps_pass 384 hq).mono (by decide)).trans (hw.mono (by decide))
      rw [← hc]
      exact State.served_completed h (by decide) hpass (by decide) (by decide) _ _ _ _ _
    · rw [ha, Cores.act_fence hk]
      exact u.cores.fence_spec g k hserve hshadow
    · rw [ha, Cores.act_shadow hk]
      obtain ⟨hserve, hsheaves, -, -⟩ := u.cores.setShadow_spec s.cfg.nActive g (some k)
      obtain ⟨hsh, hphys⟩ := u.cores.setShadow_enters s.cfg.nActive g k hnone
      exact ⟨hsh, hphys, hserve, hsheaves⟩
    · rw [ha]
      obtain ⟨hserve, hsheaves, hsh, -⟩ := u.cores.setShadow_spec s.cfg.nActive g none
      exact ⟨hsh hshadow, hserve, hsheaves, fun k hk hne => u.cores.setShadow_leaves _ g hk hne⟩
    · rw [ha]
      exact u.cores.restore_spec g hserve
  · obtain ⟨t, code, detail, w, ht, hfree, hkeeps⟩ := State.fenceThere_spec (s := v) (r := s.reqAt m) (pos := pos) hq
    rw [(runFenceCore_there (s := v) hd hle).trans ht]
    obtain ⟨-, -, -, -, -, hheld, -⟩ := State.serves_mailbox h
    obtain ⟨hbox, -, hkol⟩ := State.complete_taken h (by decide) hkeeps (by decide) (by decide) code detail w 0 0
    have hdone := t.keeps_complete (s.reqAt m) code detail w 0 0
    refine ⟨?_, ?_, (hdone .free (by decide)).trans hfree, (hdone .cores (by decide)).trans (hkeeps .cores (by decide)), ?_⟩
    · rw [hkol]
      exact hheld
    · rw [hbox, Mailbox.store_eq]
    · exact (((s.keeps_take _).mono (by decide)).trans (hkeeps.mono (by decide))).trans (hdone.mono (by decide))

end Sys2Proof.Machine
end

section
/-! PROOFS. TABLE_LOAD and LEDGER_SET: data copied from a mailbox into tables and the ledger, and to the other dies of a part (01 R33; 10 R270;
14 R336, R337). -/

namespace Sys2Proof

/-! ## Bytes read in two parts -/

theorem Mem.readBytes_length (m : Mem) (a n : Nat) : (m.readBytes a n).length = n := by simp [Mem.readBytes]

theorem Mem.readBytes_add (m : Mem) (a n k : Nat) : m.readBytes a (n + k) = m.readBytes a n ++ m.readBytes (a + n) k := by
  simp [Mem.readBytes, List.range_add, Nat.add_assoc]

/-- Copying bytes from one memory into another: they read back, and every other byte is as before. -/
theorem Mem.copy_spec {m : Mem} (h : m.wf = true) (a : Nat) (bs : Bytes) :
    (m.writeBytes a bs).readBytes a bs.length = bs ∧
      ∀ b, b < a ∨ a + bs.length ≤ b → (m.writeBytes a bs).read b = m.read b :=
  ⟨Mem.readBytes_writeBytes h a bs, fun b hb => Mem.read_writeBytes_of_outside bs h a b hb⟩

namespace Machine

/-! ## Fingerprints (R412) -/

/-- Of the domains' collective state only fingerprints differ. -/
def State.onlyFps (s t : State) : Prop := ∀ d, t.domAt d = { s.domAt d with fingerprint := (t.domAt d).fingerprint }

theorem State.onlyFps.trans {s t u : State} (h : s.onlyFps t) (k : t.onlyFps u) : s.onlyFps u := by
  intro d
  rw [k d, h d]

theorem State.onlyFps_of_coll {s t : State} (h : t.coll = s.coll) : s.onlyFps t := by
  intro d
  rw [State.domAt, h]
  rfl

theorem State.onDom_onlyFps (s : State) (i : Nat) (w : Word) : s.onlyFps (s.onDom i fun c => { c with fingerprint := w }) := by
  intro d
  rw [State.onDom_domAt]
  split <;> rfl

theorem State.refreshFps_spec (s : State) : s.onlyFps s.refreshFps ∧ s.keeps s.refreshFps [.coll] := by
  refine ⟨?_, State.keeps_foldl _ (fun t d => t.keeps_onDom d _) _ s⟩
  suffices h : ∀ (l : List Nat) (t : State), t.onlyFps (l.foldl (fun t d => t.onDom d fun c => { c with fingerprint := s.fingerprintOf d }) t) from
    h _ s
  intro l
  induction l with
  | nil => exact fun t => State.onlyFps_of_coll rfl
  | cons d l ih => exact fun t => (t.onDom_onlyFps d _).trans (ih _)

/-! ## What taking a request leaves -/

theorem State.take_owner (s : State) (r : Req) (k : Nat) : ((s.take r).mbxAt k).owner = (s.mbxAt k).owner := by
  show ((s.onMbx r.mbox _).mbxAt k).owner = _
  rw [State.onMbx_mbxAt]
  split <;> rfl

theorem State.take_mem (s : State) (r : Req) (k : Nat) : ((s.take r).mbxAt k).mem = (s.mbxAt k).mem := by
  show ((s.onMbx r.mbox _).mbxAt k).mem = _
  rw [State.onMbx_mbxAt]
  split <;> rfl

theorem State.take_issuer (s : State) (r r' : Req) : (s.take r).issuer r' = s.issuer r' := by
  simp only [State.issuer, State.take_owner]

theorem State.take_dataBytes (s : State) (r : Req) (m off n : Nat) : (s.take r).dataBytes m off n = s.dataBytes m off n := by
  simp only [State.dataBytes, State.take_mem]

/-- Rights that an issuer has throughout are nowhere refused. -/
theorem issuer_permitted {o : Option Nat} {p : Nat → Bool} (h : o.all p = true) : o.any (fun d => !p d) = false := by
  cases o with
  | none => rfl
  | some d => simpa using h

/-! ## TABLE_LOAD (R270, R271) -/

/-- The state in which a table index has been written, here and on every other die. -/
def State.loadTable (s : State) (i : Nat) (bs : Bytes) : State :=
  ({ s with tables := s.tables.writeBytes (2560 * i) bs } : State).refreshFps.fedAll (.table i bs)

theorem State.keeps_withTables (s : State) (m : Mem) : s.keeps { s with tables := m } [.tables] := by
  intro f hf; cases f <;> first | rfl | exact absurd (by decide) hf

theorem State.loadTable_spec (s : State) (i : Nat) (bs : Bytes) :
    s.keeps (s.loadTable i bs) [.tables, .coll, .fedOut] ∧ (s.loadTable i bs).tables = s.tables.writeBytes (2560 * i) bs ∧
      s.onlyFps (s.loadTable i bs) ∧ s.copiedOut (s.loadTable i bs) (.table i bs) := by
  let t : State := { s with tables := s.tables.writeBytes (2560 * i) bs }
  have htab : s.keeps t [.tables] := s.keeps_withTables _
  obtain ⟨hfps, hfpk⟩ := t.refreshFps_spec
  have hsent := t.refreshFps.keeps_fedAll (.table i bs)
  have hbefore : s.keeps t.refreshFps [.tables, .coll] := (htab.mono (by decide)).trans (hfpk.mono (by decide))
  refine ⟨(hbefore.mono (by decide)).trans (hsent.mono (by decide)), (hsent .tables (by decide)).trans (hfpk .tables (by decide)), ?_, ?_⟩
  · exact (State.onlyFps_of_coll (s := s) (t := t) rfl).trans (hfps.trans (State.onlyFps_of_coll (hsent .coll (by decide))))
  · exact State.copiedOut_of_keeps (State.fedAll_fedOut _ _) hbefore (by decide) (by decide)

/-- The order of TABLE_LOAD's checks: the rights, the range, the index in use, the window. -/
theorem runTableLoad_eq {s : State} {r : Req}
    (hown : (s.issuer r).any (fun d => !(partTables (s.partAt d).words).testBit (field (r.arg 1) 0 5)) = false) :
    runTableLoad r s =
      if 0x600 < field (r.arg 2) 0 12 then s.answer r 0x07
      else if s.tableInUse (field (r.arg 1) 0 5) then s.answer r 0x12
      else if s.unlocked 4 then s.answer r 0x0E
      else (s.loadTable (field (r.arg 1) 0 5) (s.dataBytes r.mbox (field (r.arg 2) 0 12) 2560)).answer r 0 := by
  unfold runTableLoad
  simp only [hown, Bool.false_eq_true, if_false]
  rfl

theorem tableLoad_spec {m : Nat} {s : State} (h : s.serves m 0x18 = true) :
    let off := field (s.argAt m 2) 0 12
    let i := field (s.argAt m 1) 0 5
    (s.issuer (s.reqAt m)).all (fun d => (partTables (s.partAt d).words).testBit i) = true →
    ∃ t, exec (.tableLoad m) s = .next t ∧
      (0x600 < off → s.completed t m 0x07 0 0 0 0 ∧ s.onlyAnswered t m []) ∧
      (off ≤ 0x600 → s.tableInUse i = true → s.completed t m 0x12 0 0 0 0 ∧ s.onlyAnswered t m []) ∧
      (off ≤ 0x600 → s.tableInUse i = false → s.unlocked 4 = true → s.completed t m 0x0E 0 0 0 0 ∧ s.onlyAnswered t m []) ∧
      (off ≤ 0x600 → s.tableInUse i = false → s.unlocked 4 = false → s.completed t m 0 0 0 0 0 ∧
        s.onlyAnswered t m [.tables, .coll, .fedOut] ∧ s.copiedOut t (.table i ((s.mbxAt m).mem.readBytes (0x1000 + off) 2560)) ∧
        t.tables.readBytes (2560 * i) 2560 = (s.mbxAt m).mem.readBytes (0x1000 + off) 2560 ∧
        (∀ b, b < 2560 * i ∨ 2560 * i + 2560 ≤ b → t.tables.read b = s.tables.read b) ∧ s.onlyFps t) := by
  intro off i hown
  let r := s.reqAt m
  let v := s.take r
  let bs := (s.mbxAt m).mem.readBytes (0x1000 + off) 2560
  have hpick : pickOp 0x18 s r = true := by
    obtain ⟨-, -, -, -, hop, -⟩ := (s.serves_iff m 0x18).1 h
    simp [pickOp, r, hop]
  have hrun : runTableLoad r v = if 0x600 < off then v.answer r 0x07 else if s.tableInUse i then v.answer r 0x12
      else if s.unlocked 4 then v.answer r 0x0E else (v.loadTable i bs).answer r 0 := by
    have hrights := issuer_permitted hown
    rw [← s.take_issuer r r] at hrights
    refine (runTableLoad_eq (s := v) hrights).trans ?_
    simp only [v, s.take_dataBytes]
    rfl
  have hv : v.keeps v [] := v.keeps_refl []
  have hanswered (code : Nat) : s.completed (v.answer r code) m code 0 0 0 0 ∧ s.onlyAnswered (v.answer r code) m [] :=
    State.served_completed h (by decide) hv (by decide) (by decide) _ _ _ _ _
  refine ⟨_, ronno_served runTableLoad h hpick, ?_⟩
  rw [hrun]
  refine ⟨fun h1 => ?_, fun h1 h2 => ?_, fun h1 h2 h3 => ?_, fun h1 h2 h3 => ?_⟩
  · rw [if_pos h1]
    exact hanswered _
  · rw [if_neg (Nat.not_lt.2 h1), if_pos h2]
    exact hanswered _
  · rw [if_neg (Nat.not_lt.2 h1), h2, if_neg (by decide), if_pos h3]
    exact hanswered _
  · rw [if_neg (Nat.not_lt.2 h1), h2, if_neg (by decide), h3, if_neg (by decide)]
    obtain ⟨hkeeps, htables, hfps, hcopied⟩ := v.loadTable_spec i bs
    obtain ⟨hcompleted, honly⟩ := State.served_completed h (by decide) hkeeps (by decide) (by decide) 0 0 0 0 0
    have hdone := (v.loadTable i bs).keeps_complete r 0 0 0 0 0
    have htab : ((v.loadTable i bs).answer r 0).tables = s.tables.writeBytes (2560 * i) bs := (hdone .tables (by decide)).trans htables
    have hwf : s.tables.wf = true := by
      obtain ⟨hmem, -⟩ := (s.serves_iff m 0x18).1 h
      simp only [State.memWf, Bool.and_eq_true] at hmem
      obtain ⟨⟨⟨⟨⟨⟨⟨-, htables⟩, -⟩, -⟩, -⟩, -⟩, -⟩, -⟩ := hmem
      exact htables
    have hlen : bs.length = 2560 := Mem.readBytes_length _ _ _
    obtain ⟨hread, houtside⟩ := Mem.copy_spec hwf (2560 * i) bs
    rw [hlen] at hread houtside
    refine ⟨hcompleted, honly, ?_, ?_, ?_, ?_⟩
    · have hout : ((v.loadTable i bs).answer r 0).fedOut = (v.loadTable i bs).fedOut := hdone .fedOut (by decide)
      intro x
      rw [hout]
      exact hcopied x
    · rw [htab]
      exact hread
    · rw [htab]
      exact houtside
    · have hcoll : s.onlyFps v := State.onlyFps_of_coll rfl
      exact (hcoll.trans hfps).trans (State.onlyFps_of_coll (hdone .coll (by decide)))

/-! ## Writing a set of entries (R336, R337, R351) -/

/-- A set of entries written into a memory, in order. -/
def entriesToMem (m : Mem) (ws : List (Nat × Entry)) : Mem := ws.foldl (fun m x => x.2.toMem m x.1) m

theorem entriesToMem_cons (m : Mem) (x : Nat × Entry) (ws : List (Nat × Entry)) :
    entriesToMem m (x :: ws) = entriesToMem (x.2.toMem m x.1) ws := List.foldl_cons ..

theorem entriesToMem_append (m : Mem) (ws xs : List (Nat × Entry)) :
    entriesToMem m (ws ++ xs) = entriesToMem (entriesToMem m ws) xs := List.foldl_append ..

theorem State.setEntries_eq (ws : List (Nat × Entry)) : ∀ s : State,
    ws.foldl (fun t x => t.setEntry x.1 x.2) s = { s with ledger := entriesToMem s.ledger ws } := by
  induction ws with
  | nil => exact fun s => rfl
  | cons x ws ih =>
    intro s
    rw [List.foldl_cons, ih, s.setEntry_ledger, entriesToMem_cons, State.setEntry]

/-- The checks of a set of entries do not read mailboxes or the control core. -/
theorem State.take_ledgerCheck (s : State) (r : Req) (ws : List (Nat × Entry)) : (s.take r).ledgerCheck ws = s.ledgerCheck ws := by
  unfold State.ledgerCheck
  simp only [State.setEntries_eq]
  rfl

theorem Entry.ofMem_congr {m m' : Mem} {j : Nat} (h : ∀ k, k < 32 → m'.read (32 * j + k) = m.read (32 * j + k)) :
    Entry.ofMem m' j = Entry.ofMem m j := by
  have hword (k : Nat) (hk : k + 8 ≤ 32) : m'.read64 (32 * j + k) = m.read64 (32 * j + k) := by
    have hbytes : m'.readBytes (32 * j + k) 8 = m.readBytes (32 * j + k) 8 :=
      List.map_congr_left fun i hi => by
        have hi8 := List.mem_range.1 hi
        rw [Nat.add_assoc]
        exact h (k + i) (by omega)
    rw [Mem.read64, hbytes, Mem.read64]
  unfold Entry.ofMem
  rw [hword 8 (by decide), hword 16 (by decide), hword 24 (by decide)]
  have h0 := hword 0 (by decide)
  rw [Nat.add_zero] at h0
  rw [h0]

theorem Entry.bytes_length (x : Entry) : (x.words.flatMap (leBytes 8)).length = 32 := by simp [Entry.words]

/-- Writing one entry leaves the others. -/
theorem Entry.ofMem_toMem_other {m : Mem} (h : m.wf = true) (x : Entry) {i j : Nat} (hij : i ≠ j) :
    Entry.ofMem (x.toMem m i) j = Entry.ofMem m j := by
  refine Entry.ofMem_congr fun k hk => ?_
  refine Mem.read_writeBytes_of_outside _ h _ _ ?_
  rw [Entry.bytes_length]
  omega

/-- The entries of a set, written in order with their checkpoints. -/
def State.writeAll (s : State) (ws : List (Nat × Entry)) : State := ws.foldl (fun t x => t.writeEntry x.1 x.2) s

theorem State.writeAll_cons (s : State) (x : Nat × Entry) (ws : List (Nat × Entry)) :
    s.writeAll (x :: ws) = (s.writeEntry x.1 x.2).writeAll ws := List.foldl_cons ..

theorem State.writeEntries_eq (s : State) (ws : List (Nat × Entry)) :
    s.writeEntries ws = (s.writeAll ws).unarmIf fun _ c => (s.staticChanges ws).any (inRanges c.entries) := rfl

theorem State.keeps_writeAll (ws : List (Nat × Entry)) : ∀ s : State, s.keeps (s.writeAll ws) [.ledger, .ckpt] := by
  induction ws with
  | nil => exact fun s => s.keeps_refl _
  | cons x ws ih =>
    intro s
    rw [State.writeAll_cons]
    exact (s.keeps_writeEntry x.1 x.2).trans (ih _)

theorem State.writeAll_ledger (ws : List (Nat × Entry)) : ∀ s : State, (s.writeAll ws).ledger = entriesToMem s.ledger ws := by
  induction ws with
  | nil => exact fun s => rfl
  | cons x ws ih =>
    intro s
    rw [State.writeAll_cons, ih, s.writeEntry_ledger, entriesToMem_cons]

/-- Whether a write moves a span depends on its own entry, and on what runs. -/
theorem State.movesSpan_congr {s t : State} {i : Nat} (x : Entry) (he : t.entry i = s.entry i) (hk : s.keeps t [.ledger, .ckpt]) :
    t.movesSpan i x = s.movesSpan i x := by
  have hcfg : t.cfg = s.cfg := hk .cfg (by decide)
  have hparts : t.parts = s.parts := hk .parts (by decide)
  have hseqs : t.seqs = s.seqs := hk .seqs (by decide)
  simp only [State.movesSpan, he, State.entryDomain, State.liveDoms, State.partAt, State.seqAt, hcfg, hparts, hseqs]

/-- A set of writes of which none moves a span keeps no checkpoint. -/
theorem State.writeAll_ckpt (ws : List (Nat × Entry)) : ∀ s : State, s.ledger.wf = true → (ws.map Prod.fst).Nodup →
    (∀ x ∈ ws, s.movesSpan x.1 x.2 = false) → (s.writeAll ws).ckpt = s.ckpt := by
  induction ws with
  | nil => exact fun s _ _ _ => rfl
  | cons x ws ih =>
    intro s hwf hnd hstay
    rw [List.map_cons, List.nodup_cons] at hnd
    have hledger := s.writeEntry_ledger x.1 x.2
    have hwf' : (s.writeEntry x.1 x.2).ledger.wf = true := hledger ▸ Mem.wf_writeBytes _ hwf _
    have hckpt : (s.writeEntry x.1 x.2).ckpt = s.ckpt := (s.writeEntry_checkpoint x.1 x.2).1 (hstay x List.mem_cons_self)
    rw [State.writeAll_cons, ← hckpt]
    refine ih _ hwf' hnd.2 fun y hy => ?_
    have hne : x.1 ≠ y.1 := fun hc => hnd.1 (hc ▸ List.mem_map_of_mem hy)
    have he : (s.writeEntry x.1 x.2).entry y.1 = s.entry y.1 := by
      rw [State.entry, hledger]
      exact Entry.ofMem_toMem_other hwf x.2 hne
    rw [State.movesSpan_congr y.2 he (s.keeps_writeEntry x.1 x.2)]
    exact hstay y (List.mem_cons_of_mem _ hy)

/-! ## The data of a LEDGER_SET -/

/-- The bytes of an entry of the data are the data's own. -/
theorem ledgerEntry_bytes (m : Mem) (a : Nat) :
    let w (j : Nat) := leNat (m.readBytes (a + 8 * j) 8)
    (Entry.words ⟨w 0, w 1, w 2, w 3⟩).flatMap (leBytes 8) = m.readBytes a 32 := by
  intro w
  have hw (j : Nat) : leBytes 8 (w j) = m.readBytes (a + 8 * j) 8 := by
    have hb := leBytes_leNat (m.readBytes (a + 8 * j) 8)
    rwa [Mem.readBytes_length] at hb
  simp only [Entry.words, List.flatMap_cons, List.flatMap_nil, List.append_nil, hw]
  rw [show (32 : Nat) = 8 + (8 + (8 + 8)) from rfl, Mem.readBytes_add, Mem.readBytes_add, Mem.readBytes_add]
  rfl

/-- Entries of the data, written one behind the other, are the data. -/
theorem State.ledgerData_toMem (s : State) (k off first : Nat) (m : Mem) (n : Nat) : entriesToMem m (s.ledgerData k off first n) =
    m.writeBytes (32 * first) ((s.mbxAt k).mem.readBytes (0x1000 + off) (32 * n)) := by
  induction n with
  | zero => rfl
  | succ n ih =>
    have hsplit : s.ledgerData k off first (n + 1) = s.ledgerData k off first n ++
        [(first + n, ⟨leNat (s.dataBytes k (off + 32 * n + 8 * 0) 8), leNat (s.dataBytes k (off + 32 * n + 8 * 1) 8),
          leNat (s.dataBytes k (off + 32 * n + 8 * 2) 8), leNat (s.dataBytes k (off + 32 * n + 8 * 3) 8)⟩)] := by
      simp [State.ledgerData, List.range_succ]
    have hbytes := ledgerEntry_bytes (s.mbxAt k).mem (0x1000 + off + 32 * n)
    rw [hsplit, entriesToMem_append, ih, entriesToMem_cons]
    simp only [entriesToMem, List.foldl_nil, Entry.toMem]
    have haddr (j : Nat) : 0x1000 + (off + 32 * n + 8 * j) = 0x1000 + off + 32 * n + 8 * j := by omega
    simp only [State.dataBytes, haddr]
    rw [hbytes, Nat.mul_succ, Mem.readBytes_add, Mem.writeBytes_append, Mem.readBytes_length, Nat.mul_add]

theorem State.ledgerData_nodup (s : State) (k off first n : Nat) : ((s.ledgerData k off first n).map Prod.fst).Nodup := by
  simp only [State.ledgerData, List.map_map]
  exact List.nodup_range.map fun a b hab => Nat.add_left_cancel hab

/-! ## LEDGER_SET on every die (R331, R336) -/

/-- What LEDGER_SET sends to the other dies: each entry's words. -/
def ledgerMsg (x : Nat × Entry) : FedMsg := .ledger x.1 (x.2.words.map (BitVec.ofNat 64))

/-- The entries of a set, sent to every other die of the part. -/
def State.sendEntries (s : State) (ws : List (Nat × Entry)) : State := ws.foldl (fun t x => t.fedAll (ledgerMsg x)) s

theorem State.keeps_sendEntries (s : State) (ws : List (Nat × Entry)) : s.keeps (s.sendEntries ws) [.fedOut] :=
  State.keeps_foldl _ (fun t x => t.keeps_fedAll (ledgerMsg x)) ws s

/-- Every other die gets every entry, and what has been sent before stays. -/
theorem State.sendEntries_fedOut (ws : List (Nat × Entry)) : ∀ s : State, (∀ y ∈ s.fedOut, y ∈ (s.sendEntries ws).fedOut) ∧
    ∀ x ∈ ws, ∀ e, e ≤ s.boot.straps.fedDies.toNat → e ≠ s.boot.straps.dieId.toNat → (e, ledgerMsg x) ∈ (s.sendEntries ws).fedOut := by
  induction ws with
  | nil => exact fun s => ⟨fun y hy => hy, by simp⟩
  | cons x ws ih =>
    intro s
    have hcons : s.sendEntries (x :: ws) = (s.fedAll (ledgerMsg x)).sendEntries ws := List.foldl_cons ..
    have hboot : (s.fedAll (ledgerMsg x)).boot = s.boot := s.keeps_fedAll (ledgerMsg x) .boot (by decide)
    have hall := s.fedAll_fedOut (ledgerMsg x)
    obtain ⟨hstay, hsent⟩ := ih (s.fedAll (ledgerMsg x))
    rw [hboot] at hsent
    rw [hcons]
    refine ⟨fun y hy => hstay y ((hall y).2 (.inl hy)), fun y hy e hle hne => ?_⟩
    rcases List.mem_cons.1 hy with rfl | hy
    · exact hstay _ ((hall _).2 (.inr ⟨rfl, hle, hne⟩))
    · exact hsent y hy e hle hne

theorem State.writeEverywhere_eq (s : State) (ws : List (Nat × Entry)) : s.writeEverywhere ws =
    if s.boot.straps.fedDies = 0 then (s.writeEntries ws).refreshFps else (s.writeEntries ws).refreshFps.sendEntries ws := by
  have hfps := (s.writeEntries ws).refreshFps_spec.2
  have hwrite : s.keeps (s.writeEntries ws) [.ledger, .ckpt, .seqs] := by
    rw [State.writeEntries_eq]
    exact ((s.keeps_writeAll ws).mono (by decide)).trans ((State.keeps_unarmIf _ _).mono (by decide))
  have hboot : (s.writeEntries ws).refreshFps.boot = s.boot := (hfps .boot (by decide)).trans (hwrite .boot (by decide))
  unfold State.writeEverywhere
  simp only [State.federated, hboot]
  by_cases h : s.boot.straps.fedDies = 0
  · simp [h]
  · simp only [h, if_false, bne_iff_ne, ne_eq, not_false_eq_true, if_true]
    rfl

theorem State.writeEverywhere_spec (s : State) (ws : List (Nat × Entry)) :
    s.keeps (s.writeEverywhere ws) [.ledger, .seqs, .coll, .ckpt, .fedOut] ∧ s.onlyFps (s.writeEverywhere ws) ∧
      (s.writeEverywhere ws).ledger = entriesToMem s.ledger ws ∧ (s.writeEverywhere ws).ckpt = (s.writeAll ws).ckpt ∧
      s.unarmed (s.writeEverywhere ws) (fun _ c => (s.staticChanges ws).any (inRanges c.entries)) ∧
      (s.boot.straps.fedDies = 0 → (s.writeEverywhere ws).fedOut = s.fedOut) ∧
      (s.boot.straps.fedDies ≠ 0 → ∀ x ∈ ws, ∀ e, e ≤ s.boot.straps.fedDies.toNat → e ≠ s.boot.straps.dieId.toNat →
        (e, ledgerMsg x) ∈ (s.writeEverywhere ws).fedOut) := by
  let p : Nat → Cmd → Bool := fun _ c => (s.staticChanges ws).any (inRanges c.entries)
  let t := s.writeEntries ws
  have hall := s.keeps_writeAll ws
  have hunarm : (s.writeAll ws).keeps t [.seqs] := State.keeps_unarmIf _ p
  obtain ⟨hfps, hfpk⟩ := t.refreshFps_spec
  have hwritten : s.keeps t.refreshFps [.ledger, .seqs, .coll, .ckpt] :=
    ((hall.mono (by decide)).trans (hunarm.mono (by decide))).trans (hfpk.mono (by decide))
  have hsent : t.refreshFps.keeps (s.writeEverywhere ws) [.fedOut] := by
    rw [s.writeEverywhere_eq]
    exact State.keeps_ite (State.keeps_refl _ _) (State.keeps_sendEntries _ _)
  have hcoll : t.coll = s.coll := (hunarm .coll (by decide)).trans (hall .coll (by decide))
  refine ⟨(hwritten.mono (by decide)).trans (hsent.mono (by decide)), ?_, ?_, ?_, ?_, fun h => ?_, fun h => ?_⟩
  · exact ((State.onlyFps_of_coll hcoll).trans hfps).trans (State.onlyFps_of_coll (hsent .coll (by decide)))
  · rw [← s.writeAll_ledger ws]
    exact (hsent .ledger (by decide)).trans ((hfpk .ledger (by decide)).trans (hunarm .ledger (by decide)))
  · exact (hsent .ckpt (by decide)).trans ((hfpk .ckpt (by decide)).trans (hunarm .ckpt (by decide)))
  · have hu := State.unarmed_of_keeps ((s.writeAll ws).unarmed_unarmIf p) hall (by decide) (by decide) (by decide)
    have hseqs : (s.writeEverywhere ws).seqs = t.seqs := (hsent .seqs (by decide)).trans (hfpk .seqs (by decide))
    intro q
    rw [← hu q]
    exact congrArg (·.getD q Sequencer.initial) hseqs
  · rw [s.writeEverywhere_eq, if_pos h]
    exact hwritten .fedOut (by decide)
  · have hboot : t.refreshFps.boot = s.boot := hwritten .boot (by decide)
    obtain ⟨-, hout⟩ := State.sendEntries_fedOut ws t.refreshFps
    rw [hboot] at hout
    rw [s.writeEverywhere_eq, if_neg h]
    exact hout

/-- The order of LEDGER_SET's checks once its range and its rights hold: the entries, their use, the window. -/
theorem runLedgerSet_eq {s : State} {r : Req} {first n off : Nat} (hf : field (r.arg 1) 0 17 = first) (hn : field (r.arg 1) 32 8 = n)
    (ho : field (r.arg 2) 0 12 = off) (h1 : 1 ≤ n) (h128 : n ≤ 128) (hdata : off + 32 * n ≤ 0x1000) (hend : first + n ≤ 131072)
    (hown : (s.issuer r).any (fun d => (List.range n).any fun k => !inLedger (s.partAt d).words (first + k)) = false) :
    runLedgerSet r s =
      if s.ledgerCheck (s.ledgerData r.mbox off first n) ≠ 0 then s.answer r (s.ledgerCheck (s.ledgerData r.mbox off first n))
      else if (s.ledgerData r.mbox off first n).any (fun x => s.entryInUse x.1) then s.answer r 0x12
      else if s.unlocked 11 then s.answer r 0x0E
      else (s.writeEverywhere (s.ledgerData r.mbox off first n)).answer r 0 := by
  subst hf hn ho
  unfold runLedgerSet
  have hcount : ¬ (field (r.arg 1) 32 8 = 0 ∨ 128 < field (r.arg 1) 32 8) := by omega
  have hoff : ¬ 0x1000 < field (r.arg 2) 0 12 + 32 * field (r.arg 1) 32 8 := by omega
  have hlast : ¬ 131072 < field (r.arg 1) 0 17 + field (r.arg 1) 32 8 := by omega
  simp only [hcount, hoff, hlast, hown, Bool.false_eq_true, if_false]
  rfl

theorem State.take_ledgerData (s : State) (r : Req) (m off first n : Nat) :
    (s.take r).ledgerData m off first n = s.ledgerData m off first n := by
  simp only [State.ledgerData, State.take_dataBytes]

theorem State.memWf_ledger {s : State} (h : s.memWf = true) : s.ledger.wf = true := by
  simp only [State.memWf, Bool.and_eq_true] at h
  obtain ⟨⟨⟨⟨⟨⟨-, hledger⟩, -⟩, -⟩, -⟩, -⟩, -⟩ := h
  exact hledger

theorem ledgerSet_spec {m : Nat} {s : State} (h : s.serves m 0x19 = true) :
    let off := field (s.argAt m 2) 0 12
    let first := field (s.argAt m 1) 0 17
    let n := field (s.argAt m 1) 32 8
    let ws := s.ledgerData m off first n
    1 ≤ n → n ≤ 128 → off + 32 * n ≤ 0x1000 → first + n ≤ 131072 →
    (s.issuer (s.reqAt m)).all (fun d => (List.range n).all fun k => inLedger (s.partAt d).words (first + k)) = true →
    ∃ t, exec (.ledgerSet m) s = .next t ∧
      (s.ledgerCheck ws ≠ 0 → s.completed t m (s.ledgerCheck ws) 0 0 0 0 ∧ s.onlyAnswered t m []) ∧
      (s.ledgerCheck ws = 0 → (ws.any fun x => s.entryInUse x.1) = true → s.completed t m 0x12 0 0 0 0 ∧ s.onlyAnswered t m []) ∧
      (s.ledgerCheck ws = 0 → (ws.any fun x => s.entryInUse x.1) = false → s.unlocked 11 = false →
        s.completed t m 0 0 0 0 0 ∧ s.onlyAnswered t m [.ledger, .seqs, .coll, .ckpt, .fedOut] ∧
        ((∀ x ∈ ws, s.movesSpan x.1 x.2 = false) → t.ckpt = s.ckpt) ∧ (s.boot.straps.fedDies = 0 → t.fedOut = s.fedOut) ∧
        (s.boot.straps.fedDies ≠ 0 → ∀ x ∈ ws, ∀ e, e ≤ s.boot.straps.fedDies.toNat → e ≠ s.boot.straps.dieId.toNat →
          (e, ledgerMsg x) ∈ t.fedOut) ∧
        t.ledger.readBytes (32 * first) (32 * n) = (s.mbxAt m).mem.readBytes (0x1000 + off) (32 * n) ∧
        (∀ b, b < 32 * first ∨ 32 * first + 32 * n ≤ b → t.ledger.read b = s.ledger.read b) ∧
        s.unarmed t (fun _ c => (s.staticChanges ws).any (inRanges c.entries)) ∧ s.onlyFps t) := by
  intro off first n ws h1 h128 hdata hend hown
  let r := s.reqAt m
  let v := s.take r
  let bs := (s.mbxAt m).mem.readBytes (0x1000 + off) (32 * n)
  have hpick : pickOp 0x19 s r = true := by
    obtain ⟨-, -, -, -, hop, -⟩ := (s.serves_iff m 0x19).1 h
    simp [pickOp, r, hop]
  have hrights : (v.issuer r).any (fun d => (List.range n).any fun k => !inLedger (v.partAt d).words (first + k)) = false := by
    have hany := issuer_permitted hown
    simp only [List.not_all_eq_any_not] at hany
    rw [← s.take_issuer r r] at hany
    exact hany
  have hrun : runLedgerSet r v = if s.ledgerCheck ws ≠ 0 then v.answer r (s.ledgerCheck ws)
      else if ws.any (fun x => s.entryInUse x.1) then v.answer r 0x12
      else if s.unlocked 11 then v.answer r 0x0E else (v.writeEverywhere ws).answer r 0 := by
    refine (runLedgerSet_eq (s := v) (r := r) rfl rfl rfl h1 h128 hdata hend hrights).trans ?_
    simp only [v, s.take_ledgerData, s.take_ledgerCheck]
    rfl
  have hv : v.keeps v [] := v.keeps_refl []
  have hanswered (code : Nat) : s.completed (v.answer r code) m code 0 0 0 0 ∧ s.onlyAnswered (v.answer r code) m [] :=
    State.served_completed h (by decide) hv (by decide) (by decide) _ _ _ _ _
  refine ⟨_, ronno_served runLedgerSet h hpick, ?_⟩
  rw [hrun]
  refine ⟨fun hbad => ?_, fun hok huse => ?_, fun hok huse hlock => ?_⟩
  · rw [if_pos hbad]
    exact hanswered _
  · rw [if_neg (not_not.2 hok), if_pos huse]
    exact hanswered _
  · rw [if_neg (not_not.2 hok), huse, if_neg (by decide), hlock, if_neg (by decide)]
    obtain ⟨hkeeps, hfps, hledger, hckpt, hunarmed, halone, hsent⟩ := v.writeEverywhere_spec ws
    obtain ⟨hcompleted, honly⟩ := State.served_completed h (by decide) hkeeps (by decide) (by decide) 0 0 0 0 0
    have hdone := (v.writeEverywhere ws).keeps_complete r 0 0 0 0 0
    generalize hu : (v.writeEverywhere ws).answer r 0 = u
    have hut : (v.writeEverywhere ws).keeps u [.mbx, .kol] := hu ▸ hdone
    have hwf : s.ledger.wf = true := State.memWf_ledger ((s.serves_iff m 0x19).1 h).1
    have hmem : u.ledger = s.ledger.writeBytes (32 * first) bs :=
      (hut .ledger (by decide)).trans (hledger.trans (s.ledgerData_toMem m off first _ n))
    have hout : u.fedOut = (v.writeEverywhere ws).fedOut := hut .fedOut (by decide)
    obtain ⟨hread, houtside⟩ := Mem.copy_spec hwf (32 * first) bs
    rw [Mem.readBytes_length] at hread houtside
    refine ⟨hu ▸ hcompleted, hu ▸ honly, fun hstay => ?_, fun h0 => hout.trans (halone h0), fun h0 => ?_, ?_, ?_, ?_, ?_⟩
    · exact ((hut .ckpt (by decide)).trans hckpt).trans (v.writeAll_ckpt ws hwf (s.ledgerData_nodup _ _ _ _) hstay)
    · rw [hout]
      exact hsent h0
    · rw [hmem]
      exact hread
    · rw [hmem]
      exact houtside
    · have hs := State.unarmed_of_keeps hunarmed (s.keeps_take r) (by decide) (by decide) (by decide)
      intro q
      exact (congrArg (·.getD q Sequencer.initial) (hut .seqs (by decide))).trans (hs q)
    · have htake : s.onlyFps v := State.onlyFps_of_coll rfl
      exact (htake.trans hfps).trans (State.onlyFps_of_coll (hut .coll (by decide)))

/-- Settles O32, a command each by `tableLoad_spec` and `ledgerSet_spec`. That an index in use is answered before an unlocked window is the
model's choice (notes/assumptions/109). -/
theorem tablesAndLedgerAreWritten : Obligations.TablesAndLedgerAreWritten :=
  fun _ _ => ⟨tableLoad_spec, ledgerSet_spec⟩

end Machine
end Sys2Proof
end

section
/-! PROOFS. The cell code (15 R357, R358): multiplication in the field is additive, so that a sealed cell is a codeword and opens as itself. -/

namespace Sys2Proof

/-! ## Bytes and sums -/

/-- Every element of a list is a byte. -/
def byteList (l : List Nat) : Prop := ∀ a ∈ l, a < 256

theorem xor_byte {a b : Nat} (ha : a < 256) (hb : b < 256) : a ^^^ b < 256 := Nat.xor_lt_two_pow (n := 8) ha hb

/-- A map on bytes that keeps sums. -/
def additive (f : Nat → Nat) : Prop := ∀ a b, a < 256 → b < 256 → f (a ^^^ b) = f a ^^^ f b

/-- An additive map that keeps the powers of two keeps every byte. -/
theorem additive.eq_self {f : Nat → Nat} (hf : additive f) (h0 : ∀ i, i < 8 → f (2 ^ i) = 2 ^ i) {a : Nat} (ha : a < 256) : f a = a := by
  suffices h : ∀ n, n ≤ 8 → ∀ a, a < 2 ^ n → f a = a from h 8 (by decide) a ha
  intro n
  induction n with
  | zero =>
    intro _ a ha
    obtain rfl : a = 0 := by omega
    have hz := hf 0 0 (by decide) (by decide)
    simpa using hz
  | succ n ih =>
    intro hn a ha
    by_cases hlow : a < 2 ^ n
    · exact ih (by omega) a hlow
    · have hpow : 2 ^ n < 256 := Nat.pow_lt_pow_right (n := 8) (by decide) (by omega)
      have hrest : a ^^^ 2 ^ n < 2 ^ n := by
        refine Nat.lt_pow_two_of_testBit _ fun i hi => ?_
        rw [Nat.testBit_xor, Nat.testBit_two_pow]
        by_cases hin : n = i
        · subst hin
          have hbit : a.testBit n = true := by
            rw [Nat.testBit_eq_decide_div_mod_eq, decide_eq_true_eq]
            have hdiv : a / 2 ^ n = 1 := Nat.div_eq_of_lt_le (by omega) (by rw [Nat.pow_succ] at ha; omega)
            rw [hdiv]
          simp [hbit]
        · have hai : a.testBit i = false :=
            Nat.testBit_lt_two_pow (Nat.lt_of_lt_of_le ha (Nat.pow_le_pow_right (by decide) (by omega)))
          simp [hai, hin]
      calc f a = f (a ^^^ 2 ^ n ^^^ 2 ^ n) := by rw [Nat.xor_assoc, Nat.xor_self, Nat.xor_zero]
        _ = f (a ^^^ 2 ^ n) ^^^ f (2 ^ n) := hf _ _ (Nat.lt_trans hrest hpow) hpow
        _ = a ^^^ 2 ^ n ^^^ 2 ^ n := by rw [ih (by omega) _ hrest, h0 n (by omega)]
        _ = a := by rw [Nat.xor_assoc, Nat.xor_self, Nat.xor_zero]

/-! ## Multiplication in the field -/

/-- A byte times alpha, as `gfMul` computes it. -/
def gfTwice (r : Nat) : Nat := (2 * r) ^^^ (r / 128 * 0x11D)

theorem gfTwice_additive : additive gfTwice := by
  intro a b ha hb
  have hmul : 2 * (a ^^^ b) = 2 * a ^^^ 2 * b := by
    have hs := Nat.shiftLeft_xor_distrib (a := a) (b := b) (i := 1)
    simpa [Nat.shiftLeft_eq, Nat.mul_comm] using hs
  have htop : (a ^^^ b) / 128 * 0x11D = a / 128 * 0x11D ^^^ b / 128 * 0x11D := by
    rw [show (128 : Nat) = 2 ^ 7 from rfl, Nat.xor_div_two_pow]
    have h1 : a / 2 ^ 7 < 2 := by omega
    have h2 : b / 2 ^ 7 < 2 := by omega
    interval_cases a / 2 ^ 7 <;> interval_cases b / 2 ^ 7 <;> rfl
  simp only [gfTwice, hmul, htop]
  ac_rfl

theorem gfTwice_lt {r : Nat} (hr : r < 256) : gfTwice r < 256 := by
  have hdiv : gfTwice r / 256 = 0 := by
    rw [gfTwice, show (256 : Nat) = 2 ^ 8 from rfl, Nat.xor_div_two_pow]
    by_cases h : r < 128
    · have h1 : 2 * r / 2 ^ 8 = 0 := by omega
      have h2 : r / 128 * 0x11D / 2 ^ 8 = 0 := by omega
      rw [h1, h2]
      rfl
    · have h1 : 2 * r / 2 ^ 8 = 1 := by omega
      have h2 : r / 128 * 0x11D / 2 ^ 8 = 1 := by omega
      rw [h1, h2]
      rfl
  omega

/-- One step of a product: the product so far times alpha, and a, if the bit of b asks for it. -/
def gfStep (a b r k : Nat) : Nat := gfTwice r ^^^ (b / k % 2 * a)

theorem gfMul_eq (a b : Nat) : gfMul a b = [64, 32, 16, 8, 4, 2, 1].foldl (gfStep a b) (b / 128 % 2 * a) := rfl

theorem bit_mul_lt (c : Nat) {a : Nat} (ha : a < 256) : c % 2 * a < 256 := by
  rcases Nat.mod_two_eq_zero_or_one c with h | h <;> rw [h] <;> omega

theorem bit_mul_xor (c a b : Nat) : c % 2 * (a ^^^ b) = c % 2 * a ^^^ c % 2 * b := by
  rcases Nat.mod_two_eq_zero_or_one c with h | h <;> simp [h]

theorem gfStep_lt {a b r : Nat} (k : Nat) (ha : a < 256) (hr : r < 256) : gfStep a b r k < 256 :=
  xor_byte (gfTwice_lt hr) (bit_mul_lt _ ha)

theorem gfSteps_lt {a b : Nat} (ha : a < 256) (ks : List Nat) : ∀ r, r < 256 → ks.foldl (gfStep a b) r < 256 := by
  induction ks with
  | nil => exact fun r hr => hr
  | cons k ks ih => exact fun r hr => ih _ (gfStep_lt k ha hr)

theorem gfMul_lt {a : Nat} (b : Nat) (ha : a < 256) : gfMul a b < 256 := by
  rw [gfMul_eq]
  exact gfSteps_lt ha _ _ (bit_mul_lt _ ha)

theorem gfSteps_xor {a a' b : Nat} (ha : a < 256) (ha' : a' < 256) (ks : List Nat) : ∀ r r', r < 256 → r' < 256 →
    ks.foldl (gfStep (a ^^^ a') b) (r ^^^ r') = ks.foldl (gfStep a b) r ^^^ ks.foldl (gfStep a' b) r' := by
  induction ks with
  | nil => exact fun r r' _ _ => rfl
  | cons k ks ih =>
    intro r r' hr hr'
    have hstep : gfStep (a ^^^ a') b (r ^^^ r') k = gfStep a b r k ^^^ gfStep a' b r' k := by
      simp only [gfStep, gfTwice_additive r r' hr hr', bit_mul_xor]
      ac_rfl
    rw [List.foldl_cons, hstep]
    exact ih _ _ (gfStep_lt k ha hr) (gfStep_lt k ha' hr')

/-- Multiplication is additive in its first factor. -/
theorem gfMul_additive (b : Nat) : additive fun a => gfMul a b := by
  intro a a' ha ha'
  simp only [gfMul_eq, bit_mul_xor]
  exact gfSteps_xor ha ha' _ _ _ (bit_mul_lt _ ha) (bit_mul_lt _ ha')

theorem gfMul_zero (b : Nat) : gfMul 0 b = 0 := by
  have h := gfMul_additive b 0 0 (by decide) (by decide)
  simpa using h

theorem gfMul_one {a : Nat} (ha : a < 256) : gfMul a 1 = a := (gfMul_additive 1).eq_self (by decide) ha

/-! ## Values of polynomials -/

theorem gfEval_cons (c : Nat) (p : List Nat) (x : Nat) : gfEval (c :: p) x = c ^^^ gfMul (gfEval p x) x := rfl

theorem gfEval_lt {p : List Nat} (hp : byteList p) (x : Nat) : gfEval p x < 256 := by
  induction p with
  | nil => exact (by decide : (0 : Nat) < 256)
  | cons c p ih =>
    rw [gfEval_cons]
    exact xor_byte (hp c List.mem_cons_self) (gfMul_lt x (ih fun a ha => hp a (List.mem_cons_of_mem c ha)))

/-- The value of a sum of polynomials. -/
theorem gfEval_zipWith {p q : List Nat} (hp : byteList p) (hq : byteList q) (hl : p.length = q.length) (x : Nat) :
    gfEval (List.zipWith (· ^^^ ·) p q) x = gfEval p x ^^^ gfEval q x := by
  induction p generalizing q with
  | nil =>
    obtain rfl : q = [] := List.length_eq_zero_iff.1 hl.symm
    exact (Nat.xor_self 0).symm
  | cons c p ih =>
    cases q with
    | nil => simp at hl
    | cons d q =>
      have hp' : byteList p := fun a ha => hp a (List.mem_cons_of_mem c ha)
      have hq' : byteList q := fun a ha => hq a (List.mem_cons_of_mem d ha)
      have hmul : gfMul (gfEval p x ^^^ gfEval q x) x = gfMul (gfEval p x) x ^^^ gfMul (gfEval q x) x :=
        gfMul_additive x _ _ (gfEval_lt hp' x) (gfEval_lt hq' x)
      rw [List.zipWith_cons_cons, gfEval_cons, ih hp' hq' (by simpa using hl), gfEval_cons, gfEval_cons, hmul]
      ac_rfl

/-- Zeros at the top of a polynomial do not count. -/
theorem gfEval_append_zeros (p : List Nat) (n x : Nat) : gfEval (p ++ List.replicate n 0) x = gfEval p x := by
  induction p with
  | nil =>
    induction n with
    | zero => rfl
    | succ n ih =>
      rw [List.nil_append] at ih ⊢
      rw [List.replicate_succ, gfEval_cons, ih]
      exact (Nat.zero_xor _).trans (gfMul_zero x)
  | cons c p ih => rw [List.cons_append, gfEval_cons, ih, gfEval_cons]

/-- At 1 a polynomial has the sum of its coefficients. -/
theorem gfEval_one {p : List Nat} (hp : byteList p) : gfEval p 1 = gfSum p := by
  have hsum : gfSum p = p.foldr (· ^^^ ·) 0 := List.foldl_eq_foldr
  rw [hsum]
  induction p with
  | nil => rfl
  | cons c p ih =>
    have hp' : byteList p := fun a ha => hp a (List.mem_cons_of_mem c ha)
    rw [gfEval_cons, gfMul_one (gfEval_lt hp' 1), ih hp' List.foldl_eq_foldr, List.foldr_cons]

/-! ## The sender's division (R357) -/

/-- The divisor that `cellEncode` divides by: the generator's coefficients below the highest, highest first. -/
def cellDivisor : List Nat := ((gfGen 19).take 19).reverse

/-- The remainder after one more coefficient. -/
def gfShiftIn (g : List Nat) (d : Nat) (r : List Nat) : List Nat :=
  List.zipWith (· ^^^ ·) (r.drop 1 ++ [0]) (g.map (gfMul (d ^^^ r.headD 0)))

theorem gfRemainder_cons (g : List Nat) (d : Nat) (ds r : List Nat) : gfRemainder g (d :: ds) r = gfRemainder g ds (gfShiftIn g d r) := by
  rw [gfRemainder, gfShiftIn]
  congr 1
  rw [List.zip, List.map_zipWith, List.zipWith_map_right]

/-- x is a root: a byte times the divisor, shifted, has the byte as its value, so that it cancels the coefficient shifted out. -/
def gfRoot (g : List Nat) (x : Nat) : Prop := ∀ f, f < 256 → gfMul (gfEval (g.map (gfMul f)) x) x = f

section
variable {g : List Nat}

theorem gfMul_byteList {f : Nat} (hf : f < 256) : byteList (g.map (gfMul f)) := by
  intro a ha
  obtain ⟨b, -, rfl⟩ := List.mem_map.1 ha
  exact gfMul_lt b hf

theorem byteList_zipWith {p q : List Nat} (hp : byteList p) (hq : byteList q) : byteList (List.zipWith (· ^^^ ·) p q) := by
  intro a ha
  rw [← List.map_uncurry_zip_eq_zipWith] at ha
  obtain ⟨⟨b, c⟩, hbc, rfl⟩ := List.mem_map.1 ha
  exact xor_byte (hp b (List.of_mem_zip hbc).1) (hq c (List.of_mem_zip hbc).2)

theorem gfShiftIn_length {d : Nat} {r : List Nat} (hlen : r.length = g.length) (hpos : 0 < g.length) :
    (gfShiftIn g d r).length = g.length := by
  simp only [gfShiftIn, List.length_zipWith, List.length_append, List.length_drop, List.length_map, List.length_singleton]
  omega

theorem byteList_headD {r : List Nat} (hr : byteList r) : r.headD 0 < 256 := by
  cases r with
  | nil => exact (by decide : (0 : Nat) < 256)
  | cons a r => exact hr a List.mem_cons_self

theorem gfShiftIn_byteList {d : Nat} {r : List Nat} (hd : d < 256) (hr : byteList r) : byteList (gfShiftIn g d r) := by
  refine byteList_zipWith (fun a ha => ?_) (gfMul_byteList (xor_byte hd (byteList_headD hr)))
  rcases List.mem_append.1 ha with ha | ha
  · exact hr a (List.mem_of_mem_drop ha)
  · obtain rfl := List.mem_singleton.1 ha
    exact (by decide : (0 : Nat) < 256)

/-- Shifting in a coefficient above a remainder leaves the value at a root as it was. -/
theorem gfEval_gfShiftIn {x d : Nat} {r : List Nat} (hroot : gfRoot g x) (hd : d < 256) (hr : byteList r) (hlen : r.length = g.length)
    (hpos : 0 < g.length) : d ^^^ gfMul (gfEval (gfShiftIn g d r) x) x = gfEval r x := by
  obtain ⟨a, r, rfl⟩ := List.exists_cons_of_length_pos (hlen ▸ hpos)
  have ha : a < 256 := hr a List.mem_cons_self
  have hr' : byteList r := fun b hb => hr b (List.mem_cons_of_mem a hb)
  have hda : d ^^^ a < 256 := xor_byte hd ha
  have hpad : byteList (r ++ [0]) := fun b hb => (List.mem_append.1 hb).elim (hr' b) fun h0 => by
    rw [List.mem_singleton.1 h0]
    decide
  have hsum : gfEval (gfShiftIn g d (a :: r)) x = gfEval r x ^^^ gfEval (g.map (gfMul (d ^^^ a))) x := by
    rw [gfShiftIn, List.drop_one, List.tail_cons, List.headD_cons,
      gfEval_zipWith hpad (gfMul_byteList hda) (by simpa using hlen) x, ← gfEval_append_zeros r 1 x, List.replicate_one]
  have hmul : gfMul (gfEval r x ^^^ gfEval (g.map (gfMul (d ^^^ a))) x) x = gfMul (gfEval r x) x ^^^ (d ^^^ a) :=
    (gfMul_additive x _ _ (gfEval_lt hr' x) (gfEval_lt (gfMul_byteList hda) x)).trans (congrArg (gfMul (gfEval r x) x ^^^ ·) (hroot _ hda))
  rw [hsum, hmul, gfEval_cons]
  calc d ^^^ (gfMul (gfEval r x) x ^^^ (d ^^^ a)) = (d ^^^ d) ^^^ (a ^^^ gfMul (gfEval r x) x) := by ac_rfl
    _ = a ^^^ gfMul (gfEval r x) x := by rw [Nat.xor_self, Nat.zero_xor]

/-- A division leaves bytes, as many as the divisor has, and coefficients with their remainder have a root's value of the first remainder. -/
theorem gfRemainder_spec (hpos : 0 < g.length) {ds : List Nat} (hds : byteList ds) : ∀ r, byteList r → r.length = g.length →
    byteList (gfRemainder g ds r) ∧ (gfRemainder g ds r).length = g.length ∧
      ∀ x, gfRoot g x → gfEval (ds ++ gfRemainder g ds r) x = gfEval r x := by
  induction ds with
  | nil => exact fun r hr hlen => ⟨hr, hlen, fun x _ => rfl⟩
  | cons d ds ih =>
    intro r hr hlen
    have hd : d < 256 := hds d List.mem_cons_self
    obtain ⟨hbytes, hl, hval⟩ :=
      ih (fun a ha => hds a (List.mem_cons_of_mem d ha)) _ (gfShiftIn_byteList hd hr) (gfShiftIn_length (d := d) hlen hpos)
    rw [gfRemainder_cons]
    refine ⟨hbytes, hl, fun x hroot => ?_⟩
    rw [List.cons_append, gfEval_cons, hval x hroot, gfEval_gfShiftIn hroot hd hr hlen hpos]

end

/-! ## Codewords -/

theorem cellDivisor_length : cellDivisor.length = 19 := by decide +kernel

/-- The powers 1 to 19 of alpha are roots of the code. -/
theorem gfRoot_cellDivisor {j : Nat} (hj : 0 < j) (hj' : j < 20) : gfRoot cellDivisor (gfAlpha j) := by
  have hbasis : ∀ j, j < 20 → 0 < j → ∀ i, i < 8 →
      gfMul (gfEval (cellDivisor.map (gfMul (2 ^ i))) (gfAlpha j)) (gfAlpha j) = 2 ^ i := by decide +kernel
  intro f hf
  refine additive.eq_self (f := fun f => gfMul (gfEval (cellDivisor.map (gfMul f)) (gfAlpha j)) (gfAlpha j)) ?_ (hbasis j hj' hj) hf
  intro a b ha hb
  have hmap : cellDivisor.map (gfMul (a ^^^ b)) = List.zipWith (· ^^^ ·) (cellDivisor.map (gfMul a)) (cellDivisor.map (gfMul b)) := by
    rw [List.zipWith_map, List.zipWith_self]
    exact List.map_congr_left fun c _ => gfMul_additive c a b ha hb
  have hval : gfEval (cellDivisor.map (gfMul (a ^^^ b))) (gfAlpha j) =
      gfEval (cellDivisor.map (gfMul a)) (gfAlpha j) ^^^ gfEval (cellDivisor.map (gfMul b)) (gfAlpha j) := by
    rw [hmap, gfEval_zipWith (gfMul_byteList ha) (gfMul_byteList hb) (by simp)]
  exact (congrArg (gfMul · (gfAlpha j)) hval).trans
    (gfMul_additive _ _ _ (gfEval_lt (gfMul_byteList ha) _) (gfEval_lt (gfMul_byteList hb) _))

section
variable {d : List Nat} (hd : byteList d) (hlen : d.length = 236)

/-- The bytes of a sent cell below the last. -/
def cellBody (d : List Nat) : List Nat := d ++ gfRemainder cellDivisor d (List.replicate 19 0)

theorem cellEncode_eq (d : List Nat) : cellEncode d = cellBody d ++ [gfSum (cellBody d)] := rfl

include hd

theorem remainder_spec : byteList (gfRemainder cellDivisor d (List.replicate 19 0)) ∧
    (gfRemainder cellDivisor d (List.replicate 19 0)).length = 19 ∧ ∀ x, gfRoot cellDivisor x → gfEval (cellBody d) x = 0 := by
  have hzero : byteList (List.replicate 19 0) := fun a ha => by
    rw [List.eq_of_mem_replicate ha]
    decide
  obtain ⟨hb, hl, hv⟩ := gfRemainder_spec (by rw [cellDivisor_length]; decide) hd _ hzero
    (by rw [cellDivisor_length, List.length_replicate])
  refine ⟨hb, hl.trans cellDivisor_length, fun x hx => ?_⟩
  rw [cellBody, hv x hx]
  exact gfEval_append_zeros [] 19 x

theorem byteList_cellBody : byteList (cellBody d) := fun a ha =>
  (List.mem_append.1 ha).elim (hd a) ((remainder_spec hd).1 a)

theorem byteList_cellEncode : byteList (cellEncode d) := fun a ha => by
  rw [cellEncode_eq] at ha
  rcases List.mem_append.1 ha with ha | ha
  · exact byteList_cellBody hd a ha
  · rw [List.mem_singleton.1 ha, ← gfEval_one (byteList_cellBody hd)]
    exact gfEval_lt (byteList_cellBody hd) 1

include hlen

theorem cellBody_length : (cellBody d).length = 255 := by
  rw [cellBody, List.length_append, hlen, (remainder_spec hd).2.1]

theorem cellEncode_length : (cellEncode d).length = 256 := by
  rw [cellEncode_eq, List.length_append, cellBody_length hd hlen, List.length_singleton]

/-- The syndromes of a sent cell are zero. -/
theorem cellSyndrome_cellEncode {j : Nat} (hj : j < 20) : cellSyndrome (cellEncode d) j = 0 := by
  have hbody : (cellEncode d).take 255 = cellBody d := by
    rw [cellEncode_eq, List.take_left' (cellBody_length hd hlen)]
  rw [cellSyndrome, hbody]
  rcases Nat.eq_zero_or_pos j with rfl | hpos
  · have hlast : (cellEncode d).getD 255 0 = gfSum (cellBody d) := by
      rw [cellEncode_eq, List.getD_append_right _ _ _ _ (by rw [cellBody_length hd hlen]), cellBody_length hd hlen]
      rfl
    have hone : gfAlpha 0 = 1 := by decide +kernel
    rw [hone, gfEval_one (byteList_cellBody hd), if_pos rfl, hlast, Nat.xor_self]
  · rw [(remainder_spec hd).2.2 _ (gfRoot_cellDivisor hpos hj), if_neg (by omega), Nat.xor_zero]

theorem cellDecode_cellEncode : cellDecode (cellEncode d) = some (cellEncode d, 0) := by
  have hall : (((List.range 20).map (cellSyndrome (cellEncode d))).all (· == 0)) = true := by
    rw [List.all_map, List.all_eq_true]
    intro j hj
    exact beq_iff_eq.2 (cellSyndrome_cellEncode hd hlen (List.mem_range.1 hj))
  rw [cellDecode]
  exact if_pos hall

end

/-! ## Sealed cells -/

theorem byteList_natsOf (b : Bytes) : byteList (natsOf b) := by
  intro a ha
  obtain ⟨x, -, rfl⟩ := List.mem_map.1 ha
  exact x.isLt

theorem natsOf_length (b : Bytes) : (natsOf b).length = b.length := List.length_map _

theorem natsOf_bytesOf {l : List Nat} (hl : byteList l) : natsOf (bytesOf l) = l := by
  rw [natsOf, bytesOf, List.map_map]
  exact (List.map_congr_left fun a ha => Nat.mod_eq_of_lt (hl a ha)).trans (List.map_id l)

theorem bytesOf_natsOf (b : Bytes) : bytesOf (natsOf b) = b := by
  rw [natsOf, bytesOf, List.map_map]
  exact (List.map_congr_left fun x _ => BitVec.eq_of_toNat_eq (Nat.mod_eq_of_lt x.isLt)).trans (List.map_id b)

section
variable {d : Bytes} (hlen : d.length = 236)
include hlen

/-- A sealed cell opens as itself, with no byte corrected. -/
theorem openCell_sealCell : openCell (sealCell d) = some (sealCell d, 0) := by
  have hd := byteList_natsOf d
  have hl : (natsOf d).length = 236 := (natsOf_length d).trans hlen
  have hlength : (sealCell d).length = 256 := (List.length_map _).trans (cellEncode_length hd hl)
  rw [openCell, if_pos hlength, sealCell, natsOf_bytesOf (byteList_cellEncode hd), cellDecode_cellEncode hd hl]
  rfl

/-- A sealed cell holds what was sealed in its first bytes. -/
theorem sealCell_take : (sealCell d).take 236 = d := by
  have htake : (cellEncode (natsOf d)).take 236 = natsOf d := by
    rw [cellEncode_eq, cellBody, List.append_assoc, List.take_left' ((natsOf_length d).trans hlen)]
  rw [sealCell, bytesOf, ← List.map_take, htake]
  exact bytesOf_natsOf d

end

end Sys2Proof
end

section
/-! PROOFS. Maintenance cells (15 R377): the refutation of O56. Its part on received cells holds of states of every shape, and in one without a
collective state for a domain the COUNTER cell of the domain's key has no place to be noted in. -/

namespace Sys2Proof.Machine

/-- A cell whose errors are none, on a port that is not UP and on which no epoch's slots lie, leaves nothing recorded. -/
theorem State.afterRx_eq_self {s : State} {c : RxCell} {b : Bytes} (hopen : openCell c.bytes = some (b, 0)) (hup : s.isUp c.port = false)
    (hchan : s.chanDom c.port = none) : s.afterRx c = s := by
  have harrive : s.arrive c.port c.slot = s := by simp [State.arrive, State.stamped, hup]
  have hrx : (s.openRx c).1 = s := by simp [State.openRx, hopen]
  have hwait : s.recordWait c.port c.wait = s := by simp [State.recordWait, hup]
  rw [State.afterRx, harrive, hrx, hwait, State.slotSeen, hchan]

/-- COUNTER keeps the number of domains with a collective state. -/
theorem execCounter_doms_length {c : RxCell} {s t : State} (h : exec (.counter c) s = .next t) : t.coll.doms.length = s.coll.doms.length :=
  congrArg Shape.doms (keepsShape_cellRow s c .counter (takeCounterCell c s) (keepsShape_takeCounterCell s c) t h)

/-! ## A COUNTER cell that authenticates -/

/-- The header of a COUNTER cell with the maintenance number 0. -/
def counterHdr : CellHdr := { dst := 0, src := 0, channel := 0, tenant := 0, seq := 0, epoch := 0, type := 0x0E, efmt := 0, count := 0 }

/-- A COUNTER cell's 224 payload bytes: the counter 0, and a tag. -/
def counterBody (tag : BitVec 128) : Bytes := leBytes 8 0 ++ (leBytes 16 tag.toNat ++ List.replicate 200 0)

theorem counterBody_length (tag : BitVec 128) : (counterBody tag).length = 224 := by
  rw [counterBody, List.length_append, List.length_append, leBytes_length, leBytes_length, List.length_replicate]

theorem counterBody_counter (tag : BitVec 128) : payNum (counterBody tag) 0 8 = 0 := by
  rw [payNum, counterBody, List.drop_zero, List.take_left' (leBytes_length 8 0), leNat_leBytes, Nat.zero_mod]

theorem counterBody_tag (tag : BitVec 128) : payNum (counterBody tag) 8 16 = tag.toNat := by
  rw [payNum, counterBody, List.drop_left' (leBytes_length 8 0), List.take_left' (leBytes_length 16 _), leNat_leBytes]
  exact Nat.mod_eq_of_lt tag.isLt

/-- The COUNTER cell with a tag, as it comes on port 6. -/
def counterCell (tag : BitVec 128) : RxCell := ⟨6, 0, 0, sealCell (counterHdr.bytes ++ counterBody tag)⟩

theorem openCell_counterCell (tag : BitVec 128) : openCell (counterCell tag).bytes = some ((counterCell tag).bytes, 0) :=
  openCell_sealCell (by rw [List.length_append, counterBody_length, CellHdr.bytes, leBytes_length])

theorem cellParts_counterCell (tag : BitVec 128) : cellParts (counterCell tag).bytes = (counterHdr, counterBody tag) := by
  have hhdr : counterHdr.bytes.length = 12 := leBytes_length _ _
  have hcell : (counterCell tag).bytes.take 236 = counterHdr.bytes ++ counterBody tag :=
    sealCell_take (by rw [List.length_append, counterBody_length, hhdr])
  have hfirst : (counterCell tag).bytes.take 12 = counterHdr.bytes := by
    rw [← List.take_left' (l₂ := counterBody tag) hhdr, ← hcell, List.take_take]
    rfl
  have hrest : ((counterCell tag).bytes.drop 12).take 224 = counterBody tag := by
    rw [← List.drop_left' (l₂ := counterBody tag) hhdr, ← hcell, List.drop_take]
  have hval : CellHdr.ofNat (leNat counterHdr.bytes) = counterHdr := by decide +kernel
  rw [cellParts, hfirst, hrest, hval]

/-! ## The state without collective states -/

/-- Port 6, of class K, carries maintenance cells and is assigned to domain 0, which holds a key. No domain has a collective state. -/
def noDoms : State :=
  let s := State.initial { part := .zv4_32_12, silo := .kib32 }
  let d : Domain := { Domain.initial with liveNow := true, wordsNow := [0, 2 ^ 6], hasKey := true }
  let q : Port := { Port.initial with state := .maintOnly, phyEn := true, phyRdy := true }
  { s with clk := { s.clk with localTime := 40 }, parts := s.parts.set 0 d, ports := s.ports.set 6 q, coll := { s.coll with doms := [] } }

theorem noDoms_receives : noDoms.receives 6 = true ∧ noDoms.buffered 6 = false := by decide +kernel

theorem noDoms_idle : noDoms.isUp 6 = false ∧ noDoms.chanDom 6 = none := by decide +kernel

theorem noDoms_protected : noDoms.carries 6 = true ∧ (noDoms.portAt 6).mrxSeq = 0 ∧ noDoms.protectedDom 6 = some 0 := by decide +kernel

/-- What authenticates the counter 0 of port 6's partner. -/
def noDomsTag : BitVec 128 :=
  Config.counterTag (noDoms.partAt 0).key
    (groupInfo (noDoms.portAt 6).neighLogical.toNat (noDoms.portAt 6).neighPort.toNat (partKeyGen (noDoms.wordsOf 0)) 0)

theorem noDoms_received : noDoms.received (counterCell noDomsTag) counterHdr (counterBody noDomsTag) :=
  ⟨noDoms_receives.1, _, 0, openCell_counterCell noDomsTag, cellParts_counterCell noDomsTag⟩

theorem noDoms_afterRx : noDoms.afterRx (counterCell noDomsTag) = noDoms :=
  State.afterRx_eq_self (openCell_counterCell noDomsTag) noDoms_idle.1 noDoms_idle.2

/-- Refutes O56: the clause of a COUNTER cell that authenticates asks that the port is noted in the collective state of the domain of its key,
of states of every shape. In `noDoms` no domain has a collective state (`State.shaped` is not asked): the cell is taken, and nothing is noted. -/
theorem not_maintenanceCellsComeInSequence : ¬ Obligations.MaintenanceCellsComeInSequence := by
  unfold Obligations.MaintenanceCellsComeInSequence
  rintro ⟨hcells, -⟩
  obtain ⟨hcarries, hseq, hprot⟩ := noDoms_protected
  have hcell := hcells (counterCell noDomsTag) counterHdr (counterBody noDomsTag) noDoms noDoms_received noDoms_receives.2
  rw [noDoms_afterRx] at hcell
  obtain ⟨-, hcounter, -⟩ := hcell.1 noDoms_idle.2
  obtain ⟨t, hexec, -, -, -, hgenuine, -⟩ := hcounter hcarries hseq.symm rfl
  rw [counterBody_counter] at hgenuine
  obtain ⟨-, hdom⟩ := hgenuine 0 hprot (counterBody_tag noDomsTag)
  have hnone : t.coll.doms = [] := List.length_eq_zero_iff.1 (execCounter_doms_length hexec)
  rw [State.domAt, hnone] at hdom
  exact absurd (congrArg DomColl.counterGot hdom) (by decide)

end Sys2Proof.Machine
end

section
/-! PROOFS. The canonical form of the memories and the alarm line, as one invariant with two readings, and that every function of the model keeps
it: an equivalence where a function touches neither a memory nor the alarm record, an implication where it does, in the order of the model
(02 R57, 03 R96). The step lemma follows from them. -/

namespace Sys2Proof.Machine

/-! ## The invariants -/

/-- The two invariants of this file: the canonical form of the memories, and the alarm line (R57). -/
inductive Inv where
  | memories
  | alarm

/-- What an invariant asks of a memory. -/
def Inv.mem (κ : Inv) (m : Mem) : Prop := κ = .memories → m.wf = true

/-- What an invariant asks of the mailboxes. -/
def Inv.mbxs (κ : Inv) (l : List Mailbox) : Prop := ∀ b ∈ l, κ.mem b.mem

/-- What an invariant asks of the fatal bits and of ALARM_N. -/
def Inv.line (κ : Inv) (fatal : BitVec 32) (pulled : Bool) : Prop := κ = .alarm → pulled = (fatal != 0)

/-- A state meets an invariant. -/
structure State.Meets (s : State) (κ : Inv) : Prop where
  cmdMemOk : κ.mem s.cmdMem
  tablesOk : κ.mem s.tables
  ledgerOk : κ.mem s.ledger
  spOk : κ.mem s.sp
  sheavesOk : κ.mem s.cores.sheaves
  chainsOk : κ.mem s.coup.chains
  dmemOk : κ.mem s.kol.dmem
  mbxOk : κ.mbxs s.mbx
  lineOk : κ.line s.aon.fatal s.aon.alarmPulled

theorem State.meets_memories (s : State) : s.Meets .memories ↔ s.memWf = true := by
  simp only [State.memWf, Bool.and_eq_true, List.all_eq_true]
  constructor
  · rintro ⟨h1, h2, h3, h4, h5, h6, h7, h8, -⟩
    exact ⟨⟨⟨⟨⟨⟨⟨h1 rfl, h2 rfl⟩, h3 rfl⟩, h4 rfl⟩, h5 rfl⟩, h6 rfl⟩, h7 rfl⟩, fun b hb => h8 b hb rfl⟩
  · rintro ⟨⟨⟨⟨⟨⟨⟨h1, h2⟩, h3⟩, h4⟩, h5⟩, h6⟩, h7⟩, h8⟩
    exact ⟨fun _ => h1, fun _ => h2, fun _ => h3, fun _ => h4, fun _ => h5, fun _ => h6, fun _ => h7, fun b hb _ => h8 b hb, nofun⟩

theorem State.meets_alarm (s : State) : s.Meets .alarm ↔ s.alarmLine = true := by
  rw [State.alarmLine, beq_iff_eq]
  exact ⟨fun h => h.lineOk rfl, fun h => ⟨nofun, nofun, nofun, nofun, nofun, nofun, nofun, fun _ _ => nofun, fun _ => h⟩⟩

variable {s : State} {κ : Inv}

@[simp] theorem State.Meets.cmdMem (hs : s.Meets κ) : κ.mem s.cmdMem := hs.cmdMemOk
@[simp] theorem State.Meets.tables (hs : s.Meets κ) : κ.mem s.tables := hs.tablesOk
@[simp] theorem State.Meets.ledger (hs : s.Meets κ) : κ.mem s.ledger := hs.ledgerOk
@[simp] theorem State.Meets.sp (hs : s.Meets κ) : κ.mem s.sp := hs.spOk
@[simp] theorem State.Meets.sheaves (hs : s.Meets κ) : κ.mem s.cores.sheaves := hs.sheavesOk
@[simp] theorem State.Meets.chains (hs : s.Meets κ) : κ.mem s.coup.chains := hs.chainsOk
@[simp] theorem State.Meets.dmem (hs : s.Meets κ) : κ.mem s.kol.dmem := hs.dmemOk
@[simp] theorem State.Meets.mbx (hs : s.Meets κ) : κ.mbxs s.mbx := hs.mbxOk
@[simp] theorem State.Meets.line (hs : s.Meets κ) : κ.line s.aon.fatal s.aon.alarmPulled := hs.lineOk

/-! ## Memories and mailboxes -/

@[simp] theorem Inv.mem_nil : κ.mem [] := fun _ => rfl

section
variable {m : Mem} (hm : κ.mem m)
include hm

@[simp] theorem Inv.mem_write (a b) : κ.mem (m.write a b) := fun e => Mem.wf_write (hm e) a b
@[simp] theorem Inv.mem_write64 (a w) : κ.mem (m.write64 a w) := fun e => Mem.wf_write64 (hm e) a w
@[simp] theorem Inv.mem_writeBytes (a bs) : κ.mem (m.writeBytes a bs) := fun e => Mem.wf_writeBytes bs (hm e) a
@[simp] theorem Inv.mem_clear (a n) : κ.mem (m.clear a n) := fun e => Mem.wf_clear (hm e) a n
@[simp] theorem Inv.mem_overlay (cs) : κ.mem (m.overlay cs) := fun e => Mem.wf_overlay cs (hm e)

/-- A fold of updates that each keep a memory canonical does so. -/
theorem Inv.mem_foldl {α : Type} (f : Mem → α → Mem) (hf : ∀ m a, κ.mem m → κ.mem (f m a)) (l : List α) : κ.mem (l.foldl f m) := by
  induction l generalizing m with
  | nil => exact hm
  | cons a l ih => exact ih (hf m a hm)

end

/-- A latched fatal bit pulls ALARM_N. -/
theorem Inv.line_latched (fatal : BitVec 32) {code : Nat} (hc : code ≤ 32) : κ.line (fatal ||| BitVec.ofNat 32 (2 ^ (code - 1))) true := by
  intro _
  have hbit : (fatal ||| BitVec.ofNat 32 (2 ^ (code - 1))).getLsbD (code - 1) = true := by
    have hlt : code - 1 < 32 := by omega
    rw [BitVec.getLsbD_or, BitVec.getLsbD_ofNat, Nat.testBit_two_pow_self, decide_eq_true hlt, Bool.and_true, Bool.or_true]
  refine (bne_iff_ne.2 fun h => ?_).symm
  rw [h] at hbit
  simp at hbit

@[simp] theorem Inv.mem_ite (c : Prop) [Decidable c] (m n : Mem) : κ.mem (if c then m else n) ↔ if c then κ.mem m else κ.mem n := by
  split <;> rfl

theorem Inv.mbxs_modify {l : List Mailbox} (h : κ.mbxs l) (m : Nat) (f : Mailbox → Mailbox) (hf : ∀ b, κ.mem b.mem → κ.mem (f b).mem) :
    κ.mbxs (l.modify m f) := by
  intro b hb
  obtain ⟨i, hi, rfl⟩ := List.getElem_of_mem hb
  have hi' : i < l.length := by simpa using hi
  rw [List.getElem_modify]
  split
  · exact hf _ (h _ (List.getElem_mem hi'))
  · exact h _ (List.getElem_mem hi')

theorem Inv.mbxs_map {l : List Mailbox} (h : κ.mbxs l) (f : Mailbox → Mailbox) (hf : ∀ b, κ.mem b.mem → κ.mem (f b).mem) :
    κ.mbxs (l.map f) := by
  intro b hb
  obtain ⟨c, hc, rfl⟩ := List.mem_map.1 hb
  exact hf c (h c hc)

@[simp] theorem Mailbox.mem_store (b : Mailbox) (e : W4) (h : κ.mem b.mem) : κ.mem (b.store e).mem := by
  intro hκ
  obtain ⟨-, -, -, -, -, -, -, -, -, -, hw, -⟩ := b.store_spec e (h hκ)
  exact hw

@[simp] theorem Inv.mem_writeBits {m : Mem} (hm : κ.mem m) (ws : List BitWrite) : κ.mem (m.writeBits ws) :=
  Inv.mem_foldl (Inv.mem_foldl hm _ (fun _ _ h => Inv.mem_write h _ _) _) _
    (fun _ _ h => Inv.mem_foldl h _ (fun _ _ h => Inv.mem_write h _ _) _) _

/-- The same for a fold that carries a result beside the memory. -/
theorem Inv.mem_foldl_fst {α β : Type} (f : Mem × β → α → Mem × β) (hf : ∀ x a, κ.mem x.1 → κ.mem (f x a).1) (l : List α) (x : Mem × β)
    (hx : κ.mem x.1) : κ.mem (l.foldl f x).1 := by
  induction l generalizing x with
  | nil => exact hx
  | cons a l ih => exact ih _ (hf x a hx)

/-- A commit copies an entry's lines within the scratchpad (R405). -/
theorem Inv.mem_copyEntry (s : State) (d : Nat) (a : Mem × Option Nat) (e : Nat) (ha : κ.mem a.1) : κ.mem (s.copyEntry d a e).1 :=
  Inv.mem_foldl_fst _ (fun _ _ hx => Inv.mem_writeBytes hx _ _) _ a ha

/-! ## Outcomes, cases and folds -/

/-- Every next state of an outcome meets an invariant. -/
def Res.Meets (κ : Inv) (r : Res) : Prop := ∀ t, r = .next t → t.Meets κ

@[simp] theorem Res.meets_next (t : State) : Res.Meets κ (.next t) ↔ t.Meets κ := by simp [Res.Meets]
@[simp] theorem Res.meets_refused (r : Refusal) : Res.Meets κ (.refused r) := by simp [Res.Meets]

@[simp] theorem State.meets_ite (c : Prop) [Decidable c] (s t : State) :
    (if c then s else t).Meets κ ↔ if c then s.Meets κ else t.Meets κ := by split <;> rfl

@[simp] theorem Res.meets_ite (c : Prop) [Decidable c] (r q : Res) :
    Res.Meets κ (if c then r else q) ↔ if c then r.Meets κ else q.Meets κ := by split <;> rfl

/-- A state written out meets an invariant if its parts do. -/
@[simp] theorem State.meets_mk (cfg aon clk boot rp win mbx kol parts keyHigh cmdMem seqs cores tables ledger ckpt sp coup ports pairHeld coll fedIn
    fedOut agenda gln tap free pending) :
    State.Meets ⟨cfg, aon, clk, boot, rp, win, mbx, kol, parts, keyHigh, cmdMem, seqs, cores, tables, ledger, ckpt, sp, coup, ports, pairHeld,
      coll, fedIn, fedOut, agenda, gln, tap, free, pending⟩ κ ↔
    κ.mem cmdMem ∧ κ.mem tables ∧ κ.mem ledger ∧ κ.mem sp ∧ κ.mem cores.sheaves ∧ κ.mem coup.chains ∧ κ.mem kol.dmem ∧ κ.mbxs mbx ∧
      κ.line aon.fatal aon.alarmPulled := by
  constructor
  · rintro ⟨h1, h2, h3, h4, h5, h6, h7, h8, h9⟩
    exact ⟨h1, h2, h3, h4, h5, h6, h7, h8, h9⟩
  · rintro ⟨h1, h2, h3, h4, h5, h6, h7, h8, h9⟩
    exact ⟨h1, h2, h3, h4, h5, h6, h7, h8, h9⟩

/-- The parts of a state that an invariant speaks of. -/
@[simp] theorem State.meets_fields (s : State) :
    (κ.mem s.cmdMem ∧ κ.mem s.tables ∧ κ.mem s.ledger ∧ κ.mem s.sp ∧ κ.mem s.cores.sheaves ∧ κ.mem s.coup.chains ∧ κ.mem s.kol.dmem ∧
      κ.mbxs s.mbx ∧ κ.line s.aon.fatal s.aon.alarmPulled) ↔ s.Meets κ := (State.meets_mk ..).symm

@[simp] theorem State.meets_initial (c : Cfg) : (State.initial c).Meets κ :=
  ⟨κ.mem_nil, κ.mem_nil, κ.mem_nil, κ.mem_nil, κ.mem_nil, κ.mem_nil, κ.mem_nil, fun b hb => by
    obtain ⟨m, -, rfl⟩ := List.mem_map.1 hb
    exact κ.mem_nil, fun _ => rfl⟩

section
variable (hs : s.Meets κ)
include hs

@[simp] theorem State.Meets.foldl {α : Type} (f : State → α → State) (hf : ∀ t a, t.Meets κ → (f t a).Meets κ) (l : List α) :
    (l.foldl f s).Meets κ := by
  induction l generalizing s with
  | nil => exact hs
  | cons a l ih => exact ih (hf s a hs)

@[simp] theorem State.Meets.onMbx (m f) (hf : ∀ b : Mailbox, κ.mem b.mem → κ.mem (f b).mem) : (s.onMbx m f).Meets κ := by
  simp [State.onMbx, hs, Inv.mbxs_modify hs.mbx m f hf]

@[simp] theorem State.Meets.onKol (f) (hf : ∀ k : Kolate, κ.mem k.dmem → κ.mem (f k).dmem) : (s.onKol f).Meets κ := by
  simp [State.onKol, hs, hf]

@[simp] theorem State.Meets.onCores (f) (hf : ∀ c : Cores, κ.mem c.sheaves → κ.mem (f c).sheaves) : (s.onCores f).Meets κ := by
  simp [State.onCores, hs, hf]

@[simp] theorem State.Meets.onCoup (f) (hf : ∀ c : Coupler, κ.mem c.chains → κ.mem (f c).chains) : (s.onCoup f).Meets κ := by
  simp [State.onCoup, hs, hf]

@[simp] theorem State.Meets.onAon (f) (hf : ∀ a : Aon, κ.line a.fatal a.alarmPulled → κ.line (f a).fatal (f a).alarmPulled) :
    (s.onAon f).Meets κ := by
  simp [State.onAon, hs, hf]

@[simp] theorem meets_whenTrue (c : Bool) (t : State) (h : t.Meets κ) : Res.Meets κ (whenTrue c s t) := by
  unfold whenTrue; split
  · exact (Res.meets_next t).2 h
  · exact (Res.meets_next s).2 hs

end

@[simp] theorem State.meets_foldl {α : Type} (f : State → α → State) (hf : ∀ t a, (f t a).Meets κ ↔ t.Meets κ) (l : List α) (s : State) :
    (l.foldl f s).Meets κ ↔ s.Meets κ := by
  induction l generalizing s with
  | nil => rfl
  | cons a l ih => rw [List.foldl_cons, ih, hf]

/-- The same for a fold that carries a result beside the state. -/
theorem State.meets_foldl_fst {α β : Type} (f : State × β → α → State × β) (hf : ∀ x a, (f x a).1.Meets κ ↔ x.1.Meets κ) (l : List α)
    (x : State × β) : (l.foldl f x).1.Meets κ ↔ x.1.Meets κ := by
  induction l generalizing x with
  | nil => rfl
  | cons a l ih => rw [List.foldl_cons, ih, hf]

/-! ## Updates of the parts that no invariant speaks of -/

@[simp] theorem State.meets_onSeq (i f) : (s.onSeq i f).Meets κ ↔ s.Meets κ := by simp [State.onSeq]
@[simp] theorem State.meets_onPart (i f) : (s.onPart i f).Meets κ ↔ s.Meets κ := by simp [State.onPart]
@[simp] theorem State.meets_onPort (i f) : (s.onPort i f).Meets κ ↔ s.Meets κ := by simp [State.onPort]
@[simp] theorem State.meets_onGln (f) : (s.onGln f).Meets κ ↔ s.Meets κ := by simp [State.onGln]
@[simp] theorem State.meets_onBoot (f) : (s.onBoot f).Meets κ ↔ s.Meets κ := by simp [State.onBoot]
@[simp] theorem State.meets_onWin (f) : (s.onWin f).Meets κ ↔ s.Meets κ := by simp [State.onWin]
@[simp] theorem State.meets_onColl (f) : (s.onColl f).Meets κ ↔ s.Meets κ := by simp [State.onColl]
@[simp] theorem State.meets_onDom (d f) : (s.onDom d f).Meets κ ↔ s.Meets κ := by simp [State.onDom]


/-! ## Updates that leave the memory or the alarm record of their part -/

theorem Inv.mbxs_modify_of_mem_eq (l : List Mailbox) (m : Nat) (f : Mailbox → Mailbox) (hf : ∀ b, (f b).mem = b.mem) :
    κ.mbxs (l.modify m f) ↔ κ.mbxs l := by
  have key : (l.modify m f).map (·.mem) = l.map (·.mem) := by
    apply List.ext_getElem (by simp)
    intro i _ _
    simp only [List.getElem_map, List.getElem_modify]
    split <;> simp [hf]
  have hall (x : List Mailbox) : κ.mbxs x ↔ ∀ y ∈ x.map (·.mem), κ.mem y := by simp [Inv.mbxs]
  rw [hall, key, ← hall]

@[simp] theorem State.meets_onMbx (m f) (hf : ∀ b : Mailbox, (f b).mem = b.mem) : (s.onMbx m f).Meets κ ↔ s.Meets κ := by
  simp [State.onMbx, Inv.mbxs_modify_of_mem_eq _ m f hf]

@[simp] theorem State.meets_onKol (f) (hf : ∀ k : Kolate, (f k).dmem = k.dmem) : (s.onKol f).Meets κ ↔ s.Meets κ := by
  simp [State.onKol, hf]

@[simp] theorem State.meets_onCores (f) (hf : ∀ c : Cores, (f c).sheaves = c.sheaves) : (s.onCores f).Meets κ ↔ s.Meets κ := by
  simp [State.onCores, hf]

@[simp] theorem State.meets_onCoup (f) (hf : ∀ c : Coupler, (f c).chains = c.chains) : (s.onCoup f).Meets κ ↔ s.Meets κ := by
  simp [State.onCoup, hf]

@[simp] theorem State.meets_onAon (f) (hf : ∀ a : Aon, (f a).fatal = a.fatal ∧ (f a).alarmPulled = a.alarmPulled) :
    (s.onAon f).Meets κ ↔ s.Meets κ := by
  simp [State.onAon, hf]


/-! ## The pens' sheaves -/

@[simp] theorem Cores.sheaves_retire (n : Nat) (c : Cores) (k : Nat) : (Cores.retire n c k).sheaves = c.sheaves := rfl

@[simp] theorem Cores.sheaves_setShadow (n : Nat) (c : Cores) (g : Nat) (k : Option Nat) : (Cores.setShadow n c g k).sheaves = c.sheaves := by
  unfold Cores.setShadow
  split
  · rfl
  · extract_lets a b
    have ha : a.sheaves = c.sheaves := by
      unfold a
      repeat' split
      all_goals rfl
    cases k <;> exact ha

theorem Cores.sheaves_foldl {α : Type} (f : Cores → α → Cores) (h : ∀ c a, (f c a).sheaves = c.sheaves) (l : List α) (c : Cores) :
    (l.foldl f c).sheaves = c.sheaves := by
  induction l generalizing c with
  | nil => rfl
  | cons a l ih => rw [List.foldl_cons, ih, h]

@[simp] theorem Cores.sheaves_bistReplace (n : Nat) (c : Cores) (k : Nat) : (Cores.bistReplace n c k).sheaves = c.sheaves := by
  unfold Cores.bistReplace
  extract_lets spare
  split <;> rfl

@[simp] theorem Cores.sheaves_bistFence (n : Nat) (c : Cores) (ks : List Nat) : (Cores.bistFence n c ks).sheaves = c.sheaves :=
  (Cores.sheaves_foldl _ (Cores.sheaves_bistReplace n) ks _).trans (Cores.sheaves_foldl _ (fun _ _ => by rfl) ks c)

section
variable {c : Cores} (hc : κ.mem c.sheaves)
include hc

@[simp] theorem Cores.mem_setServe (n g k : Nat) : κ.mem (Cores.setServe n c g k).sheaves := by
  unfold Cores.setServe
  extract_lets old
  split
  · exact hc
  · exact Inv.mem_clear hc _ _

@[simp] theorem Cores.mem_act (n g a k : Nat) : κ.mem (c.act n g a k).sheaves := by
  unfold Cores.act
  split
  · split
    · exact Inv.mem_clear hc _ _
    · exact hc
  · split
    · rwa [Cores.sheaves_setShadow]
    · exact hc
  · rwa [Cores.sheaves_setShadow]
  · exact Inv.mem_clear hc _ _

end

/-! ## Time, free values, the gleaner and mailbox rings -/

@[simp] theorem State.meets_fresh : s.fresh.2.Meets κ ↔ s.Meets κ := by simp [State.fresh]
@[simp] theorem State.meets_event (code source dom detail) : (s.event code source dom detail).Meets κ ↔ s.Meets κ := by simp [State.event]
@[simp] theorem State.meets_warn (b) : (s.warn b).Meets κ ↔ s.Meets κ := by simp [State.warn]
@[simp] theorem State.meets_clock (n) : (s.clock n).Meets κ ↔ s.Meets κ := by simp [State.clock]
@[simp] theorem State.meets_trace (q w0 w1) : (s.trace q w0 w1).Meets κ ↔ s.Meets κ := by simp [State.trace]
@[simp] theorem State.meets_snapTrigger (trigger loc) : (s.snapTrigger trigger loc).Meets κ ↔ s.Meets κ := by simp [State.snapTrigger]
@[simp] theorem State.Meets.latchFatal (hs : s.Meets κ) (code) (loc) (hc : code ≤ 32) : (s.latchFatal code loc).Meets κ := by
  unfold State.latchFatal
  extract_lets now t
  exact State.meets_snapTrigger .. |>.2 (hs.onAon _ fun a _ => by exact κ.line_latched a.fatal hc)
@[simp] theorem State.Meets.post (hs : s.Meets κ) (m e) : (s.post m e).Meets κ := by
  unfold State.post
  split
  · exact hs
  · exact hs.onMbx _ _ fun b => b.mem_store e
@[simp] theorem State.meets_finishReset (m) : (s.finishReset m).Meets κ ↔ s.Meets κ := by simp [State.finishReset]
@[simp] theorem State.meets_resetMbx (m) : (s.resetMbx m).Meets κ ↔ s.Meets κ := by simp [State.resetMbx]
@[simp] theorem State.Meets.complete (hs : s.Meets κ) (r code detail r1 r2 r3) :
    (s.complete r code detail r1 r2 r3).Meets κ := by
  unfold State.complete
  extract_lets twice t u v
  have ht : t.Meets κ := by simp [t, hs]
  have hv : v.Meets κ := (State.meets_onKol _ fun _ => by rfl).2 (ht.post ..)
  simp [hv]

/-! ## Programs, the federation path and the ledger's tallies -/

@[simp] theorem State.meets_unarmIf (p) : (s.unarmIf p).Meets κ ↔ s.Meets κ := by simp [State.unarmIf]
@[simp] theorem State.meets_fedSend (die m) : (s.fedSend die m).Meets κ ↔ s.Meets κ := by simp [State.fedSend]
@[simp] theorem State.meets_fedAll (m) : (s.fedAll m).Meets κ ↔ s.Meets κ := by simp [State.fedAll]
@[simp] theorem State.meets_onRun (q f) : (s.onRun q f).Meets κ ↔ s.Meets κ := by simp [State.onRun]
@[simp] theorem State.Meets.setEntry (hs : s.Meets κ) (e x) : (s.setEntry e x).Meets κ := by
  simp [State.setEntry, Entry.toMem, hs]
@[simp] theorem State.Meets.zeroTally (hs : s.Meets κ) (e) : (s.zeroTally e).Meets κ := by simp [State.zeroTally, hs]
@[simp] theorem State.Meets.zeroTallies (hs : s.Meets κ) (cs) : (s.zeroTallies cs).Meets κ := by
  unfold State.zeroTallies
  exact hs.foldl _ (fun _ e ht => ht.zeroTally e) _
@[simp] theorem State.meets_checkpoint (e) : (s.checkpoint e).Meets κ ↔ s.Meets κ := by simp [State.checkpoint]
@[simp] theorem State.Meets.restoreLedger (hs : s.Meets κ) (d) : (s.restoreLedger d).Meets κ := by
  unfold State.restoreLedger
  extract_lets ws t
  have ht : t.Meets κ := hs.foldl _ (fun u x hu => by split <;> simp [hu]) _
  simp [ht]
@[simp] theorem State.meets_clearCheckpoints (d) : (s.clearCheckpoints d).Meets κ ↔ s.Meets κ := by simp [State.clearCheckpoints]
@[simp] theorem State.meets_refreshFps : s.refreshFps.Meets κ ↔ s.Meets κ := by simp [State.refreshFps]

/-! ## Cells and the states of ports -/

@[simp] theorem State.meets_send (c) : (s.send c).Meets κ ↔ s.Meets κ := by simp [State.send]
@[simp] theorem State.meets_sendControl (d type p t payload) :
    (s.sendControl d type p t payload).Meets κ ↔ s.Meets κ := by simp [State.sendControl]

@[simp] theorem State.meets_sendMaint (p type dst payload) : (s.sendMaint p type dst payload).Meets κ ↔ s.Meets κ := by simp [State.sendMaint]
@[simp] theorem State.meets_replay (p) : (s.replay p).Meets κ ↔ s.Meets κ := by simp [State.replay]
@[simp] theorem State.meets_routeMaint (d dst payload) : (s.routeMaint d dst payload).Meets κ ↔ s.Meets κ := by
  unfold State.routeMaint
  split <;> simp

@[simp] theorem State.meets_sendTrainId (p ack) : (s.sendTrainId p ack).Meets κ ↔ s.Meets κ := by simp [State.sendTrainId]
@[simp] theorem State.meets_identityRefresh : s.identityRefresh.Meets κ ↔ s.Meets κ := by simp [State.identityRefresh]
@[simp] theorem State.meets_setPort (p st reason) : (s.setPort p st reason).Meets κ ↔ s.Meets κ := by simp [State.setPort]
@[simp] theorem State.meets_settlePort (p) : (s.settlePort p).Meets κ ↔ s.Meets κ := by
  unfold State.settlePort
  split <;> simp

@[simp] theorem State.meets_applyIdentity (p) : (s.applyIdentity p).Meets κ ↔ s.Meets κ := by simp [State.applyIdentity]
@[simp] theorem State.meets_applyIdentities : s.applyIdentities.Meets κ ↔ s.Meets κ := by simp [State.applyIdentities]
@[simp] theorem State.meets_portOff (p st reason) : (s.portOff p st reason).Meets κ ↔ s.Meets κ := by simp [State.portOff]
@[simp] theorem State.meets_portDown (p reason) : (s.portDown p reason).Meets κ ↔ s.Meets κ := by simp [State.portDown]
@[simp] theorem State.meets_assertBypass (i) : (s.assertBypass i).Meets κ ↔ s.Meets κ := by simp [State.assertBypass]
@[simp] theorem State.meets_pairLost (p reason) : (s.pairLost p reason).Meets κ ↔ s.Meets κ := by
  unfold State.pairLost
  split <;> simp

@[simp] theorem State.meets_pairBypass (i) : (s.pairBypass i).Meets κ ↔ s.Meets κ := by simp [State.pairBypass]
@[simp] theorem State.meets_startTraining (p) : (s.startTraining p).Meets κ ↔ s.Meets κ := by simp [State.startTraining]

@[simp] theorem State.meets_releaseBypass (i) : (s.releaseBypass i).Meets κ ↔ s.Meets κ := by
  unfold State.releaseBypass
  split
  extract_lets u wait
  have h (t : State) (p : Nat) : (wait t p).Meets κ ↔ t.Meets κ := by rw [State.meets_setPort, State.meets_onPort]
  rw [h, h]
  exact State.meets_onAon _ fun _ => by exact ⟨rfl, rfl⟩

@[simp] theorem State.meets_openRx (c) : (s.openRx c).1.Meets κ ↔ s.Meets κ := by
  unfold State.openRx
  split <;> simp

@[simp] theorem State.meets_recordWait (p w) : (s.recordWait p w).Meets κ ↔ s.Meets κ := by simp [State.recordWait]

/-! ## Ends of epochs -/

@[simp] theorem State.Meets.writeData (hs : s.Meets κ) (m off ws) : (s.writeData m off ws).Meets κ := by
  unfold State.writeData
  split
  · exact hs
  · exact hs.onMbx _ _ fun b hb => Inv.mem_writeBytes hb _ _
@[simp] theorem State.Meets.postEnds (hs : s.Meets κ) : s.postEnds.Meets κ := by
  unfold State.postEnds
  extract_lets done post ended t
  have ht : t.Meets κ := (State.meets_onKol _ fun _ => by rfl).2 hs
  refine ht.foldl _ (fun u e hu => ?_) _
  unfold post
  simp [hu]
@[simp] theorem State.Meets.endPart (hs : s.Meets κ) (q r aborted detail time) :
    (s.endPart q r aborted detail time).Meets κ := by simp [State.endPart, hs]

@[simp] theorem State.Meets.stopEpoch (hs : s.Meets κ) (q stop time) : (s.stopEpoch q stop time).Meets κ := by
  unfold State.stopEpoch
  split <;> simp [hs]

@[simp] theorem State.meets_sendAbort (d reason origin time) : (s.sendAbort d reason origin time).Meets κ ↔ s.Meets κ := by
  unfold State.sendAbort
  split <;> simp

@[simp] theorem State.meets_sendCounters (d) : (s.sendCounters d).Meets κ ↔ s.Meets κ := by simp [State.sendCounters]

@[simp] theorem State.meets_abortCoupler (d) : (s.abortCoupler d).Meets κ ↔ s.Meets κ := by
  unfold State.abortCoupler
  split
  · exact State.meets_onCoup _ fun _ => by rfl
  · rfl

@[simp] theorem State.meets_dropWork (d) : (s.dropWork d).Meets κ ↔ s.Meets κ := by simp [State.dropWork]
@[simp] theorem State.meets_abortEpoch (d reason remote) : (s.abortEpoch d reason remote).Meets κ ↔ s.Meets κ := by simp [State.abortEpoch]
@[simp] theorem State.meets_saveHalt (q) : (s.saveHalt q).Meets κ ↔ s.Meets κ := by
  unfold State.saveHalt
  split <;> simp

@[simp] theorem State.meets_runtimeHalt (q h) : (s.runtimeHalt q h).Meets κ ↔ s.Meets κ := by simp [State.runtimeHalt]
@[simp] theorem State.Meets.clearSheaves (hs : s.Meets κ) (d) : (s.clearSheaves d).Meets κ := by
  unfold State.clearSheaves
  exact hs.onCores _ fun _ hc => Inv.mem_clear hc _ _

@[simp] theorem State.Meets.rollbackComplete (hs : s.Meets κ) (d detail time) : (s.rollbackComplete d detail time).Meets κ := by
  unfold State.rollbackComplete
  dsimp only
  split
  · simp [hs]
  · split <;> simp [hs]

@[simp] theorem State.meets_sendRolled (d) : (s.sendRolled d).Meets κ ↔ s.Meets κ := by
  unfold State.sendRolled
  dsimp only
  split
  · simp
  · split <;> simp

@[simp] theorem State.Meets.rootCount (hs : s.Meets κ) (d) : (s.rootCount d).Meets κ := by simp [State.rootCount, hs]
@[simp] theorem State.meets_commitDecided (d) : (s.commitDecided d).Meets κ ↔ s.Meets κ := by simp [State.commitDecided]
@[simp] theorem State.meets_sendDecision (d value reason) : (s.sendDecision d value reason).Meets κ ↔ s.Meets κ := by
  unfold State.sendDecision
  split <;> simp

@[simp] theorem State.meets_settle (d commit reason from_) : (s.settle d commit reason from_).Meets κ ↔ s.Meets κ := by simp [State.settle]
@[simp] theorem State.meets_bumpKey (d k) : (s.bumpKey d k).Meets κ ↔ s.Meets κ := by simp [State.bumpKey]

@[simp] theorem State.meets_voteUp (d) : (s.voteUp d).Meets κ ↔ s.Meets κ := by
  unfold State.voteUp
  dsimp only
  split
  · simp
  · simp

@[simp] theorem State.meets_endCompleted (d) : (s.endCompleted d).Meets κ ↔ s.Meets κ := by simp [State.endCompleted]
@[simp] theorem State.meets_enterHalted : s.enterHalted.Meets κ ↔ s.Meets κ := by simp [State.enterHalted]
@[simp] theorem State.meets_haltDomain (d) : (s.haltDomain d).Meets κ ↔ s.Meets κ := by simp [State.haltDomain]
@[simp] theorem State.Meets.dropQueues (hs : s.Meets κ) : s.dropQueues.Meets κ := by
  unfold State.dropQueues
  extract_lets t u
  have hu : u.Meets κ := (State.meets_onKol _ fun _ => by rfl).2 (by simp [t, -State.meets_fields, hs])
  exact hu.foldl _ (fun _ r ht => ht.complete ..) _
@[simp] theorem State.Meets.fatalNow (hs : s.Meets κ) (code loc) (hc : code ≤ 32) : (s.fatalNow code loc).Meets κ := by
  unfold State.fatalNow
  extract_lets t
  have ht : t.Meets κ := hs.latchFatal code loc hc
  split
  · exact State.Meets.dropQueues ((State.meets_enterHalted).2 ((State.meets_foldl _ (fun _ _ => State.meets_haltDomain _) _ _).2 ht))
  · exact ht
@[simp] theorem State.meets_dropAllPorts : s.dropAllPorts.Meets κ ↔ s.Meets κ := by simp [State.dropAllPorts]
@[simp] theorem State.meets_boundaryHaltAt (code) : (s.boundaryHaltAt code).Meets κ ↔ s.Meets κ := by simp [State.boundaryHaltAt]
@[simp] theorem State.Meets.takeBoundaryHalt (hs : s.Meets κ) : s.takeBoundaryHalt.Meets κ := by simp [State.takeBoundaryHalt, hs]
@[simp] theorem State.meets_startEnd (reason) : (s.startEnd reason).Meets κ ↔ s.Meets κ := by simp [State.startEnd]
@[simp] theorem State.meets_startFail (reason loc) : (s.startFail reason loc).Meets κ ↔ s.Meets κ := by simp [State.startFail]
@[simp] theorem State.meets_startStop (reason) : (s.startStop reason).Meets κ ↔ s.Meets κ := by simp [State.startStop]

/-! ## Firmware halts and memory errors -/

@[simp] theorem State.Meets.recordFatal (hs : s.Meets κ) (reason) : (s.recordFatal reason).Meets κ := by
  unfold State.recordFatal
  split
  next pc t ht =>
  split
  next cause u hu =>
  obtain rfl : _ = t := congrArg Prod.snd ht
  obtain rfl : _ = u := congrArg Prod.snd hu
  extract_lets v e w
  have hv : v.Meets κ := (State.meets_onKol _ fun _ => by rfl).2 (State.meets_fresh.2 (State.meets_fresh.2 hs))
  have hw : w.Meets κ := by
    unfold w
    split
    · exact hv.onMbx _ _ fun b => b.mem_store e
    · exact hv
  exact (State.meets_onKol _ fun _ => by rfl).2 hw

@[simp] theorem State.Meets.firmwareHalt (hs : s.Meets κ) (reason) : (s.firmwareHalt reason).Meets κ := by
  unfold State.firmwareHalt
  extract_lets t
  have ht : t.Meets κ := hs.recordFatal reason
  split <;> simp [ht]

@[simp] theorem State.meets_memEvent (code l) : (s.memEvent code l).Meets κ ↔ s.Meets κ := by simp [State.memEvent]
@[simp] theorem State.meets_correctedWord (l) : (s.correctedWord l).Meets κ ↔ s.Meets κ := by simp [State.correctedWord]
@[simp] theorem State.meets_zeroedWord (l) : (s.zeroedWord l).Meets κ ↔ s.Meets κ := by simp [State.zeroedWord]
@[simp] theorem State.Meets.sramUe (hs : s.Meets κ) (l) : (s.sramUe l).Meets κ := by simp [State.sramUe, hs]
@[simp] theorem State.Meets.cmdUe (hs : s.Meets κ) (l bank a) : (s.cmdUe l bank a).Meets κ := by simp [State.cmdUe, hs]
@[simp] theorem State.Meets.ledgerUe (hs : s.Meets κ) (l a) : (s.ledgerUe l a).Meets κ := by simp [State.ledgerUe, hs]
@[simp] theorem State.Meets.tableUe (hs : s.Meets κ) (l a) : (s.tableUe l a).Meets κ := by simp [State.tableUe, hs]
@[simp] theorem State.meets_gleanerUe (a) : (s.gleanerUe a).Meets κ ↔ s.Meets κ := by simp [State.gleanerUe]
@[simp] theorem State.meets_mailboxUe (m) : (s.mailboxUe m).Meets κ ↔ s.Meets κ := by simp [State.mailboxUe]
@[simp] theorem State.Meets.uncorrectable (hs : s.Meets κ) (l) : (s.uncorrectable l).Meets κ := by
  unfold State.uncorrectable
  split <;> simp [hs]

@[simp] theorem State.Meets.uncorrectableOnce (hs : s.Meets κ) (l) : (s.uncorrectableOnce l).Meets κ := by simp [State.uncorrectableOnce, hs]
@[simp] theorem State.Meets.foundWord (hs : s.Meets κ) (l a) : (s.foundWord l a).Meets κ := by
  unfold State.foundWord
  split <;> simp [hs]

@[simp] theorem State.meets_coreCorrected (l) : (s.coreCorrected l).Meets κ ↔ s.Meets κ := by simp [State.coreCorrected]

@[simp] theorem State.meets_coreUe (q idx off l) : (s.coreUe q idx off l).Meets κ ↔ s.Meets κ := by
  unfold State.coreUe
  extract_lets k
  split
  · split
    · split <;> simp
    · rfl
  · next t _ _ =>
    have ht : t.Meets κ ↔ s.Meets κ := by
      unfold t
      split <;> simp
    rw [State.meets_event, State.meets_onCores _ fun _ => by rfl, ht]
  · rfl

@[simp] theorem State.Meets.takeHit (hs : s.Meets κ) (q idx off h) : (s.takeHit q idx off h).Meets κ := by
  unfold State.takeHit
  repeat' split
  all_goals simp [hs]

@[simp] theorem State.meets_takeDiff (q idx d) : (s.takeDiff q idx d).Meets κ ↔ s.Meets κ := by simp [State.takeDiff]

/-! ## Sends, deliveries and reductions -/

@[simp] theorem State.meets_emit (d p slot h payload) : (s.emit d p slot h payload).Meets κ ↔ s.Meets κ := by simp [State.emit]
@[simp] theorem State.meets_openOut (d i p) : (s.openOut d i p).1.Meets κ ↔ s.Meets κ := by
  unfold State.openOut
  split <;> simp

@[simp] theorem State.meets_sendData (d i c src t n efmt count payload) :
    (s.sendData d i c src t n efmt count payload).Meets κ ↔ s.Meets κ := by
  simp [State.sendData]

@[simp] theorem State.meets_sendBarrier (d c src t payload) :
    (s.sendBarrier d c src t payload).Meets κ ↔ s.Meets κ := by simp [State.sendBarrier]

@[simp] theorem State.meets_sendOwnBarrier (d c t) : (s.sendOwnBarrier d c t).Meets κ ↔ s.Meets κ := by simp [State.sendOwnBarrier]
@[simp] theorem State.meets_later (d t a) : (s.later d t a).Meets κ ↔ s.Meets κ := by simp [State.later]
@[simp] theorem State.Meets.countTally (hs : s.Meets κ) (d e n) : (s.countTally d e n).Meets κ := by simp [State.countTally, hs]
@[simp] theorem State.meets_deliver (d e t n payload) : (s.deliver d e t n payload).Meets κ ↔ s.Meets κ := by
  unfold State.deliver
  split <;> simp

@[simp] theorem State.meets_enqueue (d p i e t n payload) : (s.enqueue d p i e t n payload).Meets κ ↔ s.Meets κ := by simp [State.enqueue]
@[simp] theorem State.meets_deliverVia (d i c e t n payload) : (s.deliverVia d i c e t n payload).Meets κ ↔ s.Meets κ := by
  unfold State.deliverVia
  split <;> simp

@[simp] theorem State.Meets.deliverBarrier (hs : s.Meets κ) (d i c e) : (s.deliverBarrier d i c e).Meets κ := by simp [State.deliverBarrier, hs]

@[simp] theorem State.Meets.reduceOut (hs : s.Meets κ) (d i c x m ks) : (s.reduceOut d i c x m ks).Meets κ := by
  unfold State.reduceOut
  extract_lets els w payload target t
  have ht : t.Meets κ := (State.meets_onDom ..).2 hs
  cases target <;> simp [ht]

@[simp] theorem State.Meets.addTerm (hs : s.Meets κ) (d i c t term) : (s.addTerm d i c t term).Meets κ := by
  unfold State.addTerm
  extract_lets same old new t
  have ht : t.Meets κ := (State.meets_onDom ..).2 hs
  refine ht.foldl _ (fun u m hu => ?_) _
  split
  · exact hu.reduceOut ..
  · exact hu

@[simp] theorem State.Meets.addBarrier (hs : s.Meets κ) (d i c t src) : (s.addBarrier d i c t src).Meets κ := by
  unfold State.addBarrier
  extract_lets same old new u full
  have hu : u.Meets κ := (State.meets_onDom ..).2 hs
  split
  · split <;> simp [hu]
  · exact hu

@[simp] theorem State.meets_sendTransfer (e entry t stream owned) : (s.sendTransfer e entry t stream owned).Meets κ ↔ s.Meets κ := by
  simp [State.sendTransfer]

@[simp] theorem State.Meets.takeSend (hs : s.Meets κ) (d a) : (s.takeSend d a).Meets κ := by
  unfold State.takeSend
  extract_lets circ
  repeat' split
  all_goals simp [hs]

/-! ## Cycles pass -/

@[simp] theorem State.Meets.storeLine (hs : s.Meets κ) (d cells arrival) : (s.storeLine d cells arrival).Meets κ := by simp [State.storeLine, hs]
@[simp] theorem State.meets_leftWindow (d idx off pos stream line) : (s.leftWindow d idx off pos stream line).Meets κ ↔ s.Meets κ := by
  simp [State.leftWindow]

@[simp] theorem State.Meets.takeAct (hs : s.Meets κ) (d a) : (s.takeAct d a).Meets κ := by
  unfold State.takeAct
  split <;> simp [hs]

@[simp] theorem State.Meets.queueWrite (hs : s.Meets κ) (p t) : (s.queueWrite p t).Meets κ := by
  unfold State.queueWrite
  split
  · next w ws d _ _ =>
    extract_lets home t u
    have ht : t.Meets κ := by
      unfold t
      split
      · split <;> simp [hs]
      · exact hs
    have hu : u.Meets κ := by
      unfold u
      split
      · exact ht.storeLine ..
      · exact ht
    have hq (f) : (u.onPort p f).Meets κ := (State.meets_onPort ..).2 hu
    split
    · exact (State.meets_voteUp _).2 ((State.meets_bumpKey ..).2 ((hq _).countTally ..))
    · exact hq _
  · exact hs

@[simp] theorem State.Meets.takeDue (hs : s.Meets κ) (t port) : (s.takeDue t port).Meets κ := by
  unfold State.takeDue
  repeat' split
  all_goals simp [hs]

@[simp] theorem State.Meets.runTo {s : State} (hs : s.Meets κ) (n t : Nat) : (State.runTo n s t).Meets κ := by
  have hc (m : Nat) : (s.clock m).Meets κ := (State.meets_clock _).2 hs
  induction n generalizing s with
  | zero => exact hc _
  | succ n ih =>
    have hd (m c p) : ((s.clock m).takeDue c p).Meets κ := (hc m).takeDue c p
    unfold State.runTo
    split
    · split
      · exact ih (hd ..) fun m => (State.meets_clock _).2 (hd ..)
      · exact hc _
    · exact hc _

@[simp] theorem State.Meets.pass (hs : s.Meets κ) (n) : (s.pass n).Meets κ := by
  unfold State.pass
  split
  · split
    · exact (State.meets_clock n).2 hs
    · exact hs.runTo _ _
  · exact hs

@[simp] theorem State.Meets.until (hs : s.Meets κ) (t) : (s.until t).Meets κ := by simp [State.until, hs]
@[simp] theorem State.Meets.untilLocal (hs : s.Meets κ) (t) : (s.untilLocal t).Meets κ := by simp [State.untilLocal, hs]

/-! ## Cells of channels -/

@[simp] theorem State.meets_relayPoison (d u) : (s.relayPoison d u).Meets κ ↔ s.Meets κ := by
  unfold State.relayPoison
  split <;> simp

@[simp] theorem State.meets_countMissing (p) : (s.countMissing p).Meets κ ↔ s.Meets κ := by simp [State.countMissing]
@[simp] theorem State.meets_markSlot (d p slot) : (s.markSlot d p slot).Meets κ ↔ s.Meets κ := by simp [State.markSlot]
@[simp] theorem State.meets_slotMissing (d p slot u) : (s.slotMissing d p slot u).Meets κ ↔ s.Meets κ := by simp [State.slotMissing]
@[simp] theorem State.meets_slotPoisoned (d p slot) : (s.slotPoisoned d p slot).Meets κ ↔ s.Meets κ := by simp [State.slotPoisoned]
@[simp] theorem State.meets_rxFail (d p slot u x) : (s.rxFail d p slot u x).Meets κ ↔ s.Meets κ := by
  unfold State.rxFail
  split <;> simp

@[simp] theorem State.meets_openData (d i p g h payload) : (s.openData d i p g h payload).1.Meets κ ↔ s.Meets κ := by
  unfold State.openData
  split
  · extract_lets have_
    cases have_ with
    | some y => exact State.meets_onDom ..
    | none => exact (State.meets_onDom ..).trans (State.meets_onPort ..)
  · rfl

@[simp] theorem State.Meets.acceptData (hs : s.Meets κ) (d p u h n payload) : (s.acceptData d p u h n payload).Meets κ := by
  unfold State.acceptData
  extract_lets c
  have ho := (State.meets_openData (s := s) d u.idx p (c.gIn s.cfg) h payload).2 hs
  split
  next t clear heq =>
    rw [heq] at ho
    split
    · simp [ho]
    · split <;> simp [ho]
    · exact ho.addTerm ..
    · exact ho

/-! ## Ledger writes -/

@[simp] theorem State.Meets.writeEntry (hs : s.Meets κ) (i x) : (s.writeEntry i x).Meets κ := by simp [State.writeEntry, hs]
@[simp] theorem State.Meets.writeEntries (hs : s.Meets κ) (ws) : (s.writeEntries ws).Meets κ := by
  unfold State.writeEntries
  exact (State.meets_unarmIf _).2 (hs.foldl _ (fun _ _ ht => ht.writeEntry ..) _)

/-! ## Register reads -/

@[simp] theorem State.meets_respond (code data) : (s.respond code data).Meets κ ↔ s.Meets κ := by simp [State.respond]
@[simp] theorem State.meets_fillShadow (src a) : (s.fillShadow src a).Meets κ ↔ s.Meets κ := by
  unfold State.fillShadow
  split <;> simp

@[simp] theorem State.meets_advanceSel (a) : (s.advanceSel a).Meets κ ↔ s.Meets κ := by
  unfold State.advanceSel
  split
  · exact State.meets_onWin _
  · exact State.meets_onWin _
  · rfl

@[simp] theorem State.meets_regRead (src a) : (s.regRead src a).Meets κ ↔ s.Meets κ := by simp [State.regRead]

/-! ## Start-up and resets -/

@[simp] theorem State.Meets.keepOutside {t : State} (ht : t.Meets κ) (hs : s.Meets κ) : (State.keepOutside s t).Meets κ := by
  simp [State.keepOutside, hs, ht]

@[simp] theorem State.Meets.mainCleared (hs : s.Meets κ) (a : Aon) (ha : κ.line a.fatal a.alarmPulled) : (s.mainCleared a).Meets κ :=
  State.Meets.keepOutside (by simp [ha]) hs

@[simp] theorem State.meets_checkStrap (p) : (s.checkStrap p).Meets κ ↔ s.Meets κ := by simp [State.checkStrap]
@[simp] theorem State.Meets.ready (hs : s.Meets κ) : s.ready.Meets κ := by simp [State.ready, hs]
@[simp] theorem State.Meets.endPhase8 (hs : s.Meets κ) : s.endPhase8.Meets κ := by simp [State.endPhase8, hs]
@[simp] theorem State.Meets.startPhase8 (hs : s.Meets κ) : s.startPhase8.Meets κ := by simp [State.startPhase8, hs]
@[simp] theorem State.Meets.startPhase7 (hs : s.Meets κ) : s.startPhase7.Meets κ := by simp [State.startPhase7, hs]

@[simp] theorem State.Meets.startPhase4 (hs : s.Meets κ) : s.startPhase4.Meets κ := by
  unfold State.startPhase4
  extract_lets t u
  have ht : t.Meets κ := (State.meets_onBoot _).2 hs
  have hu : u.Meets κ := (State.meets_onAon _ fun _ => by exact ⟨rfl, rfl⟩).2 ((State.meets_onBoot _).2 ht)
  simp [ht, hu]

@[simp] theorem State.meets_bootGo : s.bootGo.Meets κ ↔ s.Meets κ := by simp [State.bootGo]

@[simp] theorem State.Meets.warmCleared (hs : s.Meets κ) : s.warmCleared.Meets κ :=
  State.Meets.keepOutside (by simp [hs]) hs

@[simp] theorem State.Meets.warmReset (hs : s.Meets κ) : s.warmReset.Meets κ := by
  have h := (State.meets_foldl State.haltDomain (fun _ _ => State.meets_haltDomain _) (List.range s.cfg.nSeq) s).2 hs
  exact h.warmCleared.startPhase4

@[simp] theorem meets_execPowerOn (hs : s.Meets κ) : Res.Meets κ (execPowerOn s) := by
  unfold execPowerOn
  split
  · exact (Res.meets_next _).2 ((State.meets_initial s.cfg).keepOutside hs)
  · exact (Res.meets_next _).2 hs

@[simp] theorem meets_execPowerOff (hs : s.Meets κ) : Res.Meets κ (execPowerOff s) :=
  (Res.meets_next _).2 (State.Meets.keepOutside (by simp) hs)

@[simp] theorem meets_execColdResetRelease (hs : s.Meets κ) (straps) : Res.Meets κ (execColdResetRelease straps s) := by
  unfold execColdResetRelease
  split <;> simp [hs]

@[simp] theorem meets_execMainResetAssert (hs : s.Meets κ) (pin) : Res.Meets κ (execMainResetAssert pin s) := by
  unfold execMainResetAssert
  split
  · exact (Res.meets_next _).2 (hs.mainCleared _ hs.line)
  · split <;> simp [hs]

@[simp] theorem State.meets_stopWork (d) : (s.stopWork d).Meets κ ↔ s.Meets κ := by simp [State.stopWork]
@[simp] theorem State.Meets.linkLossHalt (hs : s.Meets κ) : s.linkLossHalt.Meets κ := by simp [State.linkLossHalt, hs]
@[simp] theorem meets_execClockLoss (hs : s.Meets κ) : Res.Meets κ (execClockLoss s) := by
  unfold execClockLoss
  repeat' split
  all_goals simp [hs]

@[simp] theorem meets_execRefLoss (hs : s.Meets κ) : Res.Meets κ (execRefLoss s) := by
  unfold execRefLoss
  split <;> simp [hs]

@[simp] theorem meets_execImageAuthenticated (hs : s.Meets κ) (given) : Res.Meets κ (execImageAuthenticated given s) := by
  unfold execImageAuthenticated
  extract_lets t image u
  have ht : t.Meets κ := by simp [t, hs]
  have hu : u.Meets κ := (State.meets_onKol _ fun _ => by rfl).2 ht
  simp [hs, ht, hu]

@[simp] theorem meets_execBistDone (hs : s.Meets κ) (failed) : Res.Meets κ (execBistDone failed s) := by
  unfold execBistDone
  repeat' split
  all_goals simp [hs]

@[simp] theorem meets_execFuseReadAck (hs : s.Meets κ) (data err) : Res.Meets κ (execFuseReadAck data err s) := by
  unfold execFuseReadAck
  repeat' split
  all_goals simp [hs]

/-! ## Register writes -/

@[simp] theorem State.Meets.writePosMap (hs : s.Meets κ) (g data) : ∀ t, s.writePosMap g data = some t → t.Meets κ := by
  unfold State.writePosMap
  extract_lets k h n
  split
  · simp
  · rintro t ⟨⟩
    refine hs.onCores _ fun c hc => ?_
    rw [Cores.sheaves_setShadow]
    exact Cores.mem_setServe (by split_ifs <;> exact hc) _ _ _

@[simp] theorem State.Meets.writeMailbox (hs : s.Meets κ) (m off data) : (s.writeMailbox m off data).Meets κ := by
  unfold State.writeMailbox
  split
  · simp [Mailbox.setReqTail, hs]
  · simp [Mailbox.setCplHead, hs]
  · simp [hs]
  · simp [hs]
  · split
    · exact hs.onMbx _ _ fun b hb => Inv.mem_write64 hb _ _
    · exact hs

@[simp] theorem State.Meets.clearFatal (hs : s.Meets κ) (data) : (s.clearFatal data).Meets κ := by
  refine hs.onAon _ fun a ha e => ?_
  dsimp only
  rw [ha e]
  by_cases h : a.fatal = 0 <;> simp [h]
  exact fun _ => h
@[simp] theorem State.Meets.writeGleaner (hs : s.Meets κ) (off data) : (s.writeGleaner off data).Meets κ := by
  unfold State.writeGleaner
  split <;> simp [hs]

@[simp] theorem State.meets_writeThere (die m refused) : (s.writeThere die m refused).2.Meets κ ↔ s.Meets κ := by
  simp only [State.writeThere]
  split <;> simp

@[simp] theorem State.Meets.writePos (hs : s.Meets κ) (g data) : (s.writePos g data).2.Meets κ := by
  unfold State.writePos
  extract_lets n refused
  split
  · split
    next t h => exact hs.writePosMap _ _ t h
    · simp [hs]
  · split <;> simp [hs]

@[simp] theorem State.Meets.writeCmdData (hs : s.Meets κ) (data) : (s.writeCmdData data).2.Meets κ := by
  unfold State.writeCmdData
  extract_lets bank q t u
  split
  · simp [hs]
  · simp [u, t, hs]

@[simp] theorem State.Meets.writeTblData (hs : s.Meets κ) (data) : (s.writeTblData data).2.Meets κ := by
  unfold State.writeTblData
  split <;> simp [hs]

@[simp] theorem State.Meets.writeCoupler (hs : s.Meets κ) (off data) : (s.writeCoupler off data).2.Meets κ := by
  unfold State.writeCoupler
  split
  · split <;> simp [hs]
  · split
    · split
      · exact hs
      · extract_lets a v t
        have ht : t.Meets κ := hs.onCoup _ fun _ hc => Inv.mem_write64 hc _ _
        simp [ht]
    · exact hs

@[simp] theorem State.meets_writePortCtl (p data) : (s.writePortCtl p data).2.Meets κ ↔ s.Meets κ := by
  unfold State.writePortCtl
  extract_lets old lp ok lpbk t u
  split
  · simp
  · have hu : u.Meets κ ↔ s.Meets κ := by
      rw [State.meets_onPort]
      unfold t
      split <;> simp
    split
    · exact hu
    · rw [State.meets_pairLost, hu]

@[simp] theorem State.meets_writePairBypass (data) : (s.writePairBypass data).2.Meets κ ↔ s.Meets κ := by
  unfold State.writePairBypass
  split <;> simp

@[simp] theorem State.meets_writeJobWord (sel f) : (s.writeJobWord sel f).2.Meets κ ↔ s.Meets κ := by
  unfold State.writeJobWord
  repeat' split
  all_goals simp

@[simp] theorem State.meets_writeCirc (w data) : (s.writeCirc w data).2.Meets κ ↔ s.Meets κ := by simp [State.writeCirc]
@[simp] theorem State.meets_writeRoute (data) : (s.writeRoute data).2.Meets κ ↔ s.Meets κ := by simp [State.writeRoute]

@[simp] theorem State.Meets.writeLedgerWord (hs : s.Meets κ) (k data) : (s.writeLedgerWord k data).2.Meets κ := by
  unfold State.writeLedgerWord
  extract_lets i refused x
  split
  · simp [hs]
  · split <;> simp [hs]

@[simp] theorem State.Meets.writeExpert (hs : s.Meets κ) (id off data) : (s.writeExpert id off data).2.Meets κ := by
  unfold State.writeExpert
  split <;> simp [hs]

@[simp] theorem State.Meets.writeStartup (hs : s.Meets κ) (a data) : (s.writeStartup a data).2.Meets κ := by
  unfold State.writeStartup
  repeat' split
  all_goals simp [hs]

@[simp] theorem State.Meets.writeReg (hs : s.Meets κ) (a data) : (s.writeReg a data).2.Meets κ := by
  unfold State.writeReg
  split <;> simp [hs]

@[simp] theorem State.Meets.regWrite (hs : s.Meets κ) (src a data) :
    (s.regWrite src a data).Meets κ := by simp [State.regWrite, hs]

@[simp] theorem meets_portRequest (hs : s.Meets κ) (t) (h : t.Meets κ) : Res.Meets κ (portRequest s t) :=
  meets_whenTrue hs _ t h

/-! ## Ronno requests -/

@[simp] theorem State.meets_take (r) : (s.take r).Meets κ ↔ s.Meets κ := by simp [State.take]
@[simp] theorem State.Meets.answer (hs : s.Meets κ) (r code) : (s.answer r code).Meets κ := by simp [State.answer, hs]
@[simp] theorem meets_ronno (hs : s.Meets κ) (m : Nat) (pick : State → Req → Bool) (run : Req → State → State)
    (hrun : ∀ r t, t.Meets κ → (run r t).Meets κ) : Res.Meets κ (ronno m pick run s) := by
  simp [ronno, hrun, hs]

@[simp] theorem meets_ronnoEntry (hs : s.Meets κ) (m : Nat) (pick : State → Req → Bool) (run : Req → State → State) (add : Req → State → State)
    (hrun : ∀ r t, t.Meets κ → (run r t).Meets κ) (hadd : ∀ r t, t.Meets κ → (add r t).Meets κ) :
    Res.Meets κ (ronnoEntry m pick run add s) := by
  unfold ronnoEntry
  split
  · exact meets_whenTrue hs _ _ (hadd _ _ hs)
  · exact meets_ronno hs m pick run hrun

@[simp] theorem meets_runEcho (hs : s.Meets κ) (r) : (runEcho r s).Meets κ := by simp [runEcho, hs]
@[simp] theorem meets_runStatus (hs : s.Meets κ) (r) : (runStatus r s).Meets κ := by simp [runStatus, hs]
@[simp] theorem meets_runMbxConfig (hs : s.Meets κ) (r) : (runMbxConfig r s).Meets κ := by simp [runMbxConfig, hs]
@[simp] theorem meets_runProgBegin (hs : s.Meets κ) (r) : (runProgBegin r s).Meets κ := by simp [runProgBegin, hs]

@[simp] theorem meets_runProgChunk (hs : s.Meets κ) (r) : (runProgChunk r s).Meets κ := by
  unfold runProgChunk
  extract_lets q off src n code
  split
  · exact hs.answer ..
  · split
    · exact hs.answer ..
    · split
      · exact hs.answer ..
      · split
        · exact hs.answer ..
        · have hu (bs : Bytes) (a : Nat) : State.Meets { s with cmdMem := s.cmdMem.writeBytes a bs } κ := by simp [hs]
          exact State.Meets.answer ((State.meets_onSeq ..).2 (hu ..)) ..

@[simp] theorem State.meets_queueRelease (r q start epoch stopAt snap) : (s.queueRelease r q start epoch stopAt snap).Meets κ ↔ s.Meets κ := by
  simp [State.queueRelease]

@[simp] theorem State.meets_stall : s.stall.Meets κ ↔ s.Meets κ := by simp [State.stall]
@[simp] theorem State.meets_queueEpoch (r mask start stopAt snap) : (s.queueEpoch r mask start stopAt snap).Meets κ ↔ s.Meets κ := by
  simp [State.queueEpoch]

@[simp] theorem State.meets_queueRun (r) : (s.queueRun r).Meets κ ↔ s.Meets κ := by simp [State.queueRun]
@[simp] theorem State.meets_queuePrefix (r) : (s.queuePrefix r).Meets κ ↔ s.Meets κ := by simp [State.queuePrefix]
@[simp] theorem meets_runEpochRun (hs : s.Meets κ) (r) : (runEpochRun r s).Meets κ := by simp [runEpochRun, hs]
@[simp] theorem meets_runRunPrefix (hs : s.Meets κ) (r) : (runRunPrefix r s).Meets κ := by simp [runRunPrefix, hs]

@[simp] theorem State.Meets.answerRelease (hs : s.Meets κ) (start mbox tag) : (s.answerRelease start mbox tag).Meets κ := by
  unfold State.answerRelease
  extract_lets t
  have ht : t.Meets κ := (State.meets_onKol _ fun _ => by rfl).2 hs
  split
  · exact ht.complete ..
  · exact ht

@[simp] theorem State.Meets.discardRelease (hs : s.Meets κ) (start mbox tag which reason) :
    (s.discardRelease start mbox tag which reason).Meets κ := by
  simp [State.discardRelease, hs]

@[simp] theorem State.Meets.takeAbort (hs : s.Meets κ) (q) : (s.takeAbort q).Meets κ := by
  unfold State.takeAbort
  extract_lets x
  split
  · exact State.Meets.discardRelease ((State.meets_onSeq ..).2 hs) ..
  · split <;> simp [hs]

@[simp] theorem meets_runEpochAbort (hs : s.Meets κ) (r) : (runEpochAbort r s).Meets κ := by
  unfold runEpochAbort
  extract_lets mask code
  split
  · exact hs.answer ..
  · exact (hs.foldl _ (fun _ q ht => ht.takeAbort q) _).answer ..

@[simp] theorem meets_runTableLoad (hs : s.Meets κ) (r) : (runTableLoad r s).Meets κ := by
  unfold runTableLoad
  extract_lets t off bs u
  have hu : u.Meets κ := by simp [u, hs]
  simp [hs, hu]

@[simp] theorem State.Meets.writeEverywhere (hs : s.Meets κ) (ws) : (s.writeEverywhere ws).Meets κ := by simp [State.writeEverywhere, hs]
@[simp] theorem meets_runLedgerSet (hs : s.Meets κ) (r) : (runLedgerSet r s).Meets κ := by simp [runLedgerSet, hs]
@[simp] theorem meets_runMaintEnter (hs : s.Meets κ) (r) : (runMaintEnter r s).Meets κ := by simp [runMaintEnter, hs]
@[simp] theorem meets_runMaintLeave (hs : s.Meets κ) (r) : (runMaintLeave r s).Meets κ := by simp [runMaintLeave, hs]
@[simp] theorem meets_runBreakSet (hs : s.Meets κ) (r) : (runBreakSet r s).Meets κ := by simp [runBreakSet, hs]

/-! ## Firmware, alarms and the patrol -/

@[simp] theorem meets_execWatchdog (hs : s.Meets κ) : Res.Meets κ (execWatchdog s) := by
  unfold execWatchdog
  split
  · extract_lets t
    have ht : t.Meets κ := hs.untilLocal _
    unfold whenTrue
    split <;> simp [ht]
  · simp [hs]

@[simp] theorem meets_execWindowUnderflowTrap (hs : s.Meets κ) : Res.Meets κ (execWindowUnderflowTrap s) := by
  unfold execWindowUnderflowTrap
  extract_lets k
  split
  · split
    · simp [hs]
    · split <;> simp [hs]
  · simp [hs]

@[simp] theorem State.meets_reading (sensor v) : (s.reading sensor v).Meets κ ↔ s.Meets κ := by simp [State.reading]
@[simp] theorem State.meets_thermWarned (sensor v) : (s.thermWarned sensor v).Meets κ ↔ s.Meets κ := by simp [State.thermWarned]
@[simp] theorem State.Meets.thermTrip (hs : s.Meets κ) : s.thermTrip.Meets κ := by simp [State.thermTrip, hs]

/-! ## Releases and completions -/

@[simp] theorem State.Meets.checkStop (hs : s.Meets κ) (q) : (s.checkStop q).Meets κ := by
  unfold State.checkStop
  split <;> simp [hs]

@[simp] theorem State.Meets.releaseEpoch (hs : s.Meets κ) (q start epoch stopAt snap mbox tag) :
    (s.releaseEpoch q start epoch stopAt snap mbox tag).Meets κ := by
  unfold State.releaseEpoch
  extract_lets brk changes t u v w x r r'
  have hu : u.Meets κ := State.Meets.answerRelease ((State.meets_onSeq ..).2 hs) ..
  have hv : v.Meets κ := (State.meets_onDom ..).2 hu
  have hw : w.Meets κ := by simp [w, hv]
  have hx : x.Meets κ := (hw.zeroTallies _).clearSheaves q
  simp [hx]

@[simp] theorem meets_execEpochRelease (hs : s.Meets κ) (q) : Res.Meets κ (execEpochRelease q s) := by
  unfold execEpochRelease
  split
  · exact meets_whenTrue hs _ _ ((hs.until _).releaseEpoch ..)
  · exact (Res.meets_next _).2 hs

@[simp] theorem State.Meets.storeOuts (hs : s.Meets κ) (q e c ct cos) : (s.storeOuts q e c ct cos).Meets κ := by
  unfold State.storeOuts
  refine hs.foldl _ (fun t x ht => ?_) _
  split
  extract_lets u
  have hu : u.Meets κ := by
    unfold u
    split
    · exact (State.meets_foldl _ (fun _ _ => State.meets_later ..) _ _).2 ht
    · exact ht
  split
  · split
    · exact hu.onCores _ fun _ hc => by exact Inv.mem_writeBits hc _
    · exact hu
  · exact hu

@[simp] theorem State.meets_sendOuts (e t c cos) : (s.sendOuts e t c cos).Meets κ ↔ s.Meets κ := by
  unfold State.sendOuts
  split <;> simp

@[simp] theorem State.meets_presentBeats (q r e c ct cos) : (s.presentBeats q r e c ct cos).Meets κ ↔ s.Meets κ := by
  unfold State.presentBeats
  split <;> simp

@[simp] theorem State.meets_statusOf (e c cos) : (s.statusOf e c cos).1.Meets κ ↔ s.Meets κ := by
  unfold State.statusOf
  split <;> simp

@[simp] theorem State.meets_predValue (e c cos) : (s.predValue e c cos).1.Meets κ ↔ s.Meets κ := by
  unfold State.predValue
  split
  · split
    · split <;> simp
    · rfl
  · rfl

@[simp] theorem State.meets_meet (q c inp) : (s.meet q c inp).Meets κ ↔ s.Meets κ := by simp [State.meet]
@[simp] theorem State.meets_sendEmpty (e t c) : (s.sendEmpty e t c).Meets κ ↔ s.Meets κ := by
  unfold State.sendEmpty
  split <;> simp

@[simp] theorem State.Meets.computeAt (hs : s.Meets κ) (q r e c ct inp) : (s.computeAt q r e c ct inp).Meets κ := by simp [State.computeAt, hs]
@[simp] theorem State.meets_sendBundle (q c release) : (s.sendBundle q c release).Meets κ ↔ s.Meets κ := by simp [State.sendBundle]

@[simp] theorem State.meets_swapProgram (q e c) : (s.swapProgram q e c).Meets κ ↔ s.Meets κ := by
  unfold State.swapProgram
  extract_lets swap t
  have ht : t.Meets κ ↔ s.Meets κ := State.meets_onSeq ..
  split
  · rw [State.meets_onRun, ht]
  · exact ht

@[simp] theorem State.Meets.releaseCmd (hs : s.Meets κ) (q r e c t ct inp) : (s.releaseCmd q r e c t ct inp).Meets κ := by
  unfold State.releaseCmd
  extract_lets time t
  have ht : t.Meets κ := hs.until _
  split
  · exact ht
  · split
    · exact ht
    · split
      · exact (State.meets_runtimeHalt ..).2 ht
      · split
        · exact (State.meets_runtimeHalt ..).2 ht
        · next v _ w _ _ _ _ _ _ =>
          have hv : v.Meets κ := (State.meets_onRun ..).2 ((State.meets_onSeq ..).2 ((State.meets_sendBundle ..).2 ht))
          split
          · exact hv.computeAt ..
          · have hw : w.Meets κ := (State.meets_onRun ..).2 hv
            split
            · exact (State.meets_swapProgram ..).2 hw
            · exact hw

@[simp] theorem State.Meets.releaseKind (hs : s.Meets κ) (q kind inp) : (s.releaseKind q kind inp).Meets κ := by
  unfold State.releaseKind
  repeat' split
  all_goals simp [hs]

@[simp] theorem meets_execTallyWaitWindowEnd (hs : s.Meets κ) (q) : Res.Meets κ (execTallyWaitWindowEnd q s) := by
  unfold execTallyWaitWindowEnd
  split <;> simp [hs]

@[simp] theorem State.Meets.advance (hs : s.Meets κ) (q i n) : (s.advance q i n).Meets κ := by simp [State.advance, hs]
@[simp] theorem State.Meets.retierHead (hs : s.Meets κ) (i lim) : (s.retierHead i lim).Meets κ := by simp [State.retierHead, hs]
@[simp] theorem State.meets_traceCmd (q f) : (s.traceCmd q f).Meets κ ↔ s.Meets κ := by simp [State.traceCmd]
@[simp] theorem State.Meets.completeCmd (hs : s.Meets κ) (q r f) : (s.completeCmd q r f).Meets κ := by
  unfold State.completeCmd
  extract_lets t u v w x y z
  have ht : t.Meets κ := hs.until _
  split
  · exact ht
  · have hv : v.Meets κ := (State.meets_onCores _ fun _ => by rfl).2 ((State.meets_onRun ..).2 ht)
    have hx : x.Meets κ := State.Meets.foldl ((State.meets_onSeq ..).2 hv) _ (fun _ _ h => h.advance ..) _
    have hy : y.Meets κ := hx.foldl _ (fun _ _ h => h.retierHead ..) _
    have hz : z.Meets κ := (State.meets_traceCmd ..).2 hy
    split
    · exact (State.meets_endCompleted _).2 hz
    · exact hz.checkStop _
@[simp] theorem meets_execCommandCompletion (hs : s.Meets κ) (q) : Res.Meets κ (execCommandCompletion q s) := by
  unfold execCommandCompletion
  repeat' split
  all_goals simp [hs]

@[simp] theorem State.meets_spStall (q g line chan) : (s.spStall q g line chan).Meets κ ↔ s.Meets κ := by simp [State.spStall]
@[simp] theorem State.meets_lineSlip (q idx off g line chan detail stamp) :
    (s.lineSlip q idx off g line chan detail stamp).Meets κ ↔ s.Meets κ := by
  simp [State.lineSlip]

@[simp] theorem State.meets_haltNow (q : Nat) (act : State → State) (hact : ∀ t, (act t).Meets κ ↔ t.Meets κ) :
    (s.haltNow q act).Meets κ ↔ s.Meets κ := by
  simp [State.haltNow, hact]

@[simp] theorem State.meets_takeLine (q x poison) : (s.takeLine q x poison).Meets κ ↔ s.Meets κ := by simp [State.takeLine]
@[simp] theorem State.Meets.lineData (hs : s.Meets κ) (q r g chan line time poison) : (s.lineData q r g chan line time poison).Meets κ := by
  unfold State.lineData
  split <;> simp [hs]

@[simp] theorem meets_execSpReadData (hs : s.Meets κ) (q pos chan line time poison) :
    Res.Meets κ (execSpReadData q pos chan line time poison s) := by
  unfold execSpReadData
  split <;> simp [hs]

@[simp] theorem State.Meets.refuseStore (hs : s.Meets κ) (q r pos line) : (s.refuseStore q r pos line).Meets κ := by
  unfold State.refuseStore
  split <;> simp [hs]

@[simp] theorem meets_execLineStampExpiry (hs : s.Meets κ) (q pos chan line refused) :
    Res.Meets κ (execLineStampExpiry q pos chan line refused s) := by
  unfold execLineStampExpiry
  repeat' split
  all_goals simp [hs]

/-! ## Slots of received cells -/

@[simp] theorem State.meets_badCell (p) : (s.badCell p).Meets κ ↔ s.Meets κ := by simp [State.badCell]
@[simp] theorem State.Meets.arrive (hs : s.Meets κ) (p slot) : (s.arrive p slot).Meets κ := by simp [State.arrive, hs]
@[simp] theorem State.Meets.avail (hs : s.Meets κ) (p slot) : (s.avail p slot).Meets κ := by simp [State.avail, hs]
@[simp] theorem State.meets_sendAck (p negative) : (s.sendAck p negative).Meets κ ↔ s.Meets κ := by simp [State.sendAck]

@[simp] theorem State.meets_fedLost : s.fedLost.Meets κ ↔ s.Meets κ := by
  unfold State.fedLost
  refine State.meets_foldl _ (fun t q => ?_) _ _
  split
  · simp
  · rfl

@[simp] theorem State.meets_poisonAt (p slot) : (s.poisonAt p slot).Meets κ ↔ s.Meets κ := by
  unfold State.poisonAt
  repeat' split
  all_goals simp

@[simp] theorem State.meets_slotSeen (p slot) : (s.slotSeen p slot).Meets κ ↔ s.Meets κ := by
  unfold State.slotSeen
  split <;> simp

@[simp] theorem meets_slotRow (hs : s.Meets κ) (c : RxCell) (isType : CellHdr → Bytes → Bool) (act : CellHdr → Bytes → State → State)
    (hact : ∀ hdr pay t, t.Meets κ → (act hdr pay t).Meets κ) : Res.Meets κ (slotRow c isType act s) := by
  unfold slotRow
  split
  · extract_lets t
    have ht : (t.openRx c).1.Meets κ := (State.meets_openRx _).2 (hs.arrive ..)
    split
    · next u h =>
      rw [h] at ht
      simp [ht]
    · next u hdr pay h =>
      rw [h] at ht
      split
      · exact (Res.meets_next _).2 (hact _ _ _ (by simp [ht]))
      · exact (Res.meets_next _).2 hs
  · exact (Res.meets_next _).2 hs

@[simp] theorem State.meets_stray (p slot count) : (s.stray p slot count).Meets κ ↔ s.Meets κ := by
  unfold State.stray
  repeat' split
  all_goals simp

@[simp] theorem meets_linkRow (hs : s.Meets κ) (c : RxCell) (isType : CellHdr → Bytes → Bool) (act : CellHdr → Bytes → State → State)
    (hact : ∀ hdr pay t, t.Meets κ → (act hdr pay t).Meets κ) : Res.Meets κ (linkRow c isType act s) := by
  unfold linkRow
  refine meets_slotRow hs _ _ _ fun hdr pay t ht => ?_
  split
  · split
    · exact (State.meets_stray ..).2 ht
    · exact hact hdr pay t ht
  · exact hact hdr pay t ht

/-! ## Wiring, identity and synchronisation -/

@[simp] theorem State.meets_checkWiring (ws p) : (s.checkWiring ws p).1.Meets κ ↔ s.Meets κ := by
  unfold State.checkWiring
  extract_lets w q
  split
  · split
    · exact State.meets_pairLost ..
    · split
      · exact State.meets_pairLost ..
      · rfl
  · rfl

@[simp] theorem State.meets_checkAllWiring (ws) : (s.checkAllWiring ws).1.Meets κ ↔ s.Meets κ := by
  unfold State.checkAllWiring
  refine State.meets_foldl_fst _ ?_ _ _
  exact fun x p => State.meets_checkWiring (s := x.1) ws p

@[simp] theorem State.meets_sendTrainTime (p) : (s.sendTrainTime p).Meets κ ↔ s.Meets κ := by simp [State.sendTrainTime]
@[simp] theorem State.meets_spreadSync (number target) : (s.spreadSync number target).Meets κ ↔ s.Meets κ := by simp [State.spreadSync]
@[simp] theorem State.meets_startSync (lead) : (s.startSync lead).Meets κ ↔ s.Meets κ := by simp [State.startSync]
@[simp] theorem State.meets_installWiring (ws) : (s.installWiring ws).Meets κ ↔ s.Meets κ := by simp [State.installWiring]

@[simp] theorem State.Meets.finishWiring (hs : s.Meets κ) (r) : (s.finishWiring r).Meets κ := by
  unfold State.finishWiring
  extract_lets d ws
  have h := (State.meets_checkAllWiring (s := s) ws).2 hs
  split
  next t bad heq =>
    rw [heq] at h
    split <;> simp [h]

@[simp] theorem State.meets_retrain (p) : (s.retrain p).Meets κ ↔ s.Meets κ := by
  unfold State.retrain
  split <;> simp

@[simp] theorem State.Meets.lastWiring (hs : s.Meets κ) (r) : (s.lastWiring r).Meets κ := by
  unfold State.lastWiring
  simp [hs]
@[simp] theorem State.Meets.bypassDone (hs : s.Meets κ) (r i) : (s.bypassDone r i).Meets κ := by simp [State.bypassDone, hs]
@[simp] theorem meets_runPortBypass (hs : s.Meets κ) (r) : (runPortBypass r s).Meets κ := by simp [runPortBypass, hs]

@[simp] theorem State.Meets.trainingEnded (hs : s.Meets κ) : s.trainingEnded.Meets κ := by
  unfold State.trainingEnded
  extract_lets t
  have ht : t.Meets κ := hs.endPhase8
  repeat' split
  all_goals simp [ht]

/-! ## Training -/

@[simp] theorem State.Meets.trainFail (hs : s.Meets κ) (p reason) : (s.trainFail p reason).Meets κ := by simp [State.trainFail, hs]
@[simp] theorem State.meets_goodCell (p) : (s.goodCell p).Meets κ ↔ s.Meets κ := by simp [State.goodCell]
@[simp] theorem State.meets_keepPartner (p x) : (s.keepPartner p x).Meets κ ↔ s.Meets κ := by simp [State.keepPartner]
@[simp] theorem State.Meets.gotTrainId (hs : s.Meets κ) (p x) : (s.gotTrainId p x).Meets κ := by simp [State.gotTrainId, hs]
@[simp] theorem meets_takeTrainId (hs : s.Meets κ) (c) : Res.Meets κ (takeTrainId c s) :=
  meets_linkRow hs _ _ _ fun _ _ _ ht => ht.gotTrainId ..
@[simp] theorem State.meets_countCalib (p c) : (s.countCalib p c).Meets κ ↔ s.Meets κ := by simp [State.countCalib]
@[simp] theorem State.meets_setPad (p) : (s.setPad p).Meets κ ↔ s.Meets κ := by simp [State.setPad]
@[simp] theorem State.meets_keepCalib (p c) : (s.keepCalib p c).Meets κ ↔ s.Meets κ := by simp [State.keepCalib]
@[simp] theorem State.meets_sendTrainDone (p) : (s.sendTrainDone p).Meets κ ↔ s.Meets κ := by simp [State.sendTrainDone]
@[simp] theorem State.meets_calibrated (p c) : (s.calibrated p c).Meets κ ↔ s.Meets κ := by simp [State.calibrated]
@[simp] theorem State.meets_recalibrated (p c) : (s.recalibrated p c).Meets κ ↔ s.Meets κ := by simp [State.recalibrated]
@[simp] theorem State.Meets.gotTrip (hs : s.Meets κ) (p c) : (s.gotTrip p c).Meets κ := by
  unfold State.gotTrip
  split
  · split <;> simp [hs]
  · simp [hs]

@[simp] theorem State.Meets.gotTrainTime (hs : s.Meets κ) (p tRx pay) : (s.gotTrainTime p tRx pay).Meets κ := by
  unfold State.gotTrainTime
  extract_lets tTx echo rx t u v dOut dIn w
  have hu : u.Meets κ := (State.meets_onPort ..).2 (hs.untilLocal _)
  have hv : v.Meets κ := by simp [v, hu]
  have hw : w.Meets κ := by simp [w, hv]
  simp [hw]

@[simp] theorem State.Meets.gotTrainDone (hs : s.Meets κ) (p code) : (s.gotTrainDone p code).Meets κ := by
  unfold State.gotTrainDone
  split
  · split
    · extract_lets t
      have ht : t.Meets κ := by simp [t, hs]
      exact State.Meets.trainingEnded ((State.meets_onPort ..).2 ((State.meets_settlePort _).2 ht))
    · exact hs.trainFail ..
  · exact hs
@[simp] theorem meets_execTrainDone (hs : s.Meets κ) (c) : Res.Meets κ (execTrainDone c s) :=
  meets_linkRow hs _ _ _ fun _ _ _ ht => ht.gotTrainDone ..
@[simp] theorem meets_execPortLoss (hs : s.Meets κ) (port cause) : Res.Meets κ (execPortLoss port cause s) := by
  unfold execPortLoss
  split <;> simp [hs]

/-! ## Scheduled cells -/

@[simp] theorem meets_takePoison (hs : s.Meets κ) (port slot) : Res.Meets κ (takePoison port slot s) := by simp [takePoison, hs]
@[simp] theorem State.Meets.controlMissing (hs : s.Meets κ) (d p slot) : (s.controlMissing d p slot).Meets κ := by simp [State.controlMissing, hs]
@[simp] theorem meets_execCellStampExpiry (hs : s.Meets κ) (port slot) : Res.Meets κ (execCellStampExpiry port slot s) := by
  unfold execCellStampExpiry
  repeat' split
  all_goals simp [hs]

@[simp] theorem meets_takeReserved (hs : s.Meets κ) (c) : Res.Meets κ (takeReserved c s) := by simp [takeReserved, hs]

@[simp] theorem meets_takeIdle (hs : s.Meets κ) (c) : Res.Meets κ (takeIdle c s) := by
  refine meets_slotRow hs _ _ _ fun hdr pay t ht => ?_
  extract_lets u
  have hu : u.Meets κ := (State.meets_goodCell _).2 ht
  split
  · split
    · exact (State.meets_slotMissing ..).2 hu
    · exact hu
  · exact hu

@[simp] theorem State.Meets.slipAt (hs : s.Meets κ) (d p slot core wait) : (s.slipAt d p slot core wait).Meets κ := by simp [State.slipAt, hs]
@[simp] theorem State.Meets.cellSlip (hs : s.Meets κ) (d p slot u wait) : (s.cellSlip d p slot u wait).Meets κ := by simp [State.cellSlip, hs]
@[simp] theorem State.Meets.elasticData (hs : s.Meets κ) (d p slot u h n pay) :
    (s.elasticData d p slot u h n pay).Meets κ := by simp [State.elasticData, hs]

@[simp] theorem State.meets_strayElastic (d p h) : (s.strayElastic d p h).Meets κ ↔ s.Meets κ := by simp [State.strayElastic]
@[simp] theorem State.Meets.chanCell (hs : s.Meets κ) (c : RxCell) (h : CellHdr) (act : Nat → SlotUse → State → State)
    (hact : ∀ d u t, t.Meets κ → (act d u t).Meets κ) : (s.chanCell c h act).Meets κ := by
  unfold State.chanCell
  repeat' split
  all_goals simp [hact, hs]

theorem State.Meets.checked (hs : s.Meets κ) (d : Nat) (c : RxCell) (u : SlotUse) (h : CellHdr) (data : Bool) (n : Nat) (seq : Option Nat)
    (act : State → State) (hact : ∀ t, t.Meets κ → (act t).Meets κ) : (s.checked d c u h data n seq act).Meets κ := by
  unfold State.checked
  split
  · exact (State.meets_voteUp _).2 (hact _ ((State.meets_markSlot ..).2 hs))
  · exact (State.meets_rxFail ..).2 hs

@[simp] theorem meets_takeData (hs : s.Meets κ) (c) : Res.Meets κ (takeData c s) := by
  refine meets_slotRow hs _ _ _ fun hdr pay t ht => ht.chanCell _ _ _ fun d u t ht => ?_
  extract_lets g o n
  split
  · exact (State.meets_slotMissing ..).2 ht
  · exact ht.checked _ _ _ _ _ _ _ _ fun t ht => by split <;> simp [ht]

@[simp] theorem State.meets_tagFail (d p slot) : (s.tagFail d p slot).Meets κ ↔ s.Meets κ := by simp [State.tagFail]

@[simp] theorem meets_takeTag (hs : s.Meets κ) (c) : Res.Meets κ (takeTag c s) := by
  refine meets_slotRow hs _ _ _ fun hdr pay t ht => ht.chanCell _ _ _ fun d u t ht => ?_
  split
  · exact (State.meets_slotMissing ..).2 ht
  · refine ht.checked _ _ _ _ _ _ _ _ fun t ht => ?_
    split
    · split <;> simp [ht]
    · exact (State.meets_tagFail ..).2 ht

@[simp] theorem meets_takeChannelBarrier (hs : s.Meets κ) (c) : Res.Meets κ (takeChannelBarrier c s) := by
  refine meets_slotRow hs _ _ _ fun hdr pay t ht => ht.chanCell _ _ _ fun d u t ht =>
    ht.checked _ _ _ _ _ _ _ _ fun t ht => ?_
  extract_lets k v
  split
  · exact (State.meets_abortEpoch ..).2 ht
  · have hv : v.Meets κ := by simp [v, ht]
    split
    · exact hv.deliverBarrier ..
    · split <;> simp [hv]
    · exact hv.addBarrier ..
    · exact hv

@[simp] theorem State.Meets.controlCell (hs : s.Meets κ) (c : RxCell) (h : CellHdr) (act : Nat → State → State)
    (hact : ∀ d t, t.Meets κ → (act d t).Meets κ) :
    (s.controlCell c h act).Meets κ := by
  unfold State.controlCell
  split <;> simp [hact, hs]

@[simp] theorem State.Meets.barrierCell (hs : s.Meets κ) (c : RxCell) (h : CellHdr) (pay : Bytes) (act : Nat → State → State)
    (hact : ∀ d t, t.Meets κ → (act d t).Meets κ) : (s.barrierCell c h pay act).Meets κ := by
  refine hs.controlCell _ _ _ fun d t ht => ?_
  repeat' split
  · exact ht
  · exact (State.meets_abortEpoch ..).2 ht
  · exact hact d t ht

@[simp] theorem meets_takeAbortCell (hs : s.Meets κ) (c) : Res.Meets κ (takeAbortCell c s) :=
  meets_slotRow hs _ _ _ fun _ _ _ ht => ht.controlCell _ _ _ fun _ _ ht => (State.meets_abortEpoch ..).2 ht
@[simp] theorem meets_takeVote (hs : s.Meets κ) (c) : Res.Meets κ (takeVote c s) :=
  meets_slotRow hs _ _ _ fun _ _ _ ht => ht.barrierCell _ _ _ _ fun _ _ ht => by simp [ht]

@[simp] theorem meets_takeDecision (hs : s.Meets κ) (c) : Res.Meets κ (takeDecision c s) := by
  refine meets_slotRow hs _ _ _ fun hdr pay t ht => ht.barrierCell _ _ _ _ fun d t ht => ?_
  split
  · split
    · exact (State.meets_countMissing ..).2 ht
    · next j _ _ =>
      extract_lets u
      have hu : u.Meets κ := (State.meets_foldl _ (fun _ _ => State.meets_sendControl ..) _ _).2 ht
      split <;> simp [hu]
  · exact (State.meets_countMissing ..).2 ht

@[simp] theorem State.meets_bundleWhole (q slot epoch bytes) : (s.bundleWhole q slot epoch bytes).Meets κ ↔ s.Meets κ := by
  unfold State.bundleWhole
  extract_lets x
  split
  · exact State.meets_onSeq ..
  · split <;> simp

@[simp] theorem State.meets_bundleCell (q slot h pay) : (s.bundleCell q slot h pay).Meets κ ↔ s.Meets κ := by simp [State.bundleCell]

@[simp] theorem meets_takeBundleCell (hs : s.Meets κ) (c) : Res.Meets κ (takeBundleCell c s) := by
  refine meets_slotRow hs _ _ _ fun hdr pay t ht => ?_
  split
  · split <;> simp [ht]
  · exact (State.meets_stray ..).2 ht

/-! ## Commit and rollback -/

@[simp] theorem State.Meets.finishCommit (hs : s.Meets κ) (d) : (s.finishCommit d).Meets κ := by
  unfold State.finishCommit
  have hm : κ.mem ((s.keepEntries d).foldl (fun a e => s.copyEntry d a e) (s.sp, none)).1 :=
    Inv.mem_foldl_fst _ (fun a e ha => Inv.mem_copyEntry s d a e ha) _ (s.sp, none) hs.sp
  split
  next m last heq =>
    rw [heq] at hm
    extract_lets t u v w
    have hu : u.Meets κ := State.Meets.until (by simp [hs, hm]) _
    have hw : w.Meets κ := (State.meets_onDom ..).2 ((State.meets_clearCheckpoints _).2 hu)
    split <;> simp [hw]

@[simp] theorem State.Meets.restoreEpoch (hs : s.Meets κ) (d) : (s.restoreEpoch d).Meets κ := by
  unfold State.restoreEpoch
  extract_lets t u
  have ht : t.Meets κ := by
    unfold t
    split
    · exact (State.meets_onRun ..).2 (State.Meets.foldl (by simp [hs]) _ (fun _ _ h => h.setEntry ..) _)
    · exact hs
  exact (State.meets_onSeq ..).2 ((ht.restoreLedger d).clearSheaves d)

@[simp] theorem State.Meets.partitionLost (hs : s.Meets κ) (d) : (s.partitionLost d).Meets κ := by
  unfold State.partitionLost
  extract_lets t u v
  have hu : u.Meets κ := (State.meets_onDom ..).2 (hs.until _)
  have hv : v.Meets κ := by simp [v, hu]
  exact (hv.rollbackComplete ..).fatalNow _ _ (by decide)

/-! ## The coupler -/

@[simp] theorem State.meets_onGen (n f) : (s.onGen n f).Meets κ ↔ s.Meets κ :=
  State.meets_onCoup _ fun _ => by rfl

@[simp] theorem State.meets_couplerGen : s.couplerGen.Meets κ ↔ s.Meets κ := by simp [State.couplerGen]
@[simp] theorem State.meets_couplerSlip (q detail stamp) : (s.couplerSlip q detail stamp).Meets κ ↔ s.Meets κ := by simp [State.couplerSlip]
@[simp] theorem State.meets_takeBeat (g t last data) : (s.takeBeat g t last data).Meets κ ↔ s.Meets κ := by simp [State.takeBeat]
@[simp] theorem State.Meets.epiBeat (hs : s.Meets κ) (g t last data) : (s.epiBeat g t last data).Meets κ := by
  unfold State.epiBeat
  split <;> simp [hs]

@[simp] theorem meets_execEpilogueBeat (hs : s.Meets κ) (time gen last data) : Res.Meets κ (execEpilogueBeat time gen last data s) := by
  unfold execEpilogueBeat
  extract_lets t
  refine meets_whenTrue hs _ _ ?_
  split
  · simp [hs]
  · split <;> simp [hs]

@[simp] theorem State.Meets.drainMissing (hs : s.Meets κ) (g due) : (s.drainMissing g due).Meets κ := by simp [State.drainMissing, hs]

@[simp] theorem meets_execMcDrain (hs : s.Meets κ) (time gen) : Res.Meets κ (execMcDrain time gen s) := by
  unfold execMcDrain
  extract_lets t
  refine meets_whenTrue hs _ _ ?_
  split
  · extract_lets u
    have hu : u.Meets κ := by
      unfold u
      split
      · split <;> simp [hs]
      · exact hs
    simp [hu]
  · split <;> simp [hs]

@[simp] theorem State.Meets.land (hs : s.Meets κ) (g r) : (s.land g r).Meets κ := by
  unfold State.land
  extract_lets e ch mine res put u rec_
  have hput (m : Mem) (x) (hm : κ.mem m) : κ.mem (put m x) := by
    unfold put
    extract_lets n
    have hn : κ.mem n := Inv.mem_writeBytes hm _ _
    split
    · exact Inv.mem_writeBytes hn _ _
    · exact hn
  have hu : u.Meets κ := hs.onCores _ fun _ hc => Inv.mem_foldl hc put hput res
  split
  next v w heq =>
    have hv : v.Meets κ := by
      rw [show v = _ from (congrArg Prod.fst heq).symm]
      split <;> simp [hu]
    extract_lets x
    have hx : x.Meets κ := (State.meets_onCoup _ fun _ => by rfl).2 hv
    split <;> simp [hx]

@[simp] theorem meets_execLandingComplete (hs : s.Meets κ) : Res.Meets κ (execLandingComplete s) := by
  unfold execLandingComplete
  repeat' split
  all_goals simp [hs]

@[simp] theorem meets_execDrainDeadline (hs : s.Meets κ) : Res.Meets κ (execDrainDeadline s) := by
  unfold execDrainDeadline
  repeat' split
  all_goals simp [hs]

@[simp] theorem meets_execEpilogueBeatNotPresented (hs : s.Meets κ) : Res.Meets κ (execEpilogueBeatNotPresented s) := by
  unfold execEpilogueBeatNotPresented
  repeat' split
  all_goals simp [hs]

/-! ## Job loads -/

@[simp] theorem State.Meets.writeSeeds (hs : s.Meets κ) (j) : (s.writeSeeds j).Meets κ := by simp [State.writeSeeds, hs]
@[simp] theorem State.Meets.installJob (hs : s.Meets κ) (r d) : (s.installJob r d).Meets κ := by simp [State.installJob, hs]
@[simp] theorem meets_runJobLoad (hs : s.Meets κ) (r) : (runJobLoad r s).Meets κ := by simp [runJobLoad, hs]

/-! ## Expert windows and fences -/

@[simp] theorem State.meets_dropSessions : s.dropSessions.Meets κ ↔ s.Meets κ := by simp [State.dropSessions]
@[simp] theorem meets_runExpertUnlock (hs : s.Meets κ) (r) : (runExpertUnlock r s).Meets κ := by simp [runExpertUnlock, hs]
@[simp] theorem State.meets_recheckJob (d) : (s.recheckJob d).Meets κ ↔ s.Meets κ := by
  unfold State.recheckJob
  split <;> simp

@[simp] theorem meets_runExpertLock (hs : s.Meets κ) (r) : (runExpertLock r s).Meets κ := by simp [runExpertLock, hs]



@[simp] theorem State.Meets.fenceThere (hs : s.Meets κ) (r : Req) (pos : Nat) : (s.fenceThere r pos).Meets κ := by
  unfold State.fenceThere
  split
  next w t h =>
    have ht : t.Meets κ := by
      rw [show t = _ from (congrArg Prod.snd h).symm]
      exact State.meets_fresh.2 hs
    simp [ht]

@[simp] theorem State.Meets.fenceHere (hs : s.Meets κ) (r pos action spare) : (s.fenceHere r pos action spare).Meets κ := by
  unfold State.fenceHere
  extract_lets bad g t w
  have ht : t.Meets κ := (hs.pass _).onCores _ fun _ hc => by exact Cores.mem_act hc _ _ _ _
  simp [hs, ht]

@[simp] theorem meets_runFenceCore (hs : s.Meets κ) (r) : (runFenceCore r s).Meets κ := by
  unfold runFenceCore
  extract_lets pos die
  split
  · exact hs.fenceThere ..
  · exact hs.fenceHere ..

/-! ## Program commits -/

@[simp] theorem meets_runProgCommit (hs : s.Meets κ) (r) : (runProgCommit r s).Meets κ := by
  unfold runProgCommit
  extract_lets q code
  split
  · exact hs.answer ..
  · split
    · exact hs.answer ..
    · split
      · exact hs.answer ..
      · extract_lets
        split <;> simp [hs]

/-! ## Maintenance cells -/

theorem State.Meets.maintIn (hs : s.Meets κ) (p : Nat) (h : CellHdr) (act : State → State) (hact : ∀ t, t.Meets κ → (act t).Meets κ) :
    (s.maintIn p h act).Meets κ := by
  unfold State.maintIn
  repeat' split
  · exact hs
  · exact hact _ ((State.meets_onPort ..).2 hs)
  · exact (State.meets_sendAck ..).2 hs

@[simp] theorem State.meets_takeAck (p ack) : (s.takeAck p ack).Meets κ ↔ s.Meets κ := by simp [State.takeAck]
@[simp] theorem meets_takeMaintAck (hs : s.Meets κ) (c) : Res.Meets κ (takeMaintAck c s) := by simp [takeMaintAck, hs]
@[simp] theorem State.meets_takeCounter (p pay) : (s.takeCounter p pay).Meets κ ↔ s.Meets κ := by
  unfold State.takeCounter
  split <;> simp

@[simp] theorem meets_takeCounterCell (hs : s.Meets κ) (c) : Res.Meets κ (takeCounterCell c s) :=
  meets_linkRow hs _ _ _ fun _ _ _ ht => ht.maintIn _ _ _ fun _ ht => (State.meets_takeCounter ..).2 ht
theorem State.Meets.routed (hs : s.Meets κ) (pay : Bytes) (own : Nat → State → State) (hown : ∀ d t, t.Meets κ → (own d t).Meets κ) :
    (s.routed pay own).Meets κ := by
  unfold State.routed
  extract_lets d hops
  split
  · split
    · exact hown d s hs
    · exact hs
  · simp [hs]

@[simp] theorem meets_takeRolled (hs : s.Meets κ) (c) : Res.Meets κ (takeRolled c s) := by
  refine meets_linkRow hs _ _ _ fun hdr pay t ht => ht.maintIn _ _ _ fun t ht => ht.routed _ _ fun d t ht => ?_
  split <;> simp [ht]

@[simp] theorem meets_takeRollbackDone (hs : s.Meets κ) (c) : Res.Meets κ (takeRollbackDone c s) := by
  refine meets_linkRow hs _ _ _ fun hdr pay t ht => ht.maintIn _ _ _ fun t ht => ht.routed _ _ fun d t ht => ?_
  split <;> simp [ht]

@[simp] theorem State.meets_takeSync (p pay) : (s.takeSync p pay).Meets κ ↔ s.Meets κ := by simp [State.takeSync]
@[simp] theorem meets_takeSyncMessage (hs : s.Meets κ) (c) : Res.Meets κ (takeSyncMessage c s) :=
  meets_linkRow hs _ _ _ fun _ _ _ ht => ht.maintIn _ _ _ fun _ ht => by simp [ht]
@[simp] theorem State.meets_rebase (t) : (s.rebase t).Meets κ ↔ s.Meets κ := by simp [State.rebase]
@[simp] theorem State.meets_anchorPort (p) : (s.anchorPort p).Meets κ ↔ s.Meets κ := by simp [State.anchorPort]
@[simp] theorem State.Meets.discardReleases (hs : s.Meets κ) : s.discardReleases.Meets κ := by
  unfold State.discardReleases
  extract_lets waiting t
  have ht : t.Meets κ := by simp [t, hs]
  exact ht.foldl _ (fun _ _ h => h.discardRelease ..) _
@[simp] theorem State.Meets.syncEdge (hs : s.Meets κ) (target) : (s.syncEdge target).Meets κ := by simp [State.syncEdge, hs]
@[simp] theorem meets_execRackSyncEdge (hs : s.Meets κ) : Res.Meets κ (execRackSyncEdge s) := by
  unfold execRackSyncEdge
  split <;> simp [hs]

/-! ## Partition changes -/

@[simp] theorem State.meets_unarmHit (d r) : (s.unarmHit d r).Meets κ ↔ s.Meets κ := by simp [State.unarmHit]
@[simp] theorem State.meets_joinMbxs (d) : (s.joinMbxs d).Meets κ ↔ s.Meets κ := by simp [State.joinMbxs]
@[simp] theorem State.meets_takeRecord (d) : (s.takeRecord d).Meets κ ↔ s.Meets κ := by simp [State.takeRecord]
@[simp] theorem State.meets_adopt (c) : (s.adopt c).Meets κ ↔ s.Meets κ := by simp [State.adopt]
@[simp] theorem State.Meets.cleanPos (hs : s.Meets κ) (g) : (s.cleanPos g).Meets κ :=
  hs.onCores _ fun _ hc => by
    rw [Cores.sheaves_setShadow]
    exact Inv.mem_clear hc _ _
@[simp] theorem State.Meets.cleanTable (hs : s.Meets κ) (t) : (s.cleanTable t).Meets κ := by simp [State.cleanTable, hs]
@[simp] theorem State.Meets.cleanMbx (hs : s.Meets κ) (m) : (s.cleanMbx m).Meets κ := by simp [State.cleanMbx, hs]
@[simp] theorem State.Meets.clean (hs : s.Meets κ) (d r scrub) : (s.clean d r scrub).Meets κ := by
  unfold State.clean
  extract_lets t u v w x y z
  have ht : t.Meets κ := hs.foldl _ (fun _ _ h => h.cleanPos _) _
  have hu : u.Meets κ := ht.foldl _ (fun _ _ h => by simp [h]) _
  have hv : v.Meets κ := hu.foldl _ (fun _ _ h => h.cleanTable _) _
  have hw : w.Meets κ := hv.foldl _ (fun _ _ h => h.cleanMbx _) _
  have hx : x.Meets κ := by
    unfold x
    split
    · exact hw.foldl _ (fun _ _ h => by simp [h]) _
    · exact hw
  have hy : y.Meets κ := by simp [y, hx]
  simp [z, hy]
@[simp] theorem State.Meets.cleanEnd (hs : s.Meets κ) (c) : (s.cleanEnd c).Meets κ := by simp [State.cleanEnd, hs]
@[simp] theorem State.Meets.afterAdopt (hs : s.Meets κ) : s.afterAdopt.Meets κ := by
  unfold State.afterAdopt
  split <;> simp [hs]

@[simp] theorem State.meets_zeroCounters (d) : (s.zeroCounters d).Meets κ ↔ s.Meets κ := by simp [State.zeroCounters]
@[simp] theorem State.meets_setKey (d old new live) : (s.setKey d old new live).Meets κ ↔ s.Meets κ := by simp [State.setKey]
@[simp] theorem State.Meets.recordPart (hs : s.Meets κ) (r d ws live scrub) : (s.recordPart r d ws live scrub).Meets κ := by
  simp [State.recordPart, hs]
@[simp] theorem State.Meets.addRecord (hs : s.Meets κ) (r) : (s.addRecord r).Meets κ := by simp [State.addRecord, hs]
@[simp] theorem meets_runPartSet (hs : s.Meets κ) (r) : (runPartSet r s).Meets κ := by simp [runPartSet, hs]

@[simp] theorem State.Meets.finishDue {s : State} (hs : s.Meets κ) (q due n : Nat) : (State.finishDue q due n s).Meets κ := by
  induction n generalizing s with
  | zero => exact hs
  | succ n ih =>
    unfold State.finishDue
    split
    · split
      · split
        · exact ih (hs.completeCmd ..)
        · exact hs
      · exact hs
    · exact hs

@[simp] theorem State.Meets.toBoundary (hs : s.Meets κ) (q since) : (s.toBoundary q since).Meets κ := by
  unfold State.toBoundary
  split
  · split
    · split <;> simp [hs]
    · exact hs
  · exact hs

@[simp] theorem meets_execPartitionAdopt (hs : s.Meets κ) (q) : Res.Meets κ (execPartitionAdopt q s) := by
  unfold execPartitionAdopt
  split <;> simp [hs]

@[simp] theorem meets_execPartitionCleanDone (hs : s.Meets κ) : Res.Meets κ (execPartitionCleanDone s) := by
  unfold execPartitionCleanDone
  split <;> simp [hs]

/-! ## Received cells and the elastic buffer -/

@[simp] theorem Res.meets_orElse (hs : s.Meets κ) (r : Res) (h : r.Meets κ) : (Res.orElse r s).Meets κ := by
  unfold Res.orElse
  split
  · exact h _ rfl
  · exact hs

@[simp] theorem State.Meets.takeCell (hs : s.Meets κ) (c) : (s.takeCell c).Meets κ := by
  refine Res.meets_orElse hs _ ?_
  split <;> simp [hs]

@[simp] theorem State.Meets.elasticDrain {s : State} (hs : s.Meets κ) (p n : Nat) : (State.elasticDrain p n s).Meets κ := by
  induction n generalizing s with
  | zero => exact hs
  | succ n ih =>
    unfold State.elasticDrain
    split
    · exact ih (State.Meets.takeCell ((State.meets_onPort ..).2 hs) _)
    · exact hs

@[simp] theorem State.Meets.elasticRun (hs : s.Meets κ) (p) : (s.elasticRun p).Meets κ :=
  State.Meets.elasticDrain ((State.meets_onPort ..).2 hs) ..
@[simp] theorem State.Meets.elasticPush (hs : s.Meets κ) (c) : (s.elasticPush c).Meets κ := by
  unfold State.elasticPush
  extract_lets n
  split
  · exact hs
  · refine (State.meets_onPort ..).2 ?_
    split
    · exact hs.elasticDrain ..
    · exact hs
@[simp] theorem meets_cellRow (hs : s.Meets κ) (c : RxCell) (k : CellKind) (direct : Res) (hd : direct.Meets κ) :
    Res.Meets κ (cellRow c k direct s) := by
  unfold cellRow
  split
  · exact meets_whenTrue hs _ _ ((hs.elasticRun _).elasticPush _)
  · exact hd

@[simp] theorem meets_tick (hs : s.Meets κ) : (tick s).Meets κ := by
  unfold tick
  extract_lets t
  have ht : t.Meets κ := hs.pass 1
  split
  · exact ht
  · exact ht.foldl _ (fun _ p h => h.elasticRun p) _

/-! ## The test access port -/

@[simp] theorem State.meets_tapScan (ir out) : (s.tapScan ir out).Meets κ ↔ s.Meets κ := by simp [State.tapScan]
@[simp] theorem State.meets_boundaryScan (ir scan drive) : (s.boundaryScan ir scan drive).Meets κ ↔ s.Meets κ := by simp [State.boundaryScan]
@[simp] theorem State.Meets.eraseKeys (hs : s.Meets κ) : s.eraseKeys.Meets κ := by
  unfold State.eraseKeys
  extract_lets t u erased
  have hu : u.Meets κ := State.Meets.onKol ((State.meets_onBoot _).2 hs) _ fun _ _ => κ.mem_nil
  have hm : κ.mbxs (u.mbx.map fun b => { b with mem := b.mem.clear 0x1000 0x1000 }) :=
    Inv.mbxs_map hu.mbx _ fun _ hb => Inv.mem_clear hb _ _
  simp [hu, hm]
@[simp] theorem meets_execDbgAccess (hs : s.Meets κ) (busWord) : Res.Meets κ (execDbgAccess busWord s) := by
  unfold execDbgAccess
  repeat' split
  all_goals simp [hs]

theorem meets_execDbgOpen (hs : s.Meets κ) (request) : Res.Meets κ (execDbgOpen request s) := by
  unfold execDbgOpen
  extract_lets t u
  have ht : t.Meets κ := (State.meets_tapScan ..).2 hs
  have hu : u.Meets κ := State.Meets.onKol ((State.meets_onAon _ fun _ => by exact ⟨rfl, rfl⟩).2 ht) _ fun _ h => h
  have he : u.eraseKeys.Meets κ := hu.eraseKeys
  simp [hs, ht, he]

/-! ## The step -/

/-- Every command keeps the shape of a state that fits its configuration: a row without a lemma of its own is one call of a function above. -/
theorem meets_exec (hs : s.Meets κ) (i : Instr) : Res.Meets κ (exec i s) := by
  cases i
  case echo => exact meets_ronno hs _ _ _ fun r _ ht => meets_runEcho ht r
  case status => exact meets_ronno hs _ _ _ fun r _ ht => meets_runStatus ht r
  case mbxConfig => exact meets_ronno hs _ _ _ fun r _ ht => meets_runMbxConfig ht r
  case badOpcode =>
    unfold exec execBadOpcode
    exact meets_ronno hs _ _ _ fun r _ ht => ht.answer r _
  case expertUnlock => exact meets_ronno hs _ _ _ fun r _ ht => meets_runExpertUnlock ht r
  case expertLock => exact meets_ronno hs _ _ _ fun r _ ht => meets_runExpertLock ht r
  case progBegin => exact meets_ronno hs _ _ _ fun r _ ht => meets_runProgBegin ht r
  case progChunk => exact meets_ronno hs _ _ _ fun r _ ht => meets_runProgChunk ht r
  case progCommit => exact meets_ronno hs _ _ _ fun r _ ht => meets_runProgCommit ht r
  case epochRun => exact meets_ronnoEntry hs _ _ _ _ (fun r _ ht => meets_runEpochRun ht r) fun r _ ht => (State.meets_queueRun r).2 ht
  case runPrefix => exact meets_ronnoEntry hs _ _ _ _ (fun r _ ht => meets_runRunPrefix ht r) fun r _ ht => (State.meets_queuePrefix r).2 ht
  case epochAbort => exact meets_ronno hs _ _ _ fun r _ ht => meets_runEpochAbort ht r
  case tableLoad => exact meets_ronno hs _ _ _ fun r _ ht => meets_runTableLoad ht r
  case ledgerSet => exact meets_ronno hs _ _ _ fun r _ ht => meets_runLedgerSet ht r
  case jobLoadWiring | jobLoadRoutes | jobLoadCircuits | jobLoadSeeds | jobInstall =>
    exact meets_ronno hs _ _ _ fun r _ ht => meets_runJobLoad ht r
  case partSetActive | partSetDelete =>
    exact meets_ronnoEntry hs _ _ _ _ (fun r _ ht => meets_runPartSet ht r) fun r _ ht => ht.addRecord r
  case portBypassEnter | portBypassRelease => exact meets_ronno hs _ _ _ fun r _ ht => meets_runPortBypass ht r
  case maintEnter => exact meets_ronno hs _ _ _ fun r _ ht => meets_runMaintEnter ht r
  case maintLeave => exact meets_ronno hs _ _ _ fun r _ ht => meets_runMaintLeave ht r
  case breakClear | breakCount | breakTag => exact meets_ronno hs _ _ _ fun r _ ht => meets_runBreakSet ht r
  case fenceCoreFence | fenceCoreShadow | fenceCoreShadowEnd | fenceCoreRestore =>
    exact meets_ronno hs _ _ _ fun r _ ht => meets_runFenceCore ht r
  case couplerStuck => exact meets_whenTrue hs _ _ ((hs.until _).fatalNow _ _ (by decide))
  case trainTime =>
    unfold exec execTrainTime
    exact meets_linkRow hs _ _ _ fun _ _ _ ht => ht.gotTrainTime ..
  case trainingLimitExpiry => exact meets_whenTrue hs _ _ ((hs.untilLocal _).trainFail ..)
  case localRollbackDone =>
    exact meets_whenTrue hs _ _ (State.Meets.rootCount ((State.meets_sendRolled _).2 ((State.meets_onDom ..).2 (hs.restoreEpoch _))) _)
  case dbgOpen => exact meets_execDbgOpen hs _
  all_goals simp [exec,
    execTestReset, execRegisterPortReady, execReferenceCheckDone, execBistTimeout, execSecTimeout, execFwStartTimeout,
    execFederationCheckDone, execFederationTimeout, execBootGo, execWarmReset, execRegisterWrite, execRecordWord0Read, execReqTail,
    execCplHead, execMbxReset, execAlarmFatalClear, execSnapRelease, execCmdDataRead, execCmdDataWrite, execTblDataRead,
    execTblDataWrite, execSrResultRead, execPosMapWrite, execCouplerOwnerWrite, execChainRecWrite, execPortCtlWrite,
    execPairBypassWrite, execLedgerWordWrite, execCircRouteWordWrite, execFirmwareHalt, execWindowOverflowTrap, execEpochBoundaryHalt,
    execThermWarn, execThermal, execPatrolRead, execCompute, execSync, execSwap, execEndEpoch, execPhyReady, execAlignCell,
    execPortRetrain, execBypassSwitchWait, execCommitCopyDone, execDecisionWatchdog, execRollbackWatchdog, execMaintAckDue,
    execMaintReplayTimeout, execIdleCell, execData, execTag, execChannelBarrier, execBarrierVote, execBarrierDecision, execAbort,
    execBundle, execReservedTypeCell, execTrainId, execRolled, execRollbackDone, execSyncMessage, execMaintAck, execCounter, execPoison,
    execExtest, execSamplePreload, execIdcode, execBypass, execDbgStatus, execSecErased, hs]

theorem meets_step (hs : s.Meets κ) : Res.Meets κ (step s) := by
  unfold step
  split
  · exact (Res.meets_next _).2 (meets_tick hs)
  · exact meets_exec (by simp [hs]) _

/-- Settles O5: every function of the model that gives a state keeps the invariant, so every command and every step does. -/
theorem stepKeepsMemoriesCanonical : Obligations.StepKeepsMemoriesCanonical :=
  fun s t hs h => t.meets_memories.1 (meets_step (s.meets_memories.2 hs) t h)

/-- Settles O7: the alarm line is the other invariant of the same induction; only a latched fatal alarm, its clearing and the resets touch it. -/
theorem stepKeepsAlarmLine : Obligations.StepKeepsAlarmLine :=
  fun s t hs h => t.meets_alarm.1 (meets_step (s.meets_alarm.2 hs) t h)

/-- Settles O4: the reset state is an initial state, whose memories are empty, whose shape its configuration asks for, and whose alarms are
clear. -/
theorem resetMeetsInvariants : Obligations.ResetMeetsInvariants :=
  ⟨State.reset.meets_memories.1 (State.meets_initial _), State.reset.shaped_iff.2 (State.shape_initial _ ▸ rfl),
    State.reset.meets_alarm.1 (State.meets_initial _)⟩

end Sys2Proof.Machine
end

section
/-! PROOFS. Which commands answer a next state: all but DBG_ACCESS where the undescribed debug bus would act (02 R75, R77). -/

namespace Sys2Proof.Machine

/-- An outcome is a next state. -/
def Res.Answers (r : Res) : Prop := ∃ t, r = .next t

variable {s : State}

@[simp] theorem Res.answers_next (t : State) : Res.Answers (.next t) := ⟨t, rfl⟩

@[simp] theorem Res.answers_ite (c : Prop) [Decidable c] (r q : Res) : Res.Answers (if c then r else q) ↔ if c then r.Answers else q.Answers := by
  split <;> rfl

/-! ## The shared rows -/

@[simp] theorem answers_whenTrue (c : Bool) (s t : State) : (whenTrue c s t).Answers := by
  simp [whenTrue]

@[simp] theorem answers_portRequest (s t : State) : (portRequest s t).Answers := answers_whenTrue ..

@[simp] theorem answers_ronno (m : Nat) (pick) (run) : (ronno m pick run s).Answers := by
  simp [ronno]

@[simp] theorem answers_ronnoEntry (m : Nat) (pick) (run add) : (ronnoEntry m pick run add s).Answers := by
  unfold ronnoEntry
  split <;> simp

@[simp] theorem answers_slotRow (c : RxCell) (isType) (act) : (slotRow c isType act s).Answers := by
  unfold slotRow
  split
  · extract_lets t
    split
    · exact Res.answers_next _
    · split <;> exact Res.answers_next _
  · exact Res.answers_next _

@[simp] theorem answers_linkRow (c : RxCell) (isType) (act) : (linkRow c isType act s).Answers := answers_slotRow ..

@[simp] theorem answers_cellRow (c : RxCell) (k : CellKind) (direct : Res) (h : direct.Answers) : (cellRow c k direct s).Answers := by
  simp [cellRow, h]

/-! ## The rows with cases of their own -/

@[simp] theorem answers_execPowerOn : (execPowerOn s).Answers := by
  unfold execPowerOn
  repeat' split
  all_goals simp

@[simp] theorem answers_execColdResetRelease (straps) : (execColdResetRelease straps s).Answers := by
  unfold execColdResetRelease
  repeat' split
  all_goals simp

@[simp] theorem answers_execClockLoss : (execClockLoss s).Answers := by
  unfold execClockLoss
  repeat' split
  all_goals simp

@[simp] theorem answers_execRefLoss : (execRefLoss s).Answers := by
  unfold execRefLoss
  repeat' split
  all_goals simp

@[simp] theorem answers_execBistDone (failed) : (execBistDone failed s).Answers := by
  unfold execBistDone
  repeat' split
  all_goals simp

@[simp] theorem answers_execFuseReadAck (data err) : (execFuseReadAck data err s).Answers := by
  unfold execFuseReadAck
  repeat' split
  all_goals simp

@[simp] theorem answers_execImageAuthenticated (given) : (execImageAuthenticated given s).Answers := by
  unfold execImageAuthenticated
  repeat' split
  all_goals simp

@[simp] theorem answers_execWatchdog : (execWatchdog s).Answers := by
  unfold execWatchdog
  repeat' split
  all_goals simp

@[simp] theorem answers_execWindowUnderflowTrap : (execWindowUnderflowTrap s).Answers := by
  unfold execWindowUnderflowTrap
  extract_lets k
  split
  · split
    · exact Res.answers_next _
    · cases k.spill.getLast? <;> exact Res.answers_next _
  · exact Res.answers_next _

@[simp] theorem answers_execPortLoss (port cause) : (execPortLoss port cause s).Answers := by
  unfold execPortLoss
  cases cause
  all_goals repeat' split
  all_goals simp

@[simp] theorem answers_execCellStampExpiry (port slot) : (execCellStampExpiry port slot s).Answers := by
  unfold execCellStampExpiry
  repeat' split
  all_goals simp

@[simp] theorem answers_execEpochRelease (q) : (execEpochRelease q s).Answers := by
  unfold execEpochRelease
  repeat' split
  all_goals simp

@[simp] theorem answers_execCommandCompletion (q) : (execCommandCompletion q s).Answers := by
  unfold execCommandCompletion
  repeat' split
  all_goals simp

@[simp] theorem answers_execSpReadData (q pos chan line time poison) : (execSpReadData q pos chan line time poison s).Answers := by
  unfold execSpReadData
  repeat' split
  all_goals simp

@[simp] theorem answers_execLineStampExpiry (q pos chan line refused) : (execLineStampExpiry q pos chan line refused s).Answers := by
  unfold execLineStampExpiry
  repeat' split
  all_goals simp

@[simp] theorem answers_execTallyWaitWindowEnd (q) : (execTallyWaitWindowEnd q s).Answers := by
  unfold execTallyWaitWindowEnd
  repeat' split
  all_goals simp

@[simp] theorem answers_execLandingComplete : (execLandingComplete s).Answers := by
  unfold execLandingComplete
  repeat' split
  all_goals simp

@[simp] theorem answers_execDrainDeadline : (execDrainDeadline s).Answers := by
  unfold execDrainDeadline
  repeat' split
  all_goals simp

@[simp] theorem answers_execEpilogueBeatNotPresented : (execEpilogueBeatNotPresented s).Answers := by
  unfold execEpilogueBeatNotPresented
  repeat' split
  all_goals simp

@[simp] theorem answers_execRackSyncEdge : (execRackSyncEdge s).Answers := by
  unfold execRackSyncEdge
  repeat' split
  all_goals simp

@[simp] theorem answers_execPartitionAdopt (q) : (execPartitionAdopt q s).Answers := by
  unfold execPartitionAdopt
  repeat' split
  all_goals simp

@[simp] theorem answers_execPartitionCleanDone : (execPartitionCleanDone s).Answers := by
  unfold execPartitionCleanDone
  repeat' split
  all_goals simp

@[simp] theorem answers_execMainResetAssert (pin) : (execMainResetAssert pin s).Answers := by
  unfold execMainResetAssert
  repeat' split
  all_goals simp

/-! ## Every command -/

/-- Where DBG_ACCESS is refused: the debug state OPEN, with power (R77). -/
theorem execDbgAccess_answers_or_refused (w : BitVec 104) :
    (execDbgAccess w s).Answers ∨ s.aon.debug = .opened ∧ s.aon.power ≠ .off ∧ execDbgAccess w s = .refused .debugBusNotDescribed := by
  unfold execDbgAccess
  split
  · next hup =>
    cases hd : s.aon.debug
    case opened => exact .inr ⟨rfl, by simpa [State.tapUp] using hup, rfl⟩
    all_goals exact .inl (Res.answers_next _)
  · exact .inl (Res.answers_next _)

theorem exec_answers (i : Instr) (h : ∀ w, i ≠ .dbgAccess w) : Res.Answers (exec i s) := by
  cases i
  case dbgAccess w => exact absurd rfl (h w)
  all_goals simp [exec,
    execPowerOff, execTestReset, execRegisterPortReady, execReferenceCheckDone, execBistTimeout, execSecTimeout, execFwStartTimeout,
    execFederationCheckDone, execFederationTimeout, execBootGo, execWarmReset, execRegisterWrite, execRecordWord0Read, execReqTail,
    execCplHead, execMbxReset, execAlarmFatalClear, execSnapRelease, execCmdDataRead, execCmdDataWrite, execTblDataRead,
    execTblDataWrite, execSrResultRead, execPosMapWrite, execCouplerOwnerWrite, execChainRecWrite, execPortCtlWrite,
    execPairBypassWrite, execLedgerWordWrite, execCircRouteWordWrite, execEcho, execStatus, execMbxConfig, execBadOpcode, execProgBegin,
    execProgChunk, execEpochRun, execRunPrefix, execEpochAbort, execTableLoad, execLedgerSet, execMaintEnter, execMaintLeave,
    execBreakClear, execBreakCount, execBreakTag, execFirmwareHalt, execWindowOverflowTrap, execEpochBoundaryHalt, execThermWarn,
    execThermal, execPatrolRead, execCompute, execSync, execSwap, execEndEpoch, execPortBypassEnter, execPortBypassRelease,
    execPhyReady, execAlignCell, execTrainTime, execTrainDone, execTrainingLimitExpiry, execPortRetrain,
    execBypassSwitchWait, execCommitCopyDone, execLocalRollbackDone, execDecisionWatchdog, execRollbackWatchdog,
    execEpilogueBeat, execMcDrain, execCouplerStuck, execJobLoadWiring, execJobLoadRoutes, execJobLoadCircuits, execJobLoadSeeds,
    execJobInstall, execExpertUnlock, execExpertLock, execFenceCoreFence, execFenceCoreShadow, execFenceCoreShadowEnd,
    execFenceCoreRestore, execProgCommit, execMaintAckDue, execMaintReplayTimeout, execPartSetActive, execPartSetDelete, execIdleCell,
    execData, execTag, execChannelBarrier, execBarrierVote, execBarrierDecision, execAbort, execBundle, execReservedTypeCell,
    execTrainId, execRolled, execRollbackDone, execSyncMessage, execMaintAck, execCounter, execPoison, execExtest, execSamplePreload,
    execIdcode, execBypass, execDbgStatus, execDbgOpen, execSecErased, takeTrainId, takePoison, takeReserved, takeIdle, takeData,
    takeTag, takeChannelBarrier, takeAbortCell, takeVote, takeDecision, takeBundleCell, takeMaintAck, takeCounterCell, takeRolled,
    takeRollbackDone, takeSyncMessage]

/-- Settles O3: the debug access apart, every row is an update behind a check, and a check that fails leaves the state. -/
theorem onlyDebugAccessIsRefused : Obligations.OnlyDebugAccessIsRefused := by
  intro i s
  cases i
  case dbgAccess w =>
    rcases execDbgAccess_answers_or_refused (s := s) w with h | ⟨hd, hp, hr⟩
    · exact .inl h
    · exact .inr ⟨⟨w, rfl⟩, hd, hp, hr⟩
  all_goals exact .inl (exec_answers _ nofun)

end Sys2Proof.Machine
end

section
/-! PROOFS. The test access port: its scans, the opening of the debug module, and the erase before it (02 R74-R77; 05 R150). -/

namespace Sys2Proof.Machine

variable {s : State}

theorem whenTrue_of {c : Bool} (h : c = true) (s t : State) : whenTrue c s t = .next t := by simp [whenTrue, h]

theorem State.tapUp_of_powered (h : s.aon.power ≠ .off) : s.tapUp = true := by simp [State.tapUp, h]

/-! ## Scans -/

theorem State.keeps_withTap (s : State) (x : Tap) : s.keeps { s with tap := x } [.tap] := by
  intro f hf; cases f <;> first | rfl | exact absurd (by decide) hf

theorem State.keeps_tapScan (s : State) (ir : BitVec 8) (out : List Bool) : s.keeps (s.tapScan ir out) [.tap] := s.keeps_withTap _

@[simp] theorem State.tapScan_ir (ir : BitVec 8) (out : List Bool) : (s.tapScan ir out).tap.ir = ir := rfl
@[simp] theorem State.tapScan_dr (ir : BitVec 8) (out : List Bool) : (s.tapScan ir out).tap.dr = out := rfl

@[simp] theorem bitList_length (n x : Nat) : (bitList n x).length = n := by simp [bitList]

/-- The bits of a word, bit 0 first. -/
theorem bitList_toNat {n : Nat} (w : BitVec n) : bitList n w.toNat = (List.range n).map w.getLsbD := rfl

/-- A boundary scan changes the test access port, and takes three free values for the levels of inputs. -/
theorem State.boundaryScan_eq (s : State) (ir : BitVec 8) (scan : List Bool) (drive : Bool) :
    s.boundaryScan ir scan drive = { s with tap := (s.boundaryScan ir scan drive).tap, free := s.free + 3 } := rfl

theorem State.keeps_boundaryScan (s : State) (ir : BitVec 8) (scan : List Bool) (drive : Bool) :
    s.keeps (s.boundaryScan ir scan drive) [.tap, .free] := by
  rw [State.boundaryScan_eq]
  intro f hf; cases f <;> first | rfl | exact absurd (by decide) hf

@[simp] theorem State.boundaryScan_ir (ir : BitVec 8) (scan : List Bool) (drive : Bool) :
    (s.boundaryScan ir scan drive).tap.ir = ir := rfl

@[simp] theorem State.boundaryScan_driving (ir : BitVec 8) (scan : List Bool) (drive : Bool) :
    (s.boundaryScan ir scan drive).tap.driving = drive := rfl

/-- The latches take the last of the captured cells and the scanned bits. -/
theorem State.boundaryScan_boundary (ir : BitVec 8) (scan : List Bool) (drive : Bool) :
    (s.boundaryScan ir scan drive).tap.boundary = ((s.boundaryScan ir scan drive).tap.dr ++ scan).drop scan.length := rfl

theorem State.boundaryScan_boundary_length (ir : BitVec 8) (scan : List Bool) (drive : Bool) :
    (s.boundaryScan ir scan drive).tap.boundary.length = (s.boundaryScan ir scan drive).tap.dr.length := by
  rw [State.boundaryScan_boundary]; simp

theorem exec_idcode (h : s.aon.power ≠ .off) : exec .idcode s = .next (s.tapScan 0x02 (bitList 32 s.idcode.toNat)) :=
  whenTrue_of (State.tapUp_of_powered h) ..

theorem exec_bypass (h : s.aon.power ≠ .off) {code : BitVec 8} (hc : bypassCode code = true) (tdi : Bool) :
    exec (.bypass code tdi) s = .next (s.tapScan code [false, tdi]) :=
  whenTrue_of (by rw [State.tapUp_of_powered h, hc]; rfl) ..

theorem exec_dbgStatus (h : s.aon.power ≠ .off) :
    exec .dbgStatus s = .next (s.tapScan 0x20 (bitList 8 (Config.dbgStatusCode (Debug.number s.aon.debug)).toNat)) :=
  whenTrue_of (State.tapUp_of_powered h) ..

theorem exec_dbgAccess (h : s.aon.power ≠ .off) (hd : s.aon.debug ≠ .opened) (w : BitVec 104) :
    exec (.dbgAccess w) s = .next (s.tapScan 0x22 (List.replicate 104 false)) := by
  show execDbgAccess w s = _
  unfold execDbgAccess
  rw [if_pos (State.tapUp_of_powered h)]
  split
  next ho => exact absurd ho hd
  next => rfl

theorem exec_extest (h : s.aon.power ≠ .off) (scan : List Bool) : exec (.extest scan) s = .next (s.boundaryScan 0x00 scan true) :=
  whenTrue_of (State.tapUp_of_powered h) ..

theorem exec_samplePreload (h : s.aon.power ≠ .off) (scan : List Bool) :
    exec (.samplePreload scan) s = .next (s.boundaryScan 0x01 scan false) :=
  whenTrue_of (State.tapUp_of_powered h) ..

theorem exec_testReset (s : State) : exec .testReset s = .next { s with tap := Tap.initial } := rfl

/-- The codes that select BYPASS are those that no other instruction has. -/
theorem bypassCode_of_notMem {code : BitVec 8} (h : code ∉ ([0x00, 0x01, 0x02, 0x20, 0x21, 0x22] : List (BitVec 8))) :
    bypassCode code = true := by
  revert code; decide

/-- Settles O17: each scan is an update of the test access port alone, boundary scans of the count of free values besides. -/
theorem tapScansChangeOnlyTheTap : Obligations.TapScansChangeOnlyTheTap := by
  refine ⟨fun s h => ⟨?_, fun code tdi hc => ?_, ?_, fun w hd => ?_, ?_⟩, fun scan s h => ⟨?_, ?_⟩⟩
  · exact ⟨_, exec_idcode h, rfl, bitList_toNat _, s.keeps_tapScan _ _⟩
  · exact ⟨_, exec_bypass h (bypassCode_of_notMem hc) tdi, rfl, rfl, s.keeps_tapScan _ _⟩
  · exact ⟨_, exec_dbgStatus h, rfl, bitList_length .., s.keeps_tapScan _ _⟩
  · exact ⟨_, exec_dbgAccess h hd w, rfl, s.keeps_tapScan _ _⟩
  · exact ⟨_, exec_testReset s, rfl, rfl, s.keeps_withTap _⟩
  · exact ⟨_, exec_extest h scan, rfl, State.boundaryScan_boundary_length .., rfl, s.boundaryScan_eq ..⟩
  · exact ⟨_, exec_samplePreload h scan, rfl, State.boundaryScan_boundary_length .., rfl, s.boundaryScan_eq ..⟩

/-! ## The opening of the debug module -/

/-- The state after an accepted DBG_OPEN (R77, R150). -/
def State.debugErased (s : State) : State :=
  ((((s.tapScan 0x21 [false]).onAon fun a => { a with debug := .erasePending }).onKol Kolate.stopped).eraseKeys).onAon fun a =>
    { a with secLock := true }

theorem exec_dbgOpen_accepted (hp : s.aon.power = .maintenance) (hr : s.clk.regReady = true) (hd : s.aon.debug ≠ .opened) :
    exec (.dbgOpen true) s = .next s.debugErased := by
  show execDbgOpen true s = _
  have ha : (true && s.dbgAccepts) = true := by simp [State.dbgAccepts, hp, hr, hd]
  unfold execDbgOpen
  rw [if_pos (State.tapUp_of_powered (by simp [hp]))]
  dsimp only
  rw [if_pos ha]
  rfl

theorem exec_dbgOpen_refused {r : Bool} (h : s.aon.power ≠ .off)
    (hn : r = false ∨ s.aon.power ≠ .maintenance ∨ s.aon.debug = .opened ∨ s.clk.regReady = false) :
    exec (.dbgOpen r) s = .next (s.tapScan 0x21 [false]) := by
  show execDbgOpen r s = _
  have ha : ¬ (r && s.dbgAccepts) = true := by
    rcases hn with h | h | h | h <;> simp [State.dbgAccepts, h]
  unfold execDbgOpen
  rw [if_pos (State.tapUp_of_powered h)]
  dsimp only
  rw [if_neg ha]

/-- The part of a list whose elements have all been mapped. -/
theorem getD_map_of {α : Type} {p : α → Prop} {f : α → α} (hf : ∀ a, p (f a)) {d : α} (hd : p d) (l : List α) (i : Nat) :
    p ((l.map f).getD i d) := by
  rw [List.getD_eq_getElem?_getD, List.getElem?_map]
  cases l[i]? with
  | none => exact hd
  | some a => exact hf a

theorem State.debugErased_aon (s : State) : s.debugErased.aon = { s.aon with debug := .erasePending, secLock := true } := rfl

theorem State.keeps_debugErased (s : State) : s.keeps s.debugErased [.tap, .aon, .kol, .boot, .parts, .ports, .mbx] := by
  intro f hf; cases f <;> first | rfl | exact absurd (by decide) hf

/-- No request of the control core posts anything more. -/
theorem State.debugErased_mute (s : State) : ∀ e ∈ s.debugErased.kol.epochs, e.mute = true := by
  intro e he
  obtain ⟨x, _, rfl⟩ := List.mem_map.1 he
  rfl

theorem State.debugErased_keys (s : State) (d : Nat) : (s.debugErased.partAt d).hasKey = false ∧ (s.debugErased.partAt d).key = 0 :=
  getD_map_of (p := fun (x : Domain) => x.hasKey = false ∧ x.key = 0) (fun _ => ⟨rfl, rfl⟩) ⟨rfl, rfl⟩ _ _

theorem State.debugErased_counters (s : State) : ∀ p ∈ s.debugErased.ports, (∀ c ∈ p.txCtr, c = 0) ∧ ∀ c ∈ p.rxCtr, c = 0 := by
  intro p hp
  obtain ⟨q, _, rfl⟩ := List.mem_map.1 hp
  simp

/-- The mailboxes' data areas read zero. -/
theorem State.debugErased_data (s : State) : ∀ b ∈ s.debugErased.mbx, ∀ a, 0x1000 ≤ a → a < 0x2000 → b.mem.read a = 0 := by
  intro b hb a h1 h2
  obtain ⟨c, _, rfl⟩ := List.mem_map.1 hb
  show (c.mem.clear 0x1000 0x1000).read a = 0
  rw [Mem.read_clear, if_pos ⟨h1, by omega⟩]
  rfl

theorem exec_secErased (h1 : s.aon.debug = .erasePending) (h2 : s.aon.secLock = true) (h3 : s.boot.erased = true) :
    exec .secErased s = .next (s.onAon fun a => { a with debug := .opened }) :=
  whenTrue_of (by simp [h1, h2, h3]) ..

/-- Settles O18: an accepted DBG_OPEN is the erase, every other one a scan. -/
theorem debugOpensOnlyAfterTheErase : Obligations.DebugOpensOnlyAfterTheErase := by
  refine ⟨fun s hp hr hd => ?_, fun r s h hn => ?_, fun s h1 h2 h3 => ?_, fun s h => ?_⟩
  · exact ⟨_, exec_dbgOpen_accepted hp hr hd, rfl, rfl, rfl, rfl, s.debugErased_mute, rfl, rfl, rfl, rfl, rfl, s.debugErased_keys,
      s.debugErased_counters, s.debugErased_data, fun _ => rfl, s.debugErased_aon, s.keeps_debugErased⟩
  · exact ⟨_, exec_dbgOpen_refused h hn, rfl, s.keeps_tapScan _ _⟩
  · exact ⟨_, exec_secErased h1 h2 h3, rfl, rfl⟩
  · have scan (code : BitVec 8) (out : List Bool) : s.keeps (s.tapScan code out) [.tap, .free] :=
      (s.keeps_tapScan code out).mono (by decide)
    refine ⟨fun x => ⟨⟨_, exec_extest h x, rfl, s.keeps_boundaryScan _ _ _⟩, ⟨_, exec_samplePreload h x, rfl, s.keeps_boundaryScan _ _ _⟩⟩,
      ⟨_, exec_idcode h, rfl, scan _ _⟩, ⟨_, exec_dbgStatus h, rfl, scan _ _⟩, fun code tdi hc => ?_, fun w hd => ?_⟩
    · exact ⟨_, exec_bypass h hc tdi, rfl, scan _ _⟩
    · exact ⟨_, exec_dbgAccess h hd w, rfl, scan _ _⟩

end Sys2Proof.Machine
end

section
/-! PROOFS. Power, reset and start-up: what each command of the sequence leaves (02 R50, R56, R57, R73, R78; 03 R92-R108; 05 R140). -/

namespace Sys2Proof.Machine

variable {s : State}

/-- Two steps one behind the other keep what both of them keep. -/
theorem State.keeps.andThen {s t u : State} {l k : List Field} (h : s.keeps t l) (h' : t.keeps u k) : s.keeps u (l ++ k) :=
  (h.mono fun _ hf => List.mem_append_left k hf).trans (h'.mono fun _ hf => List.mem_append_right l hf)

/-! What a kept field says, by name. -/

theorem State.keeps.cfg {s t : State} {l : List Field} (h : s.keeps t l) (hf : Field.cfg ∉ l := by decide) : t.cfg = s.cfg := h _ hf
theorem State.keeps.aon {s t : State} {l : List Field} (h : s.keeps t l) (hf : Field.aon ∉ l := by decide) : t.aon = s.aon := h _ hf
theorem State.keeps.clk {s t : State} {l : List Field} (h : s.keeps t l) (hf : Field.clk ∉ l := by decide) : t.clk = s.clk := h _ hf
theorem State.keeps.boot {s t : State} {l : List Field} (h : s.keeps t l) (hf : Field.boot ∉ l := by decide) : t.boot = s.boot := h _ hf
theorem State.keeps.rp {s t : State} {l : List Field} (h : s.keeps t l) (hf : Field.rp ∉ l := by decide) : t.rp = s.rp := h _ hf
theorem State.keeps.mbx {s t : State} {l : List Field} (h : s.keeps t l) (hf : Field.mbx ∉ l := by decide) : t.mbx = s.mbx := h _ hf
theorem State.keeps.kol {s t : State} {l : List Field} (h : s.keeps t l) (hf : Field.kol ∉ l := by decide) : t.kol = s.kol := h _ hf
theorem State.keeps.parts {s t : State} {l : List Field} (h : s.keeps t l) (hf : Field.parts ∉ l := by decide) : t.parts = s.parts := h _ hf
theorem State.keeps.seqs {s t : State} {l : List Field} (h : s.keeps t l) (hf : Field.seqs ∉ l := by decide) : t.seqs = s.seqs := h _ hf
theorem State.keeps.cores {s t : State} {l : List Field} (h : s.keeps t l) (hf : Field.cores ∉ l := by decide) : t.cores = s.cores := h _ hf
theorem State.keeps.tables {s t : State} {l : List Field} (h : s.keeps t l) (hf : Field.tables ∉ l := by decide) : t.tables = s.tables := h _ hf
theorem State.keeps.ledger {s t : State} {l : List Field} (h : s.keeps t l) (hf : Field.ledger ∉ l := by decide) : t.ledger = s.ledger := h _ hf
theorem State.keeps.sp {s t : State} {l : List Field} (h : s.keeps t l) (hf : Field.sp ∉ l := by decide) : t.sp = s.sp := h _ hf
theorem State.keeps.coup {s t : State} {l : List Field} (h : s.keeps t l) (hf : Field.coup ∉ l := by decide) : t.coup = s.coup := h _ hf
theorem State.keeps.ports {s t : State} {l : List Field} (h : s.keeps t l) (hf : Field.ports ∉ l := by decide) : t.ports = s.ports := h _ hf
theorem State.keeps.coll {s t : State} {l : List Field} (h : s.keeps t l) (hf : Field.coll ∉ l := by decide) : t.coll = s.coll := h _ hf
theorem State.keeps.agenda {s t : State} {l : List Field} (h : s.keeps t l) (hf : Field.agenda ∉ l := by decide) : t.agenda = s.agenda := h _ hf
theorem State.keeps.gln {s t : State} {l : List Field} (h : s.keeps t l) (hf : Field.gln ∉ l := by decide) : t.gln = s.gln := h _ hf

theorem State.keeps_withClk (s : State) (c : Clk) : s.keeps { s with clk := c } [.clk] := by
  intro f hf; cases f <;> first | rfl | exact absurd (by decide) hf

/-! ## Power, cold reset release and the register port -/

theorem exec_powerOn (h : s.aon.power = .off) : exec .powerOn s = .next (s.keepOutside (State.initial s.cfg)) := by
  show execPowerOn s = _
  rw [execPowerOn, h]

theorem getD_replicate_self {α : Type} (a : α) (n i : Nat) : (List.replicate n a).getD i a = a := by
  rw [List.getD_eq_getElem?_getD, List.getElem?_replicate]
  split <;> rfl

/-- The always-on island's reset leaves no port driven and every ring pair in bypass. -/
theorem State.dark_initial (c : Cfg) : (State.initial c).dark :=
  ⟨fun p _ => congrArg Port.phyEn (getD_replicate_self Port.initial c.nPort p), fun i _ => getD_replicate_self true c.nPair i⟩

/-- Local time has come to t. -/
theorem State.untilLocal_localTime (t : Nat) (hd : s.clk.dividers = true) (hq : s.quiet = true) :
    (s.untilLocal t).clk.localTime = s.clk.localTime + (t - s.clk.localTime) := by
  unfold State.untilLocal
  rw [State.pass_quiet _ _ hd hq, State.clock_clk]

theorem exec_registerPortReady (h : s.released = true) (hr : s.clk.regReady = false) :
    exec .registerPortReady s = .next { s.untilLocal 128 with clk := { (s.untilLocal 128).clk with regReady := true } } :=
  if_pos ⟨h, by rw [hr]; rfl⟩

theorem exec_coldResetRelease (st : Straps) (h : s.aon.power = .standby) : exec (.coldResetRelease st) s = .next
    { s with
      aon := { s.aon with power := .starting }
      clk := { Clk.initial with dividers := true }
      boot := { s.boot with straps := st, phase := 1, debugOpened := s.aon.debug != .closed } } := by
  show execColdResetRelease st s = _
  rw [execColdResetRelease, h]
  rfl

/-- Settles O9: each command's next state is written out, and what it changes can be read off. -/
theorem powerOnAndColdResetRelease : Obligations.PowerOnAndColdResetRelease := by
  refine ⟨⟨fun s h => ?_, fun s => ?_⟩, fun st s h => ?_, fun s h hr hd => ?_, fun s => ?_⟩
  · exact ⟨_, exec_powerOn h, rfl, rfl, rfl, rfl, rfl, rfl, State.dark_initial s.cfg, rfl, rfl, rfl, fun _ => rfl⟩
  · exact ⟨_, rfl, rfl, rfl, rfl, State.dark_initial s.cfg, rfl, rfl, fun _ => rfl⟩
  · refine ⟨_, exec_coldResetRelease st h, rfl, rfl, rfl, rfl, rfl, rfl, ?_⟩
    intro f hf; cases f <;> first | rfl | exact absurd (by decide) hf
  · refine ⟨_, exec_registerPortReady h hr, rfl, State.keeps_withClk _ _, fun hq => ?_⟩
    have ht := s.untilLocal_localTime 128 hd hq
    refine ⟨?_, ?_, ((s.keeps_untilLocal 128 hq).andThen (State.keeps_withClk _ _)).mono (by decide)⟩
    all_goals dsimp only; omega
  · exact ⟨_, exec_testReset s, rfl, s.keeps_withTap _⟩

/-! ## Steps of start-up -/

theorem State.keeps_checkStrap (s : State) (p : Nat) : s.keeps (s.checkStrap p) [.ports, .gln] :=
  State.keeps_ite (s.keeps_setPort _ _ _) (State.keeps_ite (s.keeps_refl _) (s.keeps_setPort _ _ _))

theorem State.keeps_releaseBypass (s : State) (i : Nat) : s.keeps (s.releaseBypass i) [.aon, .ports, .gln] := by
  unfold State.releaseBypass
  split
  extract_lets u wait
  have hw (v : State) (p : Nat) : v.keeps (wait v p) [.ports, .gln] :=
    ((v.keeps_onPort _ _).andThen (State.keeps_setPort _ _ _ _)).mono (by decide)
  exact (((s.keeps_onAon _).andThen (hw u _)).andThen (hw _ _)).mono (by decide)

theorem State.keeps_settlePort (s : State) (p : Nat) : s.keeps (s.settlePort p) [.ports, .gln, .free] := by
  unfold State.settlePort
  split
  next st r _ => exact (s.keeps_setPort p st r).mono (by decide)
  next st _ =>
    have h (r : Nat) : s.keeps (s.fresh.2.setPort p st r) [.ports, .gln, .free] :=
      (s.keeps_fresh.andThen (s.fresh.2.keeps_setPort p st r)).mono (by decide)
    exact State.keeps_ite (s.keeps_refl _) (h _)

theorem State.keeps_applyIdentities (s : State) : s.keeps s.applyIdentities [.ports, .gln, .free] :=
  State.keeps_foldl _ (fun s p => State.keeps_ite (s.keeps_settlePort p) (s.keeps_refl _)) _ _

theorem State.keeps_identityRefresh (s : State) : s.keeps s.identityRefresh [.coll] :=
  State.keeps_foldl _ (fun s _ => s.keeps_send _) _ _

/-- The ready message leaves start-up in phase 0x09 (R107). -/
theorem State.ready_phase (s : State) : s.ready.boot.phase = 9 := by
  unfold State.ready
  extract_lets u c v w
  have hv : u.keeps v [.mbx] := State.keeps_ite (u.keeps_refl _) (u.keeps_post _ _)
  have hw : w.keeps ((w.onAon fun a => { a with power := w.readyState }).identityRefresh).applyIdentities [.aon, .coll, .ports, .gln, .free] :=
    (((w.keeps_onAon _).andThen (State.keeps_identityRefresh _)).andThen (State.keeps_applyIdentities _)).mono (by decide)
  rw [hw.boot]
  show v.boot.phase = 9
  rw [hv.boot]
  rfl

/-- Phase 0x08 stays until no port is training any more, and then phase 0x09 follows. -/
theorem State.endPhase8_phase (h : s.boot.phase = 8) : s.endPhase8.boot.phase = 8 ∨ s.endPhase8.boot.phase = 9 := by
  unfold State.endPhase8
  split
  · exact .inr s.ready_phase
  · exact .inl h

theorem State.startPhase8_phase (s : State) : s.startPhase8.boot.phase = 8 ∨ s.startPhase8.boot.phase = 9 := by
  unfold State.startPhase8
  extract_lets u v w
  have hv : u.keeps v [.ports, .gln] := State.keeps_foldl _ (fun s p => s.keeps_startTraining p) _ _
  have hw : v.keeps w [.aon, .ports, .gln] := State.keeps_foldl _ (fun s i => s.keeps_releaseBypass i) _ _
  refine State.endPhase8_phase ?_
  rw [hw.boot, hv.boot]
  rfl

/-- With debug closed the fuse reads begin, and only the start-up registers change. -/
theorem State.startPhase4_closed (h : s.aon.debug = .closed) : s.startPhase4 =
    s.onBoot fun b => { b with phase := 4, since := s.clk.localTime, fuseIndex := 0, secReq := true } := by
  unfold State.startPhase4
  rw [if_pos (by exact h)]
  rfl

theorem failed_of_startFail {u : State} (h : s.keeps u [.boot]) (r : Nat) (l : Option SramLoc) :
    s.failedFrom (u.startFail r l) (BitVec.ofNat 8 r) := (u.startFail_spec r l).trans (h.mono (by decide))

/-- The straps are checked between phases 0x01 and 0x03 (R69, R78). -/
theorem exec_referenceCheckDone (hp : s.aon.power = .starting) (h1 : s.boot.phase = 1) : exec .referenceCheckDone s = .next
    (let u := (s.untilLocal 320).onBoot fun b => { b with phase := 2 }
     if u.fedStrapsOk then
       let v := (List.range u.cfg.nPort).foldl State.checkStrap u
       v.onBoot fun b => { b with phase := 3, since := v.clk.localTime }
     else u.startFail 0x02 none) := by
  show execReferenceCheckDone s = _
  unfold execReferenceCheckDone
  rw [if_pos ⟨hp, h1⟩]
  dsimp only
  split <;> rfl

theorem exec_federationCheckDone (hp : s.aon.power = .starting) (h7 : s.boot.phase = 7) (hf : s.federated = true)
    (hr : ∀ e ∈ s.fedPorts, (s.portAt e).partner.isSome = true) :
    exec .federationCheckDone s = .next (if s.fedPorts.all s.fedEqual then s.startPhase8 else s.startFail 0x02 none) := by
  show execFederationCheckDone s = _
  unfold execFederationCheckDone
  rw [if_pos ⟨hp, h7, hf, List.all_eq_true.2 hr⟩]
  split <;> rfl

theorem exec_bistDone_fences (failed : List SramLoc) (hp : s.aon.power = .starting) (h3 : s.boot.phase = 3)
    (hc : failed.any centralMem = false) (hn : (bistCores (s.cfg.nActive + s.cfg.nSpare) failed).length ≤ s.cfg.nSpare) :
    exec (.bistDone failed) s = .next (((s.onCores fun c => c.bistFence s.cfg.nActive (bistCores (s.cfg.nActive + s.cfg.nSpare) failed)).onBoot
      fun b => { b with fenced := (bistCores (s.cfg.nActive + s.cfg.nSpare) failed).length }).startPhase4) := by
  have hnone : failed.find? centralMem = none := by
    rw [List.find?_eq_none]
    intro l hl h
    exact absurd (List.any_eq_true.2 ⟨l, hl, h⟩) (by simp [hc])
  show execBistDone failed s = _
  unfold execBistDone
  rw [if_pos ⟨hp, h3⟩, hnone]
  dsimp only
  rw [if_neg (by omega)]

/-- Settles O11: each row's check decides between the next phase and a failure of start-up. -/
theorem dieChecksAdvanceOrEndStartUp : Obligations.DieChecksAdvanceOrEndStartUp := by
  refine ⟨fun s hp h1 => ?_, fun s hp h7 hf hr => ?_, fun failed s hp h3 hd hc hn => ?_, fun s hp => ⟨fun loc h3 => ?_, fun h4 hq => ?_, fun h7 => ?_⟩⟩
  · intro u
    refine ⟨_, exec_referenceCheckDone hp h1, fun hok => ?_, fun hok => ?_⟩ <;> extract_lets v w
    · have hv : v.fedStrapsOk = true := hok
      have hw : v.keeps w [.ports, .gln] := State.keeps_foldl _ (fun s p => s.keeps_checkStrap p) _ _
      rw [if_pos hv]
      refine ⟨?_, (((u.keeps_onBoot _).andThen hw).andThen (w.keeps_onBoot _)).mono (by decide)⟩
      show ({ w.boot with phase := 3, since := w.clk.localTime } : Boot) = _
      rw [hw.boot, hw.clk]
      rfl
    · have hv : ¬ v.fedStrapsOk = true := fun h => absurd (hok.symm.trans h) (by decide)
      rw [if_neg hv]
      exact failed_of_startFail (u.keeps_onBoot _) _ _
  · refine ⟨_, exec_federationCheckDone hp h7 hf hr, fun he => ?_, fun ⟨e, he, hne⟩ => ?_⟩
    · rw [if_pos (List.all_eq_true.2 he)]
      exact s.startPhase8_phase
    · rw [if_neg fun h => by simp [List.all_eq_true.1 h e he] at hne]
      exact s.startFail_spec _ _
  · refine ⟨_, exec_bistDone_fences failed hp h3 hc hn, ?_⟩
    rw [State.startPhase4_closed (by exact hd)]
    exact ⟨rfl, rfl, (((s.keeps_onCores _).andThen (State.keeps_onBoot _ _)).andThen (State.keeps_onBoot _ _)).mono (by decide)⟩
  · exact ⟨_, if_pos ⟨hp, h3⟩, State.startFail_spec _ _ _⟩
  · exact ⟨_, if_pos ⟨hp, h4, hq⟩, State.startFail_spec _ _ _⟩
  · exact ⟨_, if_pos ⟨hp, h7⟩, State.startFail_spec _ _ _⟩

/-! ## Fuse words -/

theorem State.keeps_startPhase7 (h : s.federated = true) : s.keeps s.startPhase7 [.boot, .ports, .gln] := by
  unfold State.startPhase7
  rw [if_pos (by exact h)]
  exact ((s.keeps_onBoot _).andThen (State.keeps_foldl _ (fun s p => s.keeps_startTraining p) _ _)).mono (by decide)

/-- Phase 0x07 of a federated part begins without a word from the start-up registers but its own. -/
theorem State.startPhase7_secReq (h : s.federated = true) : s.startPhase7.boot.secReq = s.boot.secReq := by
  unfold State.startPhase7
  rw [if_pos (by exact h)]
  exact (congrArg Boot.secReq (State.keeps_foldl _ (fun s p => s.keeps_startTraining p) _ _).boot).trans rfl

theorem State.federated_of_slave (h : s.slave = true) : s.federated = true := by
  rw [State.slave, Bool.and_eq_true] at h
  exact h.1

/-- A fuse word that is taken leaves the phase, the straps and the request. -/
theorem Boot.fuse_frame (b : Boot) (i : Nat) (w : Word) :
    (b.fuse i w).phase = b.phase ∧ (b.fuse i w).secReq = b.secReq ∧ (b.fuse i w).straps = b.straps := by
  unfold Boot.fuse
  split_ifs <;> exact ⟨rfl, rfl, rfl⟩

@[simp] theorem Boot.fusesDone_straps (b : Boot) : b.fusesDone.straps = b.straps := by
  unfold Boot.fusesDone
  split <;> rfl

/-- The state in which a fuse word has been taken by the index that was asked for. -/
def State.fuseTaken (s : State) (w : Word) : State := s.onBoot fun b => b.fuse s.boot.fuseIndex w

/-- A word before the last one asks for the next (R73). -/
theorem exec_fuseReadAck_next (w : Word) (hp : s.aon.power = .starting) (h4 : s.boot.phase = 4) (hq : s.boot.secReq = true)
    (hi : (s.untilLocal s.boot.since).boot.fuseIndex < 31) : exec (.fuseReadAck w false) s = .next
      (let u := s.untilLocal s.boot.since
       (u.fuseTaken w).onBoot fun b => { b with fuseIndex := u.boot.fuseIndex + 1, since := u.nextSecReq }) := by
  show execFuseReadAck w false s = _
  unfold execFuseReadAck
  rw [if_pos ⟨hp, h4, hq⟩]
  exact if_pos hi

/-- The last word ends the reads: a slave waits for its master, every other die for an image (R101). -/
theorem exec_fuseReadAck_last (w : Word) (hp : s.aon.power = .starting) (h4 : s.boot.phase = 4) (hq : s.boot.secReq = true)
    (hi : ¬ (s.untilLocal s.boot.since).boot.fuseIndex < 31) : exec (.fuseReadAck w false) s = .next
      (let v := ((s.untilLocal s.boot.since).fuseTaken w).onBoot fun b => { b.fusesDone with secReq := false }
       if v.slave then v.startPhase7 else v.onBoot fun b => { b with phase := 5, since := v.clk.localTime }) := by
  show execFuseReadAck w false s = _
  unfold execFuseReadAck
  rw [if_pos ⟨hp, h4, hq⟩]
  exact (if_neg hi).trans (apply_ite Host.Outcome.next ..).symm

/-- The next request rises in a cycle that is still to come. -/
theorem State.lt_nextSecReq (s : State) : s.clk.localTime < s.nextSecReq := by
  unfold State.nextSecReq
  omega

/-- The mask of the low word of two. -/
theorem getLsbD_lowWord (i : Nat) : (0xFFFFFFFFFFFFFFFF : BitVec 128).getLsbD i = decide (i < 64) := by
  have h : (0xFFFFFFFFFFFFFFFF : BitVec 128) = (BitVec.allOnes 64).setWidth 128 := rfl
  rw [h, BitVec.getLsbD_setWidth, BitVec.getLsbD_allOnes, ← Bool.decide_and]
  exact decide_eq_decide.2 ⟨And.right, fun hi => ⟨by omega, hi⟩⟩

section
variable {m : BitVec 128} (hm : ∀ i, m.getLsbD i = decide (i < 64)) (x : BitVec 128) (w : Word)
include hm

/-- Under the mask of the low word: that word is replaced, and the other one stays. -/
theorem lowWord_replaced : (x &&& ~~~m ||| w.setWidth 128).setWidth 64 = w ∧ (x &&& ~~~m ||| w.setWidth 128) >>> 64 = x >>> 64 := by
  constructor <;> apply BitVec.eq_of_getLsbD_eq <;> intro i hi
  · simp [hm, hi, show i < 128 by omega]
  · have h : x.getLsbD (64 + i) = true → 64 + i < 128 := BitVec.lt_of_getLsbD
    rw [Bool.eq_iff_iff]
    simp [hm]
    omega

theorem highWord_replaced : ((x &&& m ||| (w.setWidth 128 <<< 64)) >>> 64).setWidth 64 = w := by
  apply BitVec.eq_of_getLsbD_eq
  intro i hi
  have hz : m.getLsbD (64 + i) = false := by rw [hm]; exact decide_eq_false (by omega)
  simp only [BitVec.getLsbD_setWidth, BitVec.getLsbD_ushiftRight, BitVec.getLsbD_or, BitVec.getLsbD_and, hz, BitVec.getLsbD_shiftLeft]
  simp [hi, show 64 + i < 128 by omega, show i < 128 by omega]
end

/-- Settles O13: the row before the last word, and the row of the last. -/
theorem fuseWordsAreTakenInOrder : Obligations.FuseWordsAreTakenInOrder := by
  intro w s hp h4 hq u i
  obtain ⟨hphase, hreq, hstraps⟩ := u.boot.fuse_frame i w
  by_cases hi : i < 31
  · refine ⟨_, exec_fuseReadAck_next w hp h4 hq hi, ?_, fun _ => ?_, fun _ => ⟨rfl, rfl, hreq, hphase⟩, fun h8 => ?_, fun h9 => ?_,
      fun h11 => ?_, fun h12 _ => ?_, fun h => by omega⟩
    · show ((u.boot.fuse i w).secReq && decide (u.nextSecReq ≤ u.clk.localTime)) = false
      rw [decide_eq_false (by have := u.lt_nextSecReq; omega), Bool.and_false]
    · exact ((u.keeps_onBoot _).andThen (State.keeps_onBoot _ _)).mono (by decide)
    · show (u.boot.fuse i w).serial.setWidth 64 = w ∧ (u.boot.fuse i w).serial >>> 64 = u.boot.serial >>> 64
      rw [h8]
      exact lowWord_replaced getLsbD_lowWord _ _
    · show ((u.boot.fuse i w).serial >>> 64).setWidth 64 = w
      rw [h9]
      exact highWord_replaced getLsbD_lowWord _ _
    · show (u.boot.fuse i w).keysProgrammed = _
      rw [h11]
      rfl
    · show ({ u.boot.fuse i w with fuseIndex := i + 1, since := u.nextSecReq } : Boot) = _
      unfold Boot.fuse
      split_ifs <;> first | omega | rfl
  · refine ⟨_, exec_fuseReadAck_last w hp h4 hq hi, ?_⟩
    extract_lets v
    have hslave : v.slave = u.slave := by
      show (v.boot.straps.fedDies != 0 && !v.boot.straps.fedMaster) = _
      rw [show v.boot.straps = u.boot.straps from (Boot.fusesDone_straps _).trans hstraps]
      rfl
    have hoff (t : State) (h : t.boot.secReq = false) : t.secRdReq = false := by rw [State.secRdReq, h, Bool.false_and]
    refine ⟨?_, fun h => ?_, fun h => absurd h hi, fun h => absurd h (by omega), fun h => absurd h (by omega), fun h => absurd h (by omega),
      fun _ h => absurd h hi, fun _ h => ?_⟩
    · split
      next hs => exact hoff _ (State.startPhase7_secReq (State.federated_of_slave hs))
      next => exact hoff _ rfl
    · rw [if_neg (by rw [hslave, h.resolve_left hi]; decide)]
      exact (((u.keeps_onBoot _).andThen (State.keeps_onBoot _ _)).andThen (State.keeps_onBoot _ _)).mono (by decide)
    · rw [if_neg (by rw [hslave, h]; decide)]
      exact ⟨rfl, rfl⟩

end Sys2Proof.Machine
end

section
/-! PROOFS. Main reset, and the halt of a lost clock or reference: every port drops and all scheduled work stops (02 R50; 03 R95, R96, R108). -/

namespace Sys2Proof.Machine

variable {s : State}

/-! ## Main reset -/

theorem exec_mainResetAssert (pin : ResetPin) (h : s.released = true) : exec (.mainResetAssert pin) s = .next
    (s.mainCleared { s.aon with power := .standby, bypass := List.replicate s.cfg.nPair true
                                resetCause := (match pin with | .rstN => .coldPin | _ => .coldSupply)
                                resetReason := s.aon.firstFatal, firstAt := none, boundaryHalt := 0 }) := by
  show execMainResetAssert pin s = _
  unfold execMainResetAssert
  exact if_pos h

theorem State.mainCleared_dark (s : State) (a : Aon) (h : a.bypass = List.replicate s.cfg.nPair true) : (s.mainCleared a).dark := by
  obtain ⟨hp, hb⟩ := State.dark_initial s.cfg
  exact ⟨hp, fun i hi => (congrArg (List.getD · i true) h).trans (hb i hi)⟩

theorem State.initial_partAt (c : Cfg) (d : Nat) : (State.initial c).partAt d = Domain.initial := getD_replicate_self ..

theorem State.initial_seqAt (c : Cfg) (q : Nat) : (State.initial c).seqAt q = Sequencer.initial := getD_replicate_self ..

/-! ## Every port drops -/

/-- One port drops, its loopback with it. -/
def State.dropPort (s : State) (p : Nat) : State := (s.portDown p 0x09).onPort p fun q => { q with phyLpbk := false }

/-- Every port dropped, before the pairs enter bypass. -/
def State.portsDropped (s : State) : State := (List.range s.cfg.nPort).foldl State.dropPort s

theorem State.dropAllPorts_eq (s : State) :
    s.dropAllPorts = (List.range s.portsDropped.cfg.nPair).foldl State.assertBypass s.portsDropped := rfl

theorem State.keeps_portsDropped (s : State) : s.keeps s.portsDropped [.ports, .gln] :=
  State.keeps_foldl _ (fun s p => ((s.keeps_portDown p 0x09).andThen (State.keeps_onPort _ _ _)).mono (by decide)) _ _

theorem State.keeps_dropAllPorts (s : State) : s.keeps s.dropAllPorts [.ports, .gln, .aon] :=
  (s.keeps_portsDropped.andThen (State.keeps_foldl _ (fun s i => s.keeps_assertBypass i) _ _)).mono (by decide)

/-- Bypass asserted at any number of pairs changes the island's bypass outputs alone. -/
theorem State.foldl_assertBypass_aon (l : List Nat) : ∀ s : State, ∃ b, (l.foldl State.assertBypass s).aon = { s.aon with bypass := b } := by
  induction l with
  | nil => exact fun s => ⟨s.aon.bypass, rfl⟩
  | cons i l ih =>
    intro s
    obtain ⟨b, hb⟩ := ih (s.assertBypass i)
    exact ⟨b, hb⟩

theorem State.foldl_assertBypass_phyEn (p : Nat) (l : List Nat) :
    ∀ s : State, (s.portAt p).phyEn = false → ((l.foldl State.assertBypass s).portAt p).phyEn = false := by
  induction l with
  | nil => exact fun s h => h
  | cons i l ih => exact fun s h => ih _ (s.phyEn_assertBypass i p h)

theorem State.setPort_phyEn (p q : Nat) (st : PortState) (r : Nat) : ((s.setPort p st r).portAt q).phyEn = (s.portAt q).phyEn := by
  rw [State.setPort_portAt]
  split <;> rfl

theorem State.portOff_phyEn (p q : Nat) (st : PortState) (r : Nat) (h : p = q ∨ (s.portAt q).phyEn = false) :
    ((s.portOff p st r).portAt q).phyEn = false := by
  unfold State.portOff
  rw [State.setPort_phyEn, State.onPort_portAt]
  split
  next => rfl
  next hn =>
    rcases h with h | h
    · rw [State.portAt, List.getD_eq_default _ _ (by by_contra hl; exact hn ⟨h, by omega⟩)]
      rfl
    · exact h

theorem State.portDown_phyEn (p q r : Nat) (h : p = q ∨ (s.portAt q).phyEn = false) : ((s.portDown p r).portAt q).phyEn = false := by
  unfold State.portDown
  split_ifs <;> exact State.portOff_phyEn _ _ _ _ h

theorem State.dropPort_phyEn (p q : Nat) (h : p = q ∨ (s.portAt q).phyEn = false) : ((s.dropPort p).portAt q).phyEn = false := by
  unfold State.dropPort
  rw [State.onPort_portAt]
  split <;> exact State.portDown_phyEn _ _ _ h

theorem State.foldl_dropPort_phyEn (n q : Nat) (hq : q < n) : (((List.range n).foldl State.dropPort s).portAt q).phyEn = false := by
  induction n with
  | zero => omega
  | succ n ih =>
    rw [List.range_succ, List.foldl_append]
    refine State.dropPort_phyEn _ _ ?_
    rcases Nat.lt_succ_iff_lt_or_eq.1 hq with h | h
    · exact .inr (ih h)
    · exact .inl h.symm

theorem State.dropAllPorts_dark (s : State) : s.dropAllPorts.dark := by
  have hc : s.dropAllPorts.cfg = s.cfg := s.keeps_dropAllPorts.cfg
  refine ⟨fun p hp => ?_, fun i hi => ?_⟩
  · exact State.foldl_assertBypass_phyEn p _ _ (State.foldl_dropPort_phyEn _ p (hc ▸ hp))
  · rw [State.dropAllPorts_eq]
    exact State.foldl_assertBypass _ _ i (by rw [s.keeps_portsDropped.cfg]; exact hc ▸ hi)

/-- Of the island, only the bypass outputs move. -/
theorem State.dropAllPorts_aon (s : State) : ∃ b, s.dropAllPorts.aon = { s.aon with bypass := b } := by
  obtain ⟨b, hb⟩ := State.foldl_assertBypass_aon (List.range s.portsDropped.cfg.nPair) s.portsDropped
  exact ⟨b, by rw [State.dropAllPorts_eq, hb, s.keeps_portsDropped.aon]⟩

/-! ## Scheduled work stops -/

/-- What dropping a sequencer's work does to a port: of a port of its domain the waiting cells go. -/
theorem State.dropWork_portAt (d p : Nat) :
    (s.dropWork d).portAt p = if s.portDomain p = some d ∧ p < s.ports.length then { s.portAt p with queue := [] } else s.portAt p := by
  show (((List.range s.ports.length).zip s.ports).map _).getD p Port.initial = _
  rw [List.getD_eq_getElem?_getD, List.getElem?_map]
  by_cases hp : p < s.ports.length
  · have hz : ((List.range s.ports.length).zip s.ports)[p]? = some (p, s.ports[p]) := by
      rw [List.getElem?_zip_eq_some]
      exact ⟨by simp [hp], List.getElem?_eq_getElem hp⟩
    have hs : s.portAt p = s.ports[p] := List.getD_eq_getElem _ _ hp
    rw [hz, hs]
    simp only [Option.map_some, Option.getD_some, hp, and_true]
  · rw [if_neg fun h => hp h.2, List.getElem?_eq_none (by simpa using hp), State.portAt, List.getD_eq_default _ _ (by omega)]
    rfl

theorem State.keeps_dropWork (s : State) (d : Nat) : s.keeps (s.dropWork d) [.agenda, .ports, .cores] := by
  intro f hf; cases f <;> first | rfl | exact absurd (by decide) hf

theorem State.mem_dropWork_agenda (d : Nat) (x : Dated) :
    x ∈ (s.dropWork d).agenda ↔ x ∈ s.agenda ∧ (x.seq = d → x.cycle ≤ s.clk.rackTime) := by
  show x ∈ s.agenda.filter _ ↔ _
  rw [List.mem_filter]
  simp [Classical.or_iff_not_imp_left]

theorem State.keeps_onRun (s : State) (q : Nat) (f : Run → Run) : s.keeps (s.onRun q f) [.seqs] := s.keeps_onSeq _ _

/-- The run of a sequencer that was updated, and the runs of the others. -/
theorem State.onRun_run (q i : Nat) (f : Run → Run) :
    ((s.onRun q f).seqAt i).run = if q = i then (s.seqAt i).run.map f else (s.seqAt i).run := by
  unfold State.onRun
  rw [State.onSeq_seqAt]
  by_cases h : q = i
  · by_cases hl : i < s.seqs.length
    · rw [if_pos ⟨h, hl⟩, if_pos h]
    · rw [if_neg fun k => hl k.2, if_pos h, State.seqAt, List.getD_eq_default _ _ (by omega)]
      rfl
  · rw [if_neg fun k => h k.1, if_neg h]

/-- A run with nothing in flight and no line awaited (R50). -/
def Run.stilled (r : Run) : Run := { r with flight := [], stamps := [] }

/-- A state in which a sequencer's scheduled work has stopped. -/
def State.still (s : State) (d : Nat) : Prop :=
  (∀ r, (s.seqAt d).run = some r → r.flight = [] ∧ r.stamps = []) ∧
    ∀ x ∈ s.agenda, x.seq = d → (s.seqAt d).run.isSome = true → x.cycle ≤ s.clk.rackTime

/-- What stopping the work of sequencer d leaves of a sequencer and of the agenda. -/
theorem State.stopWork_run (d i : Nat) :
    ((s.stopWork d).seqAt i).run = if d = i then (s.seqAt i).run.map Run.stilled else (s.seqAt i).run := by
  unfold State.stopWork
  by_cases h : (s.seqAt d).run.isSome = true
  · rw [if_pos h]
    dsimp only
    split <;> exact State.onRun_run d i Run.stilled
  · rw [if_neg h]
    split
    next hd => rw [← hd, Option.not_isSome_iff_eq_none.1 h]; rfl
    next => rfl

theorem State.keeps_stopWork (s : State) (d : Nat) : s.keeps (s.stopWork d) [.seqs, .agenda, .ports, .cores, .coup] := by
  have hw : s.keeps ((s.onRun d Run.stilled).dropWork d) [.seqs, .agenda, .ports, .cores, .coup] :=
    ((s.keeps_onRun d _).andThen (State.keeps_dropWork _ d)).mono (by decide)
  refine State.keeps_ite (State.keeps_ite ?_ hw) (s.keeps_refl _)
  exact (hw.andThen (State.keeps_onCoup _ _)).mono (by decide)

theorem State.mem_stopWork_agenda (d : Nat) (x : Dated) : x ∈ (s.stopWork d).agenda ↔
    x ∈ s.agenda ∧ (x.seq = d → (s.seqAt d).run.isSome = true → x.cycle ≤ s.clk.rackTime) := by
  unfold State.stopWork
  by_cases h : (s.seqAt d).run.isSome = true
  · rw [if_pos h]
    simp only [h, forall_const]
    split <;> exact State.mem_dropWork_agenda d x
  · rw [if_neg h]
    simp [h]

theorem State.stopWork_phyEn (d p : Nat) : ((s.stopWork d).portAt p).phyEn = (s.portAt p).phyEn := by
  have hw : (((s.onRun d Run.stilled).dropWork d).portAt p).phyEn = (s.portAt p).phyEn := by
    rw [State.dropWork_portAt]
    split <;> rfl
  unfold State.stopWork
  split
  · dsimp only
    split <;> exact hw
  · rfl

/-- The work of d has stopped, and that of every other sequencer that had stopped stays so. -/
theorem State.stopWork_still (d i : Nat) (h : d = i ∨ s.still i) : (s.stopWork d).still i := by
  have hclk : (s.stopWork d).clk = s.clk := (s.keeps_stopWork d).clk
  refine ⟨fun r hr => ?_, fun x hx hi hs => ?_⟩
  · rw [State.stopWork_run] at hr
    split at hr
    next =>
      obtain ⟨z, _, rfl⟩ := Option.map_eq_some_iff.1 hr
      exact ⟨rfl, rfl⟩
    next hn => exact (h.resolve_left hn).1 r hr
  · obtain ⟨hm, hd⟩ := (State.mem_stopWork_agenda d x).1 hx
    have hrun : (s.seqAt i).run.isSome = true := by
      rw [State.stopWork_run] at hs
      split at hs
      next => simpa using hs
      next => exact hs
    rw [hclk]
    rcases h with rfl | h
    · exact hd hi hrun
    · exact h.2 x hm hi hrun

theorem State.foldl_stopWork_still (n i : Nat) (hi : i < n) : ((List.range n).foldl State.stopWork s).still i := by
  induction n with
  | zero => omega
  | succ n ih =>
    rw [List.range_succ, List.foldl_append]
    refine State.stopWork_still _ _ ?_
    rcases Nat.lt_succ_iff_lt_or_eq.1 hi with h | h
    · exact .inr (ih h)
    · exact .inl h.symm

theorem State.foldl_stopWork_isSome (l : List Nat) (i : Nat) : ∀ s : State,
    ((l.foldl State.stopWork s).seqAt i).run.isSome = (s.seqAt i).run.isSome := by
  induction l with
  | nil => exact fun s => rfl
  | cons d l ih =>
    intro s
    rw [List.foldl_cons, ih, State.stopWork_run]
    split
    · rw [Option.isSome_map]
    · rfl

theorem State.foldl_stopWork_phyEn (l : List Nat) (p : Nat) : ∀ s : State,
    ((l.foldl State.stopWork s).portAt p).phyEn = (s.portAt p).phyEn := by
  induction l with
  | nil => exact fun s => rfl
  | cons d l ih => exact fun s => (ih _).trans (State.stopWork_phyEn d p)

/-! ## The halt -/

theorem State.keeps_enterHalted (s : State) : s.keeps s.enterHalted [.aon, .kol] :=
  ((s.keeps_onAon _).andThen (State.keeps_onKol _ _)).mono (by decide)

theorem State.keeps_dropQueues (s : State) : s.keeps s.dropQueues [.seqs, .kol, .mbx] := by
  unfold State.dropQueues
  extract_lets u v
  have hu : s.keeps u [.seqs] := by
    intro f hf; cases f <;> first | rfl | exact absurd (by decide) hf
  exact ((hu.andThen (u.keeps_onKol _)).andThen (State.keeps_foldl _ (fun s r => s.keeps_complete r 0x11 0 0 0 0) _ _)).mono (by decide)

theorem State.dropQueues_seqs (s : State) : s.dropQueues.seqs = s.seqs.map fun q => { q with runq := [] } := by
  unfold State.dropQueues
  extract_lets u v
  exact (State.keeps_foldl _ (fun s r => s.keeps_complete r 0x11 0 0 0 0) _ v).seqs

theorem State.dropQueues_run (s : State) (i : Nat) : (s.dropQueues.seqAt i).run = (s.seqAt i).run := by
  rw [State.seqAt, State.dropQueues_seqs, State.seqAt, List.getD_eq_getElem?_getD, List.getD_eq_getElem?_getD, List.getElem?_map]
  cases s.seqs[i]? <;> rfl

/-- The halt of a block that serves: nothing is driven, nothing is queued and all scheduled work has stopped (R50, R108). -/
structure State.halted (s t : State) : Prop where
  aon : ∃ b, t.aon = { s.aon with power := .halted, bypass := b }
  dark : t.dark
  queues : ∀ q ∈ t.seqs, q.runq = []
  still : ∀ i, i < s.cfg.nSeq → t.still i
  running : ∀ i, (t.seqAt i).run.isSome = (s.seqAt i).run.isSome
  keeps : s.keeps t [.aon, .ports, .gln, .seqs, .kol, .mbx, .agenda, .cores, .coup]

theorem State.linkLossHalt_halted (h : s.aon.power.serves = true) : s.halted s.linkLossHalt := by
  obtain ⟨b, hb⟩ := s.dropAllPorts_aon
  let u := s.dropAllPorts
  let v := (List.range u.cfg.nSeq).foldl State.stopWork u
  have hu : s.keeps u [.ports, .gln, .aon] := s.keeps_dropAllPorts
  have hv : u.keeps v [.seqs, .agenda, .ports, .cores, .coup] := State.keeps_foldl _ (fun s d => s.keeps_stopWork d) _ _
  have ht : s.linkLossHalt = v.enterHalted.dropQueues := if_pos (by rw [hb]; exact h)
  have hk : v.keeps v.enterHalted.dropQueues [.aon, .kol, .seqs, .mbx] :=
    (v.keeps_enterHalted.andThen (State.keeps_dropQueues _)).mono (by decide)
  have hrun (i : Nat) : (v.enterHalted.dropQueues.seqAt i).run = (v.seqAt i).run := State.dropQueues_run _ _
  have haon : v.enterHalted.dropQueues.aon = { s.aon with power := .halted, bypass := b } := by
    rw [(State.keeps_dropQueues _).aon]
    show ({ v.aon with power := .halted } : Aon) = _
    rw [hv.aon, hb]
  rw [ht]
  refine ⟨⟨b, haon⟩, ?_, fun q hq => ?_, fun i hi => ?_, fun i => ?_, ((hu.andThen hv).andThen hk).mono (by decide)⟩
  · obtain ⟨hp, hbp⟩ := s.dropAllPorts_dark
    refine ⟨fun p hp' => ?_, fun i hi => ?_⟩
    · rw [hk.cfg, hv.cfg] at hp'
      rw [State.portAt, hk.ports]
      exact (State.foldl_stopWork_phyEn _ p u).trans (hp p hp')
    · rw [hk.cfg, hv.cfg] at hi
      rw [haon]
      have := hbp i hi
      rwa [hb] at this
  · rw [State.dropQueues_seqs] at hq
    obtain ⟨x, _, rfl⟩ := List.mem_map.1 hq
    rfl
  · obtain ⟨h1, h2⟩ := State.foldl_stopWork_still (s := u) u.cfg.nSeq i (by rw [hu.cfg]; exact hi)
    refine ⟨fun r hr => h1 r ((hrun i).symm.trans hr), fun x hx hxi hs => ?_⟩
    rw [hk.agenda] at hx
    rw [hk.clk]
    exact h2 x hx hxi (by rw [← hrun i]; exact hs)
  · rw [hrun, State.foldl_stopWork_isSome]
    exact congrArg (fun l => (List.getD l i Sequencer.initial).run.isSome) hu.seqs

/-- A running block that loses a clock latches the alarm and halts. -/
theorem exec_clockLoss_running (h : s.aon.power = .running) : exec .clockLoss s = .next (s.latchFatal 0x01 none).linkLossHalt := by
  show execClockLoss s = _
  unfold execClockLoss
  rw [if_pos (by rw [State.released, h]), h]

theorem exec_refLoss_running (h : s.aon.power = .running) : exec .refLoss s = .next (s.latchFatal 0x02 none).linkLossHalt := by
  show execRefLoss s = _
  unfold execRefLoss
  rw [h]

/-- What a halt after a fatal alarm leaves, in the words of the obligation. -/
theorem State.latched_halt (c : Nat) (h : s.aon.power = .running) : let t := (s.latchFatal c none).linkLossHalt
    t.aon.power = .halted ∧ t.aon.alarmPulled = true ∧ t.aon.fatal = s.aon.fatal ||| BitVec.ofNat 32 (2 ^ (c - 1)) ∧
      (s.aon.firstFatal = 0 → t.aon.firstFatal.setWidth 32 = (BitVec.ofNat 8 c).setWidth 32) ∧ t.dark ∧ (∀ q ∈ t.seqs, q.runq = []) ∧
      (∀ q r, q < s.cfg.nSeq → (t.seqAt q).run = some r → r.flight = [] ∧ r.stamps = []) ∧
      (∀ x ∈ t.agenda, x.seq < s.cfg.nSeq → (s.seqAt x.seq).run.isSome = true → x.cycle ≤ s.clk.rackTime) ∧ t.coll.tx = s.coll.tx ∧
      s.keeps t [.aon, .ports, .gln, .seqs, .kol, .mbx, .agenda, .cores, .coup] := by
  intro t
  obtain ⟨hfatal, hpulled, hfirst, hpower, -, -, -⟩ := s.latchFatal_aon c none
  have hl := s.keeps_latchFatal c none
  obtain ⟨⟨b, hb⟩, hdark, hq, hstill, hrun, hk⟩ := State.linkLossHalt_halted (s := s.latchFatal c none) (by rw [hpower, h]; rfl)
  have hkt := (hl.andThen hk).mono (k := [.aon, .ports, .gln, .seqs, .kol, .mbx, .agenda, .cores, .coup]) (by decide)
  refine ⟨by rw [hb], by rw [hb]; exact hpulled, by rw [hb]; exact hfatal, fun h0 => by rw [hb]; exact congrArg _ (hfirst h0), hdark, hq,
    fun q r hi => (hstill q (by rw [hl.cfg]; exact hi)).1 r, fun x hx hi hs => ?_, by rw [hkt.coll], hkt⟩
  have := (hstill x.seq (by rw [hl.cfg]; exact hi)).2 x hx rfl (by rw [hrun, State.seqAt, hl.seqs]; exact hs)
  rwa [hkt.clk] at this

/-- Settles O10: main reset is the initial state with the island kept; both losses are the alarm and the halt. -/
theorem mainResetAndClockLossStopTheBlock : Obligations.MainResetAndClockLossStopTheBlock := by
  refine ⟨fun pin s h => ?_, fun s h _ => ⟨⟨_, exec_clockLoss_running h, State.latched_halt 1 h⟩, ⟨_, exec_refLoss_running h, State.latched_halt 2 h⟩⟩⟩
  refine ⟨_, exec_mainResetAssert pin h, rfl, State.mainCleared_dark _ _ rfl, rfl, rfl, rfl, rfl, rfl, rfl, rfl, rfl, rfl, rfl,
    fun d => ?_, fun q => ?_, fun _ => rfl, fun _ => rfl, fun _ => rfl, fun _ => rfl, rfl, rfl⟩
  · exact congrArg Domain.live (State.initial_partAt s.cfg d)
  · exact congrArg Sequencer.run (State.initial_seqAt s.cfg q)

end Sys2Proof.Machine
end

section
/-! PROOFS. A step on an empty queue: one CK_V cycle, in which what falls due takes effect (02 R60; 03 R82, R88). -/

namespace Sys2Proof.Machine

/-- A write reaches no other address, whatever form the memory has. -/
theorem Mem.read_write_ne (m : Mem) {a c : Nat} (h : a ≠ c) (b : Byte) : (m.write a b).read c = m.read c := by
  induction m with
  | nil =>
    unfold Mem.write
    split
    · rfl
    · exact if_neg h
  | cons x m ih =>
    obtain ⟨k, v⟩ := x
    unfold Mem.write
    split_ifs with h1 h2 h3 h4
    · rfl
    · exact if_neg h
    · exact (if_neg (by omega)).symm
    · subst h3
      exact (if_neg h).trans (if_neg h).symm
    · unfold Mem.read
      split
      · rfl
      · exact ih

theorem Mem.read_overlay_of_outside (cs : List Host.Cell) (a : Nat) (h : ∀ c ∈ cs, c.1 ≠ a) :
    ∀ m : Mem, (m.overlay cs).read a = m.read a := by
  induction cs with
  | nil => exact fun m => rfl
  | cons x cs ih =>
    intro m
    rw [List.forall_mem_cons] at h
    exact (ih h.2 (m.write x.1 x.2)).trans (Mem.read_write_ne m h.1 x.2)

variable {s : State}

/-! ## What the clock leaves -/

/-- A response is valid for the cycle of its acknowledgement only (R53). -/
theorem State.clock_rp (s : State) (n : Nat) : (s.clock n).rp = { s.rp with valid := s.rp.valid && n == 0 } := by
  unfold State.clock
  dsimp only
  split <;> rfl

/-! ## Without class O cells, what falls due is the agenda's -/

/-- Nothing waits in the queue of a port. -/
def State.noCells (s : State) : Prop := ∀ q ∈ s.ports, q.queue = []

theorem State.noCells_iff : s.noCells ↔ (s.ports.all fun q => q.queue.isEmpty) = true := by
  simp [State.noCells]

theorem State.noCells.of_ports {t : State} (h : s.noCells) (hp : t.ports = s.ports) : t.noCells := by
  rw [State.noCells, hp]
  exact h

theorem State.nextDue_agenda (h : s.noCells) : s.nextDue = s.agenda.head?.map fun x => (x.cycle, none) := by
  unfold State.nextDue
  simp only [State.noCells_iff.1 h, if_true]

/-- Where everything is to come after t, the clock runs to t. -/
theorem State.runTo_later (n t : Nat) (h : s.noCells) (hl : ∀ x ∈ s.agenda, t < x.cycle) :
    State.runTo n s t = s.clock (t - s.clk.rackTime) := by
  cases n with
  | zero => rfl
  | succ n =>
    rw [State.runTo, State.nextDue_agenda h]
    cases ha : s.agenda with
    | nil => rfl
    | cons x rest =>
      have hx : ¬ x.cycle ≤ t := by have := hl x (by simp [ha]); omega
      exact if_neg hx

/-- What is due by t takes effect in its cycle. -/
theorem State.runTo_due (n t : Nat) {x : Dated} {rest : List Dated} (h : s.noCells) (ha : s.agenda = x :: rest) (hx : x.cycle ≤ t) :
    State.runTo (n + 1) s t = State.runTo n ((s.clock (x.cycle - s.clk.rackTime)).takeDue x.cycle none) t := by
  rw [State.runTo, State.nextDue_agenda h, ha]
  exact if_pos hx

theorem State.takeDue_agenda (c : Nat) {x : Dated} {rest : List Dated} (ha : s.agenda = x :: rest) :
    s.takeDue c none = State.takeAct { s with agenda := rest } x.seq x.act := by
  unfold State.takeDue
  rw [ha]

theorem State.keeps_withAgenda (s : State) (l : List Dated) : s.keeps { s with agenda := l } [.agenda] := by
  intro f hf; cases f <;> first | rfl | exact absurd (by decide) hf

theorem State.keeps_withSp (s : State) (m : Mem) : s.keeps { s with sp := m } [.sp] := by
  intro f hf; cases f <;> first | rfl | exact absurd (by decide) hf

/-- A line that SP_WR accepts is stored; an arrival's old bytes are kept for a rollback. -/
theorem State.keeps_storeLine (s : State) (d : Nat) (cells : List Host.Cell) (arrival : Bool) :
    s.keeps (s.storeLine d cells arrival) [.sp, .seqs] := by
  unfold State.storeLine
  extract_lets u
  have hu : s.keeps u [.seqs] := State.keeps_ite (s.keeps_onSeq _ _) (s.keeps_refl _)
  exact (hu.andThen (u.keeps_withSp _)).mono (by decide)

theorem State.storeLine_sp (s : State) (d : Nat) (cells : List Host.Cell) (arrival : Bool) :
    (s.storeLine d cells arrival).sp = s.sp.overlay cells := by
  unfold State.storeLine
  split <;> rfl

/-! ## One cycle -/

/-- With nothing in a port's elastic buffer, a tick is the passing of a cycle. -/
theorem tick_eq_pass (h : ∀ q ∈ (s.pass 1).ports, q.elastic = []) : tick s = s.pass 1 := by
  unfold tick
  exact if_pos (by simpa using h)

theorem State.clock_one_clk (s : State) :
    (s.clock 1).clk = { s.clk with rackTime := s.clk.rackTime + 1, localTime := s.clk.localTime + 1 } := s.clock_clk 1

/-- A cycle in which nothing is due is one of the clock. -/
theorem State.pass_one_later (hd : s.clk.dividers = true) (h : s.noCells) (hl : ∀ x ∈ s.agenda, s.clk.rackTime + 1 < x.cycle) :
    s.pass 1 = s.clock 1 := by
  unfold State.pass
  rw [if_pos hd]
  split
  · rfl
  · rw [State.runTo_later _ _ h hl, Nat.add_sub_cancel_left]

/-- The state after a cycle in which a line is stored. -/
def State.afterStore (s : State) (rest : List Dated) (d : Nat) (cells : List Host.Cell) (arrival : Bool) : State :=
  ({ s.clock 1 with agenda := rest } : State).storeLine d cells arrival

theorem State.pass_one_store {d pos line : Nat} {cells : List Host.Cell} {arrival : Bool} {rest : List Dated} (hd : s.clk.dividers = true)
    (h : s.noCells) (ha : s.agenda = ⟨s.clk.rackTime + 1, d, .store pos line cells arrival⟩ :: rest)
    (hl : ∀ x ∈ rest, s.clk.rackTime + 1 < x.cycle) : s.pass 1 = (s.afterStore rest d cells arrival).clock 0 := by
  have hq : ¬ s.quiet = true := by simp [State.quiet, ha]
  have hk := s.keeps_clock 1
  have ht : ((s.clock (s.clk.rackTime + 1 - s.clk.rackTime)).takeDue (s.clk.rackTime + 1) none) = s.afterStore rest d cells arrival := by
    rw [Nat.add_sub_cancel_left, State.takeDue_agenda _ (hk.agenda.trans ha)]
    rfl
  have hs : s.keeps (s.afterStore rest d cells arrival) [.clk, .rp, .gln, .agenda, .sp, .seqs] :=
    ((hk.andThen (State.keeps_withAgenda _ _)).andThen (State.keeps_storeLine _ _ _ _)).mono (by decide)
  have hc : (s.afterStore rest d cells arrival).clk = (s.clock 1).clk := ((State.keeps_withAgenda _ _).andThen (State.keeps_storeLine _ _ _ _)).clk
  have hr : (s.afterStore rest d cells arrival).agenda = rest := (State.keeps_storeLine _ _ _ _).agenda
  obtain ⟨n, hn⟩ : ∃ n, s.dueBound = n + 1 := ⟨s.dueBound - 1, by unfold State.dueBound; omega⟩
  unfold State.pass
  rw [if_pos hd, if_neg hq, hn, State.runTo_due n _ h ha (Nat.le_refl _), ht,
    State.runTo_later n _ (h.of_ports hs.ports) (by rw [hr]; exact hl), hc, State.clock_one_clk]
  dsimp only
  rw [Nat.sub_self]

/-- Settles O2: one cycle of the clock, and of the agenda's first entry where it is due. -/
theorem idleStepIsOneCycle : Obligations.IdleStepIsOneCycle := by
  refine ⟨fun n s hq => s.keeps_pass n hq, fun s hp hc => ?_⟩
  intro now on
  have hn : s.noCells := fun q hq => (hc q hq).1
  have hstep : step s = .next (tick s) := by rw [step, hp]
  have hk1 := s.keeps_clock 1
  have hrp : (s.clock 1).rp = { s.rp with valid := false } := by rw [State.clock_rp, show ((1 : Nat) == 0) = false from rfl, Bool.and_false]
  have htick (t : State) (ht : s.pass 1 = t) (he : t.ports = s.ports) : tick s = t := by
    rw [tick_eq_pass (by rw [ht, he]; exact fun q hq => (hc q hq).2), ht]
  refine ⟨fun hd => ?_, fun hd hl => ?_, fun d pos line cells arrival rest hd ha hl => ?_⟩
  · rw [hstep, htick s (s.pass_off 1 hd) rfl]
  · refine ⟨s.clock 1, ?_, s.clock_one_clk, hrp, hk1⟩
    rw [hstep, htick _ (State.pass_one_later hd hn hl) hk1.ports]
  · let v := s.afterStore rest d cells arrival
    have hv : (s.clock 1).keeps v [.agenda, .sp, .seqs] := ((State.keeps_withAgenda _ _).andThen (State.keeps_storeLine _ _ _ _)).mono (by decide)
    have h0 := v.keeps_clock 0
    have hk : s.keeps (v.clock 0) [.clk, .rp, .gln, .sp, .agenda, .seqs] := ((hk1.andThen hv).andThen h0).mono (by decide)
    have hsp : (v.clock 0).sp = s.sp.overlay cells :=
      h0.sp.trans ((State.storeLine_sp _ _ _ _).trans (congrArg (·.overlay cells) hk1.sp))
    refine ⟨v.clock 0, ?_, ?_, ?_, hsp, fun a hne => ?_, hk⟩
    · rw [hstep, htick _ (State.pass_one_store hd hn ha hl) hk.ports]
    · rw [State.clock_clk, hv.clk]
      exact s.clock_one_clk
    · rw [h0.agenda]
      exact (State.keeps_storeLine _ _ _ _).agenda
    · rw [hsp]
      exact Mem.read_overlay_of_outside cells a hne s.sp

end Sys2Proof.Machine
end

section
/-! PROOFS. Aborts: what the abort of an epoch leaves, what a runtime halt leaves, and which fields either may change (02 R60; 07 R210, R211;
16 R406). -/

namespace Sys2Proof.Machine

variable {s : State}

/-! ## What sending changes -/

theorem State.keeps_sendControl (s : State) (d type p t : Nat) (payload : Bytes) : s.keeps (s.sendControl d type p t payload) [.coll] :=
  State.keeps_ite (s.keeps_send _) (s.keeps_refl _)

theorem State.keeps_sendMaint (s : State) (p type dst : Nat) (payload : Bytes) : s.keeps (s.sendMaint p type dst payload) [.ports, .coll] := by
  have h := s.keeps_onPort p fun q =>
    { q with mtxSeq := q.mtxSeq + 1, unacked := q.unacked ++ [(q.mtxSeq, padPayload (BitVec.ofNat 8 type :: leBytes 2 dst ++ payload))] }
  exact State.keeps_ite ((h.andThen (State.keeps_send _ _)).mono (by decide)) (h.mono (by decide))

theorem State.keeps_routeMaint (s : State) (d dst : Nat) (payload : Bytes) : s.keeps (s.routeMaint d dst payload) [.ports, .coll] := by
  unfold State.routeMaint
  split
  · exact s.keeps_sendMaint _ _ _ _
  · exact (s.keeps_onColl _).mono (by decide)

theorem State.keeps_sendAbort (s : State) (d reason origin time : Nat) : s.keeps (s.sendAbort d reason origin time) [.coll] := by
  unfold State.sendAbort
  split
  · exact s.keeps_refl _
  · exact State.keeps_foldl _ (fun s _ => s.keeps_sendControl _ _ _ _ _) _ _

theorem State.keeps_sendCounters (s : State) (d : Nat) : s.keeps (s.sendCounters d) [.ports, .coll] :=
  State.keeps_foldl _ (fun s _ => s.keeps_sendMaint _ _ _ _) _ _

theorem State.keeps_abortCoupler (s : State) (d : Nat) : s.keeps (s.abortCoupler d) [.coup] :=
  State.keeps_ite (s.keeps_onCoup _) (s.keeps_refl _)

/-! ## Sending leaves the domains -/

theorem State.foldl_doms {α : Type} (f : State → α → State) (h : ∀ (s : State) (a : α), (f s a).coll.doms = s.coll.doms) (l : List α) :
    ∀ s : State, (l.foldl f s).coll.doms = s.coll.doms := by
  induction l with
  | nil => exact fun s => rfl
  | cons a l ih => exact fun s => (ih _).trans (h s a)

@[simp] theorem State.sendControl_doms (d type p t : Nat) (payload : Bytes) :
    (s.sendControl d type p t payload).coll.doms = s.coll.doms := by
  unfold State.sendControl
  split <;> rfl

@[simp] theorem State.sendMaint_doms (p type dst : Nat) (payload : Bytes) : (s.sendMaint p type dst payload).coll.doms = s.coll.doms := by
  unfold State.sendMaint
  dsimp only
  split <;> rfl

@[simp] theorem State.sendAbort_doms (d reason origin time : Nat) : (s.sendAbort d reason origin time).coll.doms = s.coll.doms := by
  unfold State.sendAbort
  split
  · rfl
  · exact State.foldl_doms _ (fun _ _ => State.sendControl_doms _ _ _ _ _) _ _

@[simp] theorem State.sendCounters_doms (d : Nat) : (s.sendCounters d).coll.doms = s.coll.doms :=
  State.foldl_doms _ (fun _ _ => State.sendMaint_doms _ _ _ _) _ _

@[simp] theorem State.abortCoupler_doms (d : Nat) : (s.abortCoupler d).coll.doms = s.coll.doms :=
  congrArg Coll.doms (s.keeps_abortCoupler d).coll

/-! ## The abort of an epoch -/

/-- The origin of an abort: the one that it names, or this chip. -/
def State.abortOrigin (s : State) (remote : Option (Nat × Nat)) : Nat := (remote.map Prod.fst).getD s.coll.logicalId.toNat

/-- The time that an ABORT carries: the one that was learned, or this cycle's. -/
def State.abortStamp (s : State) (remote : Option (Nat × Nat)) : Nat := (remote.map Prod.snd).getD s.clk.rackTime

/-- The epoch of domain d learns why it ends. -/
def State.learnAbort (s : State) (d reason : Nat) (remote : Option (Nat × Nat)) : State :=
  s.onDom d fun c => { c with reason := BitVec.ofNat 8 reason, remote := remote.isSome
                              origin := BitVec.ofNat 16 (s.abortOrigin remote) }

/-- The epoch of domain d is aborting, with nothing left of it to come; what it sends follows. -/
def State.cutEpoch (s : State) (d : Nat) : State :=
  let u := (s.onSeq d fun q => { q with run := q.run.map (Run.cut s.clk.rackTime) }).dropWork d
  u.onDom d fun c => { c with state := .aborting, abortTime := s.clk.rackTime, abortSent := true
                              counterWait := (u.protectedPorts d).filter fun p => !c.counterGot.contains p }

theorem State.abortEpoch_live (d reason : Nat) (remote : Option (Nat × Nat)) (h : (s.domAt d).state.live = true) :
    s.abortEpoch d reason remote = ((((s.cutEpoch d).learnAbort d reason remote).sendAbort d reason (s.abortOrigin remote)
      (s.abortStamp remote)).sendCounters d).abortCoupler d := by
  unfold State.abortEpoch
  dsimp only
  rw [if_pos h]
  cases remote <;> rfl

theorem State.keeps_cutEpoch (s : State) (d : Nat) : s.keeps (s.cutEpoch d) [.seqs, .agenda, .ports, .cores, .coll] :=
  (((s.keeps_onSeq _ _).andThen (State.keeps_dropWork _ _)).andThen (State.keeps_onDom _ _ _)).mono (by decide)

theorem State.keeps_learnAbort (s : State) (d reason : Nat) (remote : Option (Nat × Nat)) :
    s.keeps (s.learnAbort d reason remote) [.coll] := s.keeps_onDom _ _

/-- Where no epoch lives, only what the domain knows of its abort may change. -/
theorem State.keeps_abortEpoch_of_not_live {d : Nat} (h : ¬ (s.domAt d).state.live = true) (reason : Nat) (remote : Option (Nat × Nat)) :
    s.keeps (s.abortEpoch d reason remote) [.coll] := by
  unfold State.abortEpoch
  dsimp only
  rw [if_neg h]
  exact State.keeps_ite (s.keeps_onDom d _) (s.keeps_refl _)

theorem State.keeps_abortEpoch (s : State) (d reason : Nat) (remote : Option (Nat × Nat)) :
    s.keeps (s.abortEpoch d reason remote) [.seqs, .coll, .coup, .ports, .cores, .agenda] := by
  by_cases h : (s.domAt d).state.live = true
  · rw [State.abortEpoch_live d reason remote h]
    exact (((((s.keeps_cutEpoch d).andThen (State.keeps_learnAbort _ _ _ _)).andThen (State.keeps_sendAbort _ _ _ _ _)).andThen
      (State.keeps_sendCounters _ _)).andThen (State.keeps_abortCoupler _ _)).mono (by decide)
  · exact (State.keeps_abortEpoch_of_not_live h reason remote).mono (by decide)

theorem State.keeps_saveHalt (s : State) (q : Nat) : s.keeps (s.saveHalt q) [.seqs] := by
  unfold State.saveHalt
  split
  · exact State.keeps_ite (s.keeps_onSeq _ _) (s.keeps_refl _)
  · exact s.keeps_refl _

/-- The halt's record, event and warning, before the abort (R210, R211). -/
def State.haltRecorded (s : State) (q : Nat) (h : Halt) : State :=
  let first := field (s.seqAt q).halt.w0 8 1 == 0
  let keep := first || haltReplaces (s.seqAt q).halt (s.haltWords q h)
  ((s.onSeq q fun x => if keep then { x with halt := s.haltWords q h, lost := if first then x.lost else x.lost + 1 }
      else { x with lost := x.lost + 1 }).event 0x0004 ((h.core.map fun g => s.cores.serve.getD g g).getD q) (some q)
    (h.reason + h.idx % 65536 * 2 ^ 16 + bit01 keep * 2 ^ 32)).warn 6

theorem State.runtimeHalt_eq (q : Nat) (h : Halt) :
    s.runtimeHalt q h = ((s.haltRecorded q h).abortEpoch q h.reason none).saveHalt q := by
  unfold State.runtimeHalt State.haltRecorded
  cases h.core <;> rfl

theorem State.keeps_haltRecorded (s : State) (q : Nat) (h : Halt) : s.keeps (s.haltRecorded q h) [.seqs, .gln] :=
  (((s.keeps_onSeq _ _).andThen (State.keeps_event _ _ _ _ _)).andThen (State.keeps_warn _ _)).mono (by decide)

/-- A runtime halt changes what an abort may change. -/
theorem State.keeps_runtimeHalt (s : State) (q : Nat) (h : Halt) : s.keeps (s.runtimeHalt q h) abortFields := by
  rw [State.runtimeHalt_eq]
  exact (((s.keeps_haltRecorded q h).andThen (State.keeps_abortEpoch _ _ _ _)).andThen (State.keeps_saveHalt _ _)).mono (by decide)

/-! ## What an abort leaves -/

/-- An epoch that runs or votes, of a domain that the state has. -/
structure State.liveAt (s : State) (d : Nat) : Prop where
  live : (s.domAt d).state.live = true
  seq : d < s.seqs.length
  dom : d < s.coll.doms.length

theorem State.cutEpoch_domAt (d : Nat) (h : s.liveAt d) :
    ((s.cutEpoch d).domAt d).state = .aborting ∧ ((s.cutEpoch d).domAt d).abortTime = s.clk.rackTime := by
  unfold State.cutEpoch
  rw [State.onDom_domAt, if_pos ⟨rfl, h.dom⟩]
  exact ⟨rfl, rfl⟩

theorem State.learnAbort_domAt (d reason : Nat) (remote : Option (Nat × Nat)) (h : d < s.coll.doms.length) :
    ((s.learnAbort d reason remote).domAt d).state = (s.domAt d).state ∧
      ((s.learnAbort d reason remote).domAt d).abortTime = (s.domAt d).abortTime ∧
      ((s.learnAbort d reason remote).domAt d).reason = BitVec.ofNat 8 reason := by
  unfold State.learnAbort
  rw [State.onDom_domAt, if_pos ⟨rfl, h⟩]
  exact ⟨rfl, rfl, rfl⟩

theorem State.cutEpoch_run (d i : Nat) : ((s.cutEpoch d).seqAt i).run =
    if d = i then (s.seqAt i).run.map (Run.cut s.clk.rackTime) else (s.seqAt i).run := State.onRun_run d i (Run.cut s.clk.rackTime)

theorem State.mem_cutEpoch_agenda (d : Nat) (x : Dated) :
    x ∈ (s.cutEpoch d).agenda ↔ x ∈ s.agenda ∧ (x.seq = d → x.cycle ≤ s.clk.rackTime) := State.mem_dropWork_agenda d x

/-- What an abort says of a state stands in every state with the same domain, agenda and work of its run. -/
theorem State.aborts.of_same {t u : State} {d reason : Nat} (h : t.aborts d reason) (hd : u.domAt d = t.domAt d)
    (hr : ∀ r, (u.seqAt d).run = some r → ∃ x, (t.seqAt d).run = some x ∧ r.flight = x.flight ∧ r.stamps = x.stamps)
    (ha : u.agenda = t.agenda) : u.aborts d reason := by
  obtain ⟨hstate, hreason, hrun, hagenda⟩ := h
  refine ⟨by rw [hd]; exact hstate, by rw [hd]; exact hreason, fun r k => ?_, by rw [ha, hd]; exact hagenda⟩
  obtain ⟨x, hx, hf, hs⟩ := hr r k
  rw [hf, hs, hd]
  exact hrun x hx

theorem State.domAt_of_doms {t u : State} (h : u.coll.doms = t.coll.doms) (d : Nat) : u.domAt d = t.domAt d :=
  congrArg (fun l => List.getD l d DomColl.initial) h

theorem State.seqAt_of_seqs {t u : State} (h : u.seqs = t.seqs) (d : Nat) : u.seqAt d = t.seqAt d :=
  congrArg (fun l => List.getD l d Sequencer.initial) h

theorem State.portAt_of_ports {t u : State} (h : u.ports = t.ports) (p : Nat) : u.portAt p = t.portAt p :=
  congrArg (fun l => List.getD l p Port.initial) h

theorem State.aborts_abortEpoch (d reason : Nat) (remote : Option (Nat × Nat)) (h : s.liveAt d) :
    (s.abortEpoch d reason remote).aborts d reason := by
  rw [State.abortEpoch_live d reason remote h.live]
  let u := (s.cutEpoch d).learnAbort d reason remote
  obtain ⟨hstate, htime⟩ := State.cutEpoch_domAt d h
  obtain ⟨hs, ht, hr⟩ := State.learnAbort_domAt (s := s.cutEpoch d) d reason remote (by
    show d < (List.modify s.coll.doms d _).length
    rw [List.length_modify]
    exact h.dom)
  have hu : u.aborts d reason := by
    refine ⟨hs.trans hstate, hr, fun r hrun => ?_, fun x hx hxd => ?_⟩
    · have hrun' : ((s.cutEpoch d).seqAt d).run = some r := hrun
      rw [State.cutEpoch_run, if_pos rfl, Option.map_eq_some_iff] at hrun'
      obtain ⟨z, -, rfl⟩ := hrun'
      refine ⟨rfl, fun x hx => ?_⟩
      rw [ht, htime]
      have hc := (List.mem_filter.1 hx).2
      simp only [decide_eq_true_eq] at hc
      exact hc.1
    · rw [ht, htime]
      exact ((State.mem_cutEpoch_agenda d x).1 hx).2 hxd
  refine State.aborts.of_same hu (State.domAt_of_doms ?_ d) (fun r hrun => ⟨r, ?_, rfl, rfl⟩) ?_
  · rw [State.abortCoupler_doms, State.sendCounters_doms, State.sendAbort_doms]
  all_goals
    have hk := ((State.keeps_sendAbort u d reason (s.abortOrigin remote) (s.abortStamp remote)).andThen
      (State.keeps_sendCounters _ d)).andThen (State.keeps_abortCoupler _ d)
  · rw [State.seqAt_of_seqs hk.seqs] at hrun
    exact hrun
  · exact hk.agenda

/-- A halt that is saved for a snapshot leaves a run's work as it was. -/
theorem State.saveHalt_run (q i : Nat) (r : Run) (h : ((s.saveHalt q).seqAt i).run = some r) :
    ∃ x, (s.seqAt i).run = some x ∧ r.flight = x.flight ∧ r.stamps = x.stamps := by
  unfold State.saveHalt at h
  split at h
  next x hx =>
    split at h
    next =>
      rw [State.onSeq_seqAt] at h
      split at h
      next hi =>
        obtain ⟨rfl, -⟩ := hi
        obtain rfl := Option.some.inj h
        exact ⟨x, hx, rfl, rfl⟩
      next => exact ⟨r, h, rfl, rfl⟩
    next => exact ⟨r, h, rfl, rfl⟩
  next => exact ⟨r, h, rfl, rfl⟩

theorem State.haltRecorded_liveAt (q : Nat) (h : Halt) {d : Nat} (hl : s.liveAt d) : (s.haltRecorded q h).liveAt d := by
  obtain ⟨hlive, hseq, hdom⟩ := hl
  have hlen : (s.haltRecorded q h).seqs.length = s.seqs.length := List.length_modify ..
  exact ⟨hlive, by rw [hlen]; exact hseq, hdom⟩

/-- A runtime halt of a live epoch aborts it with the halt's reason (R210). -/
theorem State.aborts_runtimeHalt (q : Nat) (h : Halt) (hl : s.liveAt q) : (s.runtimeHalt q h).aborts q h.reason := by
  rw [State.runtimeHalt_eq]
  refine (State.aborts_abortEpoch q h.reason none (State.haltRecorded_liveAt q h hl)).of_same ?_ (fun r => State.saveHalt_run q q r) ?_
  · exact State.domAt_of_doms (congrArg Coll.doms (State.keeps_saveHalt _ q).coll) q
  · exact (State.keeps_saveHalt _ q).agenda

/-- Where a live epoch's domain is named, a halt may come. -/
theorem State.mayHalt_of_live {d : Nat} (h : (s.domAt d).state.live = true) : s.mayHalt d = true := by
  simp [State.mayHalt, h]

end Sys2Proof.Machine
end

section
/-! PROOFS. Scratchpad lines: their stamps, the slips of lines that come at another time, and refused stores (02 R59, R61, R62; 07 R207, R211). -/

namespace Sys2Proof.Machine

/-! ## Grants and the agenda -/

/-- A grant lies at its first cycle or later. -/
theorem le_grantAt (cfg : Cfg) (x : Pos) (line t : Nat) : t ≤ grantAt cfg x line t := by
  unfold grantAt
  dsimp only
  split <;> omega

@[simp] theorem mem_datedInsert (x y : Dated) (l : List Dated) : y ∈ datedInsert x l ↔ y = x ∨ y ∈ l := by
  induction l with
  | nil => exact List.mem_cons
  | cons z l ih =>
    unfold datedInsert
    split
    · exact List.mem_cons
    · rw [List.mem_cons, ih, List.mem_cons]
      tauto

/-! ## Warnings -/

/-- A gleaner that shows every warning that another one shows. -/
def Gleaner.warnsAtLeast (g h : Gleaner) : Prop := ∀ i, g.warn.getLsbD i = true → h.warn.getLsbD i = true

theorem Gleaner.warnsAtLeast_warnBit (g : Gleaner) (b : Nat) : g.warnsAtLeast (g.warnBit b) := by
  intro i h
  show (g.warn ||| BitVec.ofNat 32 (2 ^ b)).getLsbD i = true
  rw [BitVec.getLsbD_or, h, Bool.true_or]

theorem Gleaner.warnBit_shows (g : Gleaner) {b : Nat} (hb : b < 32) : (g.warnBit b).warn.getLsbD b = true := by
  show (g.warn ||| BitVec.ofNat 32 (2 ^ b)).getLsbD b = true
  rw [BitVec.getLsbD_or, BitVec.getLsbD_ofNat, Nat.testBit_two_pow_self]
  simp [hb]

theorem Gleaner.warnsAtLeast_ringWrite (g : Gleaner) (t : Nat) (e : W4) : g.warnsAtLeast (g.ringWrite t e) := by
  have hd : g.warnsAtLeast ({ g with ringDrops := g.ringDrops + 1 } : Gleaner).dropped := Gleaner.warnsAtLeast_warnBit _ 7
  unfold Gleaner.ringWrite
  split
  next =>
    split_ifs
    · exact fun i h => h
    · exact hd
    · exact fun i h => h
  next =>
    split_ifs
    · exact hd
    · exact fun i h => h

theorem Gleaner.warnsAtLeast_acceptN (t n : Nat) : ∀ g : Gleaner, g.warnsAtLeast (Gleaner.acceptN t n g) := by
  induction n with
  | zero => exact fun g i h => h
  | succ n ih =>
    intro g i h
    unfold Gleaner.acceptN
    split
    · exact h
    · exact ih _ i (Gleaner.warnsAtLeast_ringWrite _ t _ i h)

theorem Gleaner.warnsAtLeast_accept (g : Gleaner) (t : Nat) : g.warnsAtLeast (g.accept t) := by
  intro i h
  refine Gleaner.warnsAtLeast_acceptN t _ _ i ?_
  split <;> exact h

/-- An event that is posted clears no warning. -/
theorem Gleaner.warnsAtLeast_post (g : Gleaner) (t : Nat) (e : W4) : g.warnsAtLeast (g.post t e) := by
  unfold Gleaner.post
  split
  · split
    · exact fun i h => h
    · exact Gleaner.warnsAtLeast_warnBit _ 7
  · exact fun i h => Gleaner.warnsAtLeast_accept _ t i h

variable {s : State}

/-! ## SP_STALL -/

theorem State.keeps_spStall (s : State) (q g line chan : Nat) : s.keeps (s.spStall q g line chan) [.gln] :=
  ((s.keeps_warn 4).andThen (State.keeps_event _ _ _ _ _)).mono (by decide)

theorem State.spStall_warns (q g line chan : Nat) : (s.spStall q g line chan).gln.warn.getLsbD 4 = true :=
  Gleaner.warnsAtLeast_post _ _ _ 4 (Gleaner.warnBit_shows s.gln (by decide))

theorem State.liveAt.of_keeps {t : State} {d : Nat} {l : List Field} (h : s.liveAt d) (hk : s.keeps t l) (hs : Field.seqs ∉ l := by decide)
    (hc : Field.coll ∉ l := by decide) : t.liveAt d := by
  obtain ⟨hlive, hseq, hdom⟩ := h
  refine ⟨?_, by rw [hk.seqs hs]; exact hseq, by rw [hk.coll hc]; exact hdom⟩
  rw [State.domAt_of_doms (congrArg Coll.doms (hk.coll hc))]
  exact hlive

theorem State.liveAt.mayHalt {d : Nat} (h : s.liveAt d) : s.mayHalt d = true := State.mayHalt_of_live h.live

theorem State.haltNow_live {d : Nat} (h : s.liveAt d) (act : State → State) : s.haltNow d act = act s := if_pos h.mayHalt

/-! ## Slips -/

/-- A runtime halt of a live epoch, with what it may change. -/
theorem State.runtimeHalt_spec {q : Nat} (hl : s.liveAt q) (h : Halt) :
    (s.runtimeHalt q h).aborts q h.reason ∧ s.keeps (s.runtimeHalt q h) abortFields :=
  ⟨State.aborts_runtimeHalt q h hl, s.keeps_runtimeHalt q h⟩

/-- A slip of a line of a live epoch aborts it with SCHEDULE_SLIP (R207, R211). -/
theorem State.lineSlip_spec {q : Nat} (hl : s.liveAt q) (idx off g line : Nat) (chan : RdChan) (detail stamp : Nat) :
    (s.lineSlip q idx off g line chan detail stamp).aborts q 1 ∧ s.keeps (s.lineSlip q idx off g line chan detail stamp) abortFields := by
  have hk := s.keeps_spStall q g line (rdChanCode chan)
  obtain ⟨ha, hk'⟩ := State.runtimeHalt_spec (hl.of_keeps hk)
    { reason := 1, stream := rdChanCode chan, idx := idx, off := off, core := some g, detail := detail, stamp := stamp }
  exact ⟨ha, (hk.andThen hk').mono (by decide)⟩

/-! ## The halt record -/

/-- An abort leaves every sequencer's halt record. -/
theorem State.abortEpoch_halt (d reason : Nat) (remote : Option (Nat × Nat)) (i : Nat) :
    ((s.abortEpoch d reason remote).seqAt i).halt = (s.seqAt i).halt := by
  have hcut : ((s.cutEpoch d).seqAt i).halt = (s.seqAt i).halt := by
    show ((s.onSeq d fun q => { q with run := q.run.map (Run.cut s.clk.rackTime) }).seqAt i).halt = _
    rw [State.onSeq_seqAt]
    split <;> rfl
  by_cases h : (s.domAt d).state.live = true
  · rw [State.abortEpoch_live d reason remote h]
    have hk := (((State.keeps_learnAbort (s.cutEpoch d) d reason remote).andThen (State.keeps_sendAbort _ d reason (s.abortOrigin remote)
      (s.abortStamp remote))).andThen (State.keeps_sendCounters _ d)).andThen (State.keeps_abortCoupler _ d)
    rw [State.seqAt_of_seqs hk.seqs]
    exact hcut
  · rw [State.seqAt_of_seqs (State.keeps_abortEpoch_of_not_live h reason remote).seqs]

theorem State.saveHalt_halt (q i : Nat) : ((s.saveHalt q).seqAt i).halt = (s.seqAt i).halt := by
  unfold State.saveHalt
  split
  · split
    · rw [State.onSeq_seqAt]
      split <;> rfl
    · rfl
  · rfl

/-- The first halt of a sequencer is the one that its record shows (R211). -/
theorem State.runtimeHalt_halt {q : Nat} (hq : q < s.seqs.length) (h : Halt) (hf : field (s.seqAt q).halt.w0 8 1 = 0) :
    ((s.runtimeHalt q h).seqAt q).halt = s.haltWords q h := by
  rw [State.runtimeHalt_eq, State.saveHalt_halt, State.abortEpoch_halt]
  show ((s.onSeq q _).seqAt q).halt = _
  rw [State.onSeq_seqAt, if_pos ⟨rfl, hq⟩, hf]
  rfl

/-- Bits of a word made from a number. -/
theorem field_word (n lo k : Nat) : field (word n) lo k = n % 2 ^ 64 / 2 ^ lo % 2 ^ k := by
  simp [field, word, BitVec.toNat_ofNat]

/-- The first word of a halt's record: its reason, and the bit that says that the record is valid. -/
theorem State.haltWords_w0 (q : Nat) (h : Halt) (hr : h.reason < 256) :
    field (s.haltWords q h).w0 0 8 = h.reason ∧ field (s.haltWords q h).w0 8 1 = 1 := by
  have hw : (s.haltWords q h).w0 = word (h.reason + 256 + h.stream * 2 ^ 9 + (s.seqAt q).activeBank % 2 * 2 ^ 12 + h.idx % 65536 * 2 ^ 16
      + h.off % 2 ^ 17 * 2 ^ 32) := rfl
  rw [hw, field_word, field_word]
  omega

/-! ## Lines -/

theorem State.keeps_later (s : State) (d t : Nat) (a : Act) : s.keeps (s.later d t a) [.agenda] := by
  intro f hf; cases f <;> first | rfl | exact absurd (by decide) hf

/-- The line that a silo takes, as its core sees it. -/
def State.siloLine (s : State) (q : Nat) (x : Stamp) : SiloLine :=
  { seq := q, pos := x.pos, idx := x.idx, line := x.line, data := (s.seenBy q x.pos).readBytes (512 * x.line) 512 }

theorem State.takeLine_clean (q : Nat) (x : Stamp) : s.takeLine q x false =
    (s.onRun q fun r => { r with stamps := r.stamps.erase x }).onCores fun c => { c with silos := s.siloLine q x :: c.silos } := rfl

theorem State.takeLine_poison (q : Nat) (x : Stamp) : s.takeLine q x true =
    s.runtimeHalt q { reason := 2, stream := rdChanCode x.chan, idx := x.idx, off := x.off, core := some x.pos, detail := x.line, stamp := 0 } :=
  rfl

/-- The sequencer whose line has come awaits it no longer; nothing else of any sequencer changes. -/
theorem State.takeLine_clean_spec {q : Nat} {x : Stamp} {now : Run} (hq : q < s.seqs.length) (hr : (s.seqAt q).run = some now) :
    let t := s.takeLine q x false
    t.seqAt q = { s.seqAt q with run := some { now with stamps := now.stamps.erase x } } ∧ (∀ k, k ≠ q → t.seqAt k = s.seqAt k) ∧
      t.cores = { s.cores with silos := s.siloLine q x :: s.cores.silos } ∧ s.keeps t [.seqs, .cores] := by
  intro t
  have hat (k : Nat) : t.seqAt k = if q = k ∧ k < s.seqs.length then
      { s.seqAt k with run := (s.seqAt k).run.map fun r => { r with stamps := r.stamps.erase x } } else s.seqAt k :=
    s.onSeq_seqAt q k _
  refine ⟨?_, fun k hk => ?_, rfl, ((s.keeps_onRun q _).andThen (State.keeps_onCores _ _)).mono (by decide)⟩
  · rw [hat, if_pos ⟨rfl, hq⟩, hr]
    rfl
  · rw [hat, if_neg fun h => hk h.1.symm]

section
variable {q pos line : Nat} {chan : RdChan} {r : Run} (hr : (s.seqAt q).run = some r) (hp : s.runsAt q r pos = true)
include hr hp

theorem exec_spReadData (time : Nat) (poison : Bool) :
    exec (.spReadData q pos chan line time poison) s = .next (s.lineData q r pos chan line time poison) := by
  show execSpReadData q pos chan line time poison s = _
  rw [execSpReadData, hr]
  exact whenTrue_of hp ..

theorem exec_lineStampExpiry_rd {x : Stamp} (hx : r.stampOf pos chan line = some x) (refused : Bool) :
    exec (.lineStampExpiry q pos (.rd chan) line refused) s =
      .next ((s.until (x.cycle + 1)).haltNow q fun s => s.lineSlip q x.idx x.off pos line chan 0x80000000 x.cycle) := by
  show execLineStampExpiry q pos (.rd chan) line refused s = _
  rw [execLineStampExpiry, hr]
  dsimp only
  rw [hx]
  exact whenTrue_of hp ..

theorem exec_lineStampExpiry_wr : exec (.lineStampExpiry q pos .wr line true) s = .next (s.refuseStore q r pos line) := by
  show execLineStampExpiry q pos .wr line true s = _
  rw [execLineStampExpiry, hr]
  exact whenTrue_of hp ..

end

/-- A line in its stamp cycle (R59, R62). -/
theorem State.lineData_due {q pos line time : Nat} {chan : RdChan} {r : Run} {x : Stamp} (hx : r.stampOf pos chan line = some x)
    (ht : time = x.cycle) (hl : (s.until time).liveAt q) (poison : Bool) :
    s.lineData q r pos chan line time poison = (s.until time).takeLine q x poison := by
  unfold State.lineData
  rw [hx]
  dsimp only
  rw [if_pos ht, State.haltNow_live hl]

/-- A line that is expected, in another cycle: an early one slips as it comes, a late one in the cycle after its stamp. -/
theorem State.lineData_other {q pos line time : Nat} {chan : RdChan} {r : Run} {x : Stamp} (hx : r.stampOf pos chan line = some x)
    (ht : time ≠ x.cycle) (hl : (s.until (min time (x.cycle + 1))).liveAt q) (poison : Bool) :
    s.lineData q r pos chan line time poison = (s.until (min time (x.cycle + 1))).lineSlip q x.idx x.off pos line chan
      (if time ≤ x.cycle + 1 then signed32 ((time : Int) - x.cycle) else 0x80000000) x.cycle := by
  unfold State.lineData
  rw [hx]
  dsimp only
  rw [if_neg ht, State.haltNow_live hl]

/-- A line that no stamp expects slips. -/
theorem State.lineData_unexpected {q pos line time : Nat} {chan : RdChan} {r : Run} (hx : r.stampOf pos chan line = none)
    (hl : (s.until time).liveAt q) (poison : Bool) :
    let t := s.lineData q r pos chan line time poison
    t.aborts q 1 ∧ (s.until time).keeps t (.free :: abortFields) := by
  intro t
  let u := s.until time
  let v := u.fresh.2.fresh.2
  have hv : u.keeps v [.free] := (u.keeps_fresh.andThen (State.keeps_fresh _)).mono (by decide)
  have ht : t = v.lineSlip q (v.lastCmd q).1 (v.lastCmd q).2 pos line chan (u.fresh.1.toNat % 2 ^ 32) u.fresh.2.fresh.1.toNat := by
    show s.lineData q r pos chan line time poison = _
    unfold State.lineData
    rw [hx]
    exact State.haltNow_live hl _
  obtain ⟨ha, hk⟩ := State.lineSlip_spec (hl.of_keeps hv) (v.lastCmd q).1 (v.lastCmd q).2 pos line chan (u.fresh.1.toNat % 2 ^ 32)
    u.fresh.2.fresh.1.toNat
  rw [ht]
  exact ⟨ha, (hv.andThen hk).mono (by decide)⟩

/-- A store that SP_WR refuses waits for a later cycle of its position (R61). -/
theorem State.refuseStore_spec {q pos line : Nat} {r : Run} {x : Dated} (hx : (s.agenda.find? fun y => y.storesAt q pos line) = some x)
    (hl : (({ s with agenda := s.agenda.erase x } : State).until x.cycle).liveAt q) :
    let u := ({ s with agenda := s.agenda.erase x } : State).until x.cycle
    let t := s.refuseStore q r pos line
    t.sp = u.sp ∧ (∃ y ∈ t.agenda, y.seq = q ∧ y.act = x.act ∧ x.cycle < y.cycle) ∧ t.gln.warn.getLsbD 4 = true ∧ u.keeps t [.agenda, .gln] := by
  intro u t
  have ht : ∃ c, x.cycle < c ∧ t = (u.later q c x.act).spStall q pos line 2 := by
    show ∃ c, x.cycle < c ∧ s.refuseStore q r pos line = _
    unfold State.refuseStore
    rw [hx]
    dsimp only
    rw [State.haltNow_live hl]
    refine ⟨_, ?_, rfl⟩
    split
    next k _ =>
      have hr : x.cycle < r.start + (x.cycle + 1 - r.start) := by omega
      exact Nat.lt_of_lt_of_le hr (Nat.add_le_add_left (le_grantAt _ _ _ _) _)
    next => exact Nat.lt_add_of_pos_right (by decide)
  obtain ⟨c, hc, ht⟩ := ht
  have hk := (u.keeps_later q c x.act).andThen (State.keeps_spStall _ q pos line 2)
  rw [ht]
  refine ⟨hk.sp, ⟨⟨c, q, x.act⟩, ?_, rfl, rfl, hc⟩, State.spStall_warns .., hk.mono (by decide)⟩
  rw [(State.keeps_spStall _ q pos line 2).agenda]
  exact (mem_datedInsert _ _ _).2 (.inl rfl)

/-- Settles O44: a line in its stamp cycle is taken or poisons the core, every other line slips, a refused store is put off. -/
theorem linesComeAtTheirStamps : Obligations.LinesComeAtTheirStamps := by
  intro q pos chan line r s hr hp live
  have liveAt (u : State) (h : live u) : u.liveAt q := ⟨h.1, h.2.1, h.2.2⟩
  refine ⟨fun x time hx => ⟨fun ht => ?due, fun p ht => ?other, fun refused => ?expiry⟩, fun hx time p => ?unexpected,
    fun x hx => ?refused⟩
  case due =>
    intro u
    refine ⟨fun now hnow hu => ⟨_, exec_spReadData hr hp time false, ?_⟩, fun hu => ⟨_, exec_spReadData hr hp time true, ?_⟩⟩
    · rw [State.lineData_due hx ht (liveAt u hu)]
      exact State.takeLine_clean_spec hu.2.1 hnow
    · rw [State.lineData_due hx ht (liveAt u hu), State.takeLine_poison]
      obtain ⟨ha, hk⟩ := State.runtimeHalt_spec (liveAt u hu)
        { reason := 2, stream := rdChanCode x.chan, idx := x.idx, off := x.off, core := some x.pos, detail := x.line, stamp := 0 }
      refine ⟨ha, hk, fun hf => ?_⟩
      rw [State.runtimeHalt_halt hu.2.1 _ hf]
      exact State.haltWords_w0 q _ (by simp)
  case other =>
    intro u hu
    refine ⟨_, exec_spReadData hr hp time p, ?_⟩
    rw [State.lineData_other hx ht (liveAt u hu)]
    exact State.lineSlip_spec (liveAt u hu) ..
  case expiry =>
    intro u hu
    refine ⟨_, exec_lineStampExpiry_rd hr hp hx refused, ?_⟩
    rw [State.haltNow_live (liveAt u hu)]
    exact State.lineSlip_spec (liveAt u hu) ..
  case unexpected =>
    intro u hu
    exact ⟨_, exec_spReadData hr hp time p, State.lineData_unexpected hx (liveAt u hu) p⟩
  case refused =>
    intro u hu
    exact ⟨_, exec_lineStampExpiry_wr hr hp, State.refuseStore_spec hx (liveAt u hu)⟩

end Sys2Proof.Machine
end

section
/-! PROOFS. Epilogue beats and drains: beats that are taken, slips, COUPLER_GEN, and the halt of a fatal alarm (02 R64-R66; 13 R320-R329;
17 R432). -/

namespace Sys2Proof.Machine

variable {s : State}

/-! ## The immediate halt -/

theorem State.keeps_sendRolled (s : State) (d : Nat) : s.keeps (s.sendRolled d) [.ports, .coll] := by
  have hown := (s.keeps_onDom d fun c => { c with rolledFrom := s.coll.logicalId :: c.rolledFrom.erase s.coll.logicalId }).mono
    (k := [.ports, .coll]) (by decide)
  unfold State.sendRolled
  dsimp only
  split
  · exact hown
  · exact State.keeps_ite hown (s.keeps_routeMaint _ _ _)

theorem State.keeps_haltDomain (s : State) (d : Nat) : s.keeps (s.haltDomain d) [.seqs, .coll, .coup, .ports, .cores, .agenda] := by
  refine State.keeps_ite ?_ (s.keeps_refl _)
  exact (((s.keeps_abortEpoch d 0x29 none).andThen (State.keeps_onDom _ _ _)).andThen (State.keeps_sendRolled _ d)).mono (by decide)

/-- A fatal alarm that halts at once latches, and a block that serves is HALTED (R431, R432). -/
theorem State.fatalNow_aon (c : Nat) (l : Option SramLoc) :
    (s.fatalNow c l).aon.fatal = s.aon.fatal ||| BitVec.ofNat 32 (2 ^ (c - 1)) ∧ (s.fatalNow c l).aon.alarmPulled = true ∧
      (s.aon.power.serves = true → (s.fatalNow c l).aon.power = .halted) := by
  obtain ⟨hfatal, hpulled, -, hpower, -, -, -⟩ := s.latchFatal_aon c l
  let u := s.latchFatal c l
  let v := (List.range u.cfg.nSeq).foldl State.haltDomain u
  have hv : v.aon = u.aon := (State.keeps_foldl _ (fun s d => s.keeps_haltDomain d) _ u).aon
  have hw : v.enterHalted.dropQueues.aon = { u.aon with power := .halted } := by
    rw [(State.keeps_dropQueues _).aon]
    exact congrArg (fun a : Aon => { a with power := .halted }) hv
  by_cases h : u.aon.power.serves = true
  · have ht : s.fatalNow c l = v.enterHalted.dropQueues := if_pos h
    rw [ht, hw]
    exact ⟨hfatal, hpulled, fun _ => rfl⟩
  · have ht : s.fatalNow c l = u := if_neg h
    rw [ht]
    exact ⟨hfatal, hpulled, fun hs => absurd (by rw [hpower]; exact hs) h⟩

/-! ## Halts of the coupler -/

theorem State.couplerGen_spec (h : s.liveAt s.coup.owner.toNat) :
    s.couplerGen.aborts s.coup.owner.toNat 4 ∧ s.keeps s.couplerGen abortFields := State.runtimeHalt_spec h _

theorem State.couplerSlip_spec {q : Nat} (h : s.liveAt q) (detail stamp : Nat) :
    (s.couplerSlip q detail stamp).aborts q 1 ∧ s.keeps (s.couplerSlip q detail stamp) abortFields := State.runtimeHalt_spec h _

/-! ## Generations -/

theorem State.keeps_onGen (s : State) (n : BitVec 4) (f : Gen → Gen) : s.keeps (s.onGen n f) [.coup] := s.keeps_onCoup _

/-- A changed generation stays, unless nothing of it is left to come (R329). -/
theorem State.mem_onGen (n : BitVec 4) (f : Gen → Gen) {y : Gen} (hy : y ∈ s.coup.gens) (hn : y.num = n)
    (h : ¬ ((f y).over = true ∧ (f y).landed = true)) : f y ∈ (s.onGen n f).coup.gens := by
  refine List.mem_filter.2 ⟨List.mem_map.2 ⟨y, hy, if_pos hn⟩, ?_⟩
  rw [Bool.not_eq_true', ← Bool.not_eq_true, Bool.and_eq_true]
  exact h

/-- A beat that is taken changes the coupler alone: it occupies the buffer until its processing ends, and counts in its generation (R326). -/
theorem State.takeBeat_spec (g : Gen) (t : Nat) (last : Bool) (data : Bytes) :
    let fin := max t ((s.coup.ends.head?.map (·.2)).getD 0) + (Chain.ofMem s.coup.chains g.seq g.chain).beatCycles
    let v := s.takeBeat g t last data
    s.keeps v [.coup] ∧ v.coup.ends = ((t, fin) :: s.coup.ends).take 8 ∧ v.coup.chains = s.coup.chains ∧ v.coup.epiStatus = s.coup.epiStatus ∧
      ∀ y ∈ s.coup.gens, y.num = g.num →
        let after : Gen := { y with beats := y.beats + 1, fin := fin, closed := if last then some t else none,
                                    data := if y.landed then [] else y.data ++ [data.take s.cfg.mcBytes] }
        ¬(after.over = true ∧ after.landed = true) → after ∈ v.coup.gens := by
  intro fin v
  refine ⟨((s.keeps_onCoup _).andThen (State.keeps_onGen _ _ _)).mono (by decide), rfl, rfl, rfl, fun y hy hn => ?_⟩
  exact fun ha => State.mem_onGen (s := s.onCoup fun x => { x with ends := ((t, fin) :: x.ends).take 8 }) g.num
    (fun y => { y with beats := y.beats + 1, fin := fin, closed := if last then some t else none
                       data := if y.landed then [] else y.data ++ [data.take s.cfg.mcBytes] }) hy hn ha

/-! ## EPILOGUE_BEAT -/

/-- The generation whose beat comes in cycle t. -/
def State.beatGen (s : State) (gen : BitVec 4) (t : Nat) : Option Gen :=
  s.coup.gens.find? fun g => g.num == gen && g.isOpen t && g.closed.isNone

section
variable (hd : s.clk.dividers = true) {time now : Nat} (hnow : max s.clk.rackTime time = now) (gen : BitVec 4) (last : Bool) (data : Bytes)
include hd hnow

theorem exec_epilogueBeat_held (h : s.mcHold (now - 2) = true) :
    exec (.epilogueBeat time gen last data) s = .next ((s.until now).fatalNow 0x04 none) := by
  subst hnow
  exact (whenTrue_of hd ..).trans (congrArg Host.Outcome.next (if_pos h))

theorem exec_epilogueBeat_free (h : s.mcHold (now - 2) = false) : exec (.epilogueBeat time gen last data) s = .next
    (match s.beatGen gen now with | some g => s.epiBeat g now last data | none => (s.until now).couplerGen) := by
  subst hnow
  exact (whenTrue_of hd ..).trans (congrArg Host.Outcome.next (if_neg (by rw [h]; decide)))

end

/-- Is a beat in its modelled cycle, and MC_EPI_LAST in its place (R322)? -/
def State.beatInTime (s : State) (g : Gen) (r : Run) (x : GenCycles) (t : Nat) (last : Bool) : Prop :=
  t = s.beatDue g r x ∧ last = (g.beats + 1 == (Chain.ofMem s.coup.chains g.seq g.chain).nBeat)

theorem State.epiBeat_inTime {g : Gen} {r : Run} {x : GenCycles} {l : List Cmd} (hg : s.genCycles g = some (r, x, l)) {t : Nat} {last : Bool}
    (h : s.beatInTime g r x t last) (data : Bytes) : s.epiBeat g t last data = (s.until t).takeBeat g t last data := by
  unfold State.epiBeat
  rw [hg]
  exact if_pos h

/-- A beat out of its cycle or its place slips as it comes, or in the cycle after that in which it was due, and is then taken. -/
theorem State.epiBeat_slips {g : Gen} {r : Run} {x : GenCycles} {l : List Cmd} (hg : s.genCycles g = some (r, x, l)) {t : Nat} {last : Bool}
    (h : ¬ s.beatInTime g r x t last) (data : Bytes) : ∃ detail, s.epiBeat g t last data =
      ((((s.until (min t (s.beatDue g r x + 1))).couplerSlip g.seq detail (s.beatDue g r x)).until t).takeBeat g t last data) := by
  unfold State.epiBeat
  rw [hg]
  exact ⟨_, if_neg h⟩

/-! ## MC_DRAIN -/

/-- The generation that a drain names in cycle t. -/
def State.drainGen (s : State) (gen : BitVec 4) (t : Nat) : Option Gen :=
  s.coup.gens.find? fun g => g.num == gen && !g.drained && (g.isOpen t || s.coup.abortWait)

/-- The state before a drain: one that comes after its deadline has been missed first. -/
def State.beforeDrain (s : State) (g : Gen) (t : Nat) : State :=
  match s.drainDue g with
  | some due => if due < t then s.drainMissing g due else s
  | none => s

theorem State.beforeDrain_inTime {g : Gen} {t : Nat} (h : ∀ due, s.drainDue g = some due → t ≤ due) : s.beforeDrain g t = s := by
  unfold State.beforeDrain
  split
  next due hdue => exact if_neg (Nat.not_lt.2 (h due hdue))
  next => rfl

theorem State.beforeDrain_late {g : Gen} {t due : Nat} (h : s.drainDue g = some due) (hd : due < t) :
    s.beforeDrain g t = s.drainMissing g due := by
  unfold State.beforeDrain
  rw [h]
  exact if_pos hd

section
variable (hd : s.clk.dividers = true) {time now : Nat} (hnow : max s.clk.rackTime time = now) {gen : BitVec 4}
include hd hnow

theorem exec_mcDrain_some {g : Gen} (hg : s.drainGen gen now = some g) :
    exec (.mcDrain time gen) s = .next (((s.beforeDrain g now).until now).onGen gen fun g => { g with drained := true }) := by
  subst hnow
  refine (whenTrue_of hd ..).trans (congrArg Host.Outcome.next ?_)
  unfold State.drainGen at hg
  rw [hg]
  rfl

theorem exec_mcDrain_none (hg : s.drainGen gen now = none) (ho : s.coup.owner.toNat < s.cfg.nSeq) :
    exec (.mcDrain time gen) s = .next (s.until now).couplerGen := by
  subst hnow
  refine (whenTrue_of hd ..).trans (congrArg Host.Outcome.next ?_)
  unfold State.drainGen at hg
  rw [hg]
  exact if_pos ho

end

/-- Settles O45: by the cases of the rows, each with its rule. That an early beat slips as it comes, a late one in the cycle after, and that a
late drain is missed first, are the model's choices (notes/assumptions/77). -/
theorem epilogueBeatsAndDrains : Obligations.EpilogueBeatsAndDrains := by
  intro time gen s hd now u q live target drains
  have liveAt (v : State) (d : Nat) (h : live v d) : v.liveAt d := ⟨h.1, h.2.1, h.2.2⟩
  refine ⟨fun last data hh => ?held, fun last data hh ht hl => ?outside, fun last data g r x l hh ht hg => ?beat,
    fun g hg => ⟨fun hin => ?drained, fun due hdue hlate => ?late⟩, fun hn ho hl => ?unnamed⟩
  case held => exact ⟨_, exec_epilogueBeat_held hd rfl gen last data hh, State.fatalNow_aon (s := u) 4 none⟩
  case outside =>
    refine ⟨_, exec_epilogueBeat_free hd rfl gen last data hh, ?_⟩
    rw [show s.beatGen gen (max s.clk.rackTime time) = none from ht]
    exact State.couplerGen_spec (liveAt u q hl)
  case beat =>
    intro ch due fin inPlace
    have he : exec (.epilogueBeat time gen last data) s = .next (s.epiBeat g now last data) := by
      rw [exec_epilogueBeat_free hd rfl gen last data hh, show s.beatGen gen (max s.clk.rackTime time) = some g from ht]
    refine ⟨fun hnow hin => ⟨_, he, ?_⟩, fun hout => ?_⟩
    · rw [State.epiBeat_inTime hg ⟨hnow, hin⟩]
      exact State.takeBeat_spec (s := u) g now last data
    · intro w hl
      obtain ⟨detail, hslip⟩ := State.epiBeat_slips hg (t := now) (last := last) (fun h => hout.elim (· h.1) (· h.2)) data
      obtain ⟨ha, hk⟩ := State.couplerSlip_spec (liveAt w g.seq hl) detail due
      exact ⟨_, w.couplerSlip g.seq detail due, he, ha, hk, hslip ▸ (State.takeBeat_spec g now last data).1⟩
  case drained =>
    refine ⟨_, exec_mcDrain_some hd rfl hg, ?_⟩
    rw [State.beforeDrain_inTime hin]
    exact ⟨State.keeps_onGen _ _ _, rfl, fun y hy hn => fun ha => State.mem_onGen gen (fun g => { g with drained := true }) hy hn ha⟩
  case late =>
    intro w hl
    obtain ⟨ha, hk⟩ := State.couplerSlip_spec (liveAt w g.seq hl) 0x80000000 due
    refine ⟨_, w.couplerSlip g.seq 0x80000000 due, exec_mcDrain_some hd rfl hg, ha, hk, ?_⟩
    rw [State.beforeDrain_late hdue hlate]
    exact State.keeps_onGen _ _ _
  case unnamed => exact ⟨_, exec_mcDrain_none hd rfl hn ho, State.couplerGen_spec (liveAt u q hl)⟩

end Sys2Proof.Machine
end

section
/-! PROOFS. The register port: refused accesses (02 R53-R55), and the mailbox, alarm and snapshot registers (02 R57; 04 R111-R116; 17 R431,
R438, R439). -/

namespace Sys2Proof.Machine

variable {s : State}

/-! ## Refusals -/

/-- The first entry of a list whose condition holds, by its first entry. -/
theorem firstApplies_cons (c : Bool) (v d : BitVec 3) (l : List (Bool × BitVec 3)) :
    ((((c, v) :: l).find? Prod.fst).map Prod.snd).getD d = if c = true then v else ((l.find? Prod.fst).map Prod.snd).getD d := by
  cases c <;> rfl

/-- The code of an access is the first that applies, in the order of R55. -/
theorem State.rspCode_first (s : State) (src a : Nat) (wr : Bool) :
    s.rspCode src wr a = ((([(decide (a % 8 ≠ 0), rspMisaligned),
       (decide (s.boot.straps.fedDies ≠ 0 ∧ s.boot.straps.fedMaster = false) && !s.identityAt a, rspSlave),
       (!s.boot.ready && !s.identityAt a && regionOf a != .startup, rspNotReady),
       (decide (s.aon.power = .halted) && !haltedServes wr (regionOf a), rspHalted),
       ((s.readWord a).isNone && !s.hidden src wr (regionOf a), rspUnmapped),
       (!s.allowed src wr (regionOf a), rspDenied)] : List (Bool × BitVec 3)).find? Prod.fst).map Prod.snd).getD rspOk := by
  simp only [firstApplies_cons, List.find?_nil, Option.map_none, Option.getD_none]
  unfold State.rspCode
  dsimp only
  refine if_congr ?_ rfl (if_congr ?_ rfl (if_congr ?_ rfl (if_congr ?_ rfl (if_congr ?_ rfl (if_congr ?_ rfl rfl)))))
  all_goals simp [and_assoc]

/-- A refused read is answered with its code and changes nothing. -/
theorem State.regRead_refused (src : BitVec 4) (a : Nat) (h : s.regUp = true) (hc : s.rspCode src.toNat false a ≠ rspOk) :
    portRequest s (s.regRead src.toNat a) = .next (s.respond (s.rspCode src.toNat false a) 0) := by
  refine (whenTrue_of h ..).trans (congrArg Host.Outcome.next ?_)
  unfold State.regRead
  exact if_neg hc

/-- Settles O19: the codes by their order, and the rows of a refused write and a refused read. A locked window answers DENIED at every offset, the
reading of notes/assumptions/88. -/
theorem refusedAccessesChangeNothing : Obligations.RefusedAccessesChangeNothing := by
  intro src addr s hup a code applies
  refine ⟨fun wr => s.rspCode_first src.toNat a wr, fun data hc => ?_, fun hc => ?_⟩
  · exact ⟨_, State.regWrite_refused s src a data hup hc, s.respond_answered _ _, s.keeps_respond _ _⟩
  · exact ⟨_, State.regRead_refused src a hup hc, s.respond_answered _ _, s.keeps_respond _ _⟩

/-! ## Mailbox registers -/

theorem regionOf_mailbox {m off : Nat} (hm : m < 16) (ho : off < 0x2000) : regionOf (0x1000 + 0x2000 * m + off) = .mailbox m off := by
  have h1 : (0x1000 + 0x2000 * m + off - 0x1000) / 0x2000 = m := by omega
  have h2 : (0x1000 + 0x2000 * m + off - 0x1000) % 0x2000 = off := by omega
  simp (disch := omega) only [regionOf, if_neg, if_pos, h1, h2]

theorem State.writeReg_mailbox (s : State) {m off : Nat} (hm : m < 16) (ho : off < 0x2000) (data : Word) :
    s.writeReg (0x1000 + 0x2000 * m + off) data = (rspOk, s.writeMailbox m off data) := by
  unfold State.writeReg
  rw [regionOf_mailbox hm ho]

/-- A write to the data area of a mailbox stores its word. -/
theorem State.writeMailbox_data (m : Nat) {a : Nat} (ha : 0x1000 ≤ a) (data : Word) :
    s.writeMailbox m a data = s.onMbx m fun b => { b with mem := b.mem.write64 a data } := by
  unfold State.writeMailbox
  split
  iterate 4 omega
  exact if_pos (.inr ha)

/-- What a granted write to a mailbox register leaves, where it updates its mailbox alone. -/
theorem State.answered_onMbx {m : Nat} (hm : m < s.mbx.length) (f : Mailbox → Mailbox) :
    let t := (s.onMbx m f).respond rspOk 0
    s.answered t rspOk 0 ∧ t.mbxAt m = f (s.mbxAt m) ∧ (∀ k, k ≠ m → t.mbxAt k = s.mbxAt k) ∧ s.keeps t [.rp, .mbx] := by
  intro t
  have hat (k : Nat) : t.mbxAt k = if m = k ∧ k < s.mbx.length then f (s.mbxAt k) else s.mbxAt k := s.onMbx_mbxAt m k f
  refine ⟨State.answered_respond_of_keeps (s.keeps_onMbx m f) (by decide) _ _, ?_, fun k hk => ?_,
    State.keeps_respond_of_keeps (s.keeps_onMbx m f) _ _⟩
  · rw [hat, if_pos ⟨rfl, hm⟩]
  · rw [hat, if_neg fun h => hk h.1.symm]

/-- A granted write to a mailbox register. -/
theorem State.regWrite_mailbox {src : BitVec 4} {m off a : Nat} (hm : m < 16) (ho : off < 0x2000) (ha : a = 0x1000 + 0x2000 * m + off)
    (data : Word) (hg : s.grants src true a = true) :
    portRequest s (s.regWrite src.toNat a data) = .next ((s.writeMailbox m off data).respond rspOk 0) := by
  subst ha
  rw [s.regWrite_granted src _ data hg, s.writeReg_mailbox hm ho]

/-- The reset of a mailbox of which Kolate holds no request (R115). -/
theorem State.resetMbx_free {m : Nat} (h : s.holds m = false) : s.resetMbx m = (s.onMbx m fun b => { b with resetBusy := true }).finishReset m := by
  unfold State.resetMbx
  exact if_neg (by rw [show (s.onMbx m fun b => { b with resetBusy := true }).holds m = s.holds m from rfl, h]; decide)

theorem State.resetMbx_held {m : Nat} (h : s.holds m = true) : s.resetMbx m = s.onMbx m fun b => { b with resetBusy := true } := by
  unfold State.resetMbx
  exact if_pos h

/-- The whole reset as one update of the mailbox. -/
theorem State.finishReset_reset (m : Nat) : (s.onMbx m fun b => { b with resetBusy := true }).finishReset m =
    (s.onMbx m fun b => { b with reqTail := 0, reqHead := 0, cplTail := 0, cplHead := 0, overrun := false, resetBusy := false, reserved := 0 }).onKol
      fun k => { k with epochs := k.epochs.map fun e => if e.mbox = m then { e with mute := true } else e } := by
  unfold State.finishReset State.onMbx
  dsimp only
  rw [List.modify_modify_eq]
  rfl

/-- Mailbox counters and reset (R111-R115). -/
theorem mailbox_registers (src : BitVec 4) (m : Nat) (data : Word) (s : State) (hm : m < 16) (hs : s.shaped = true) :
     let b := s.mbxAt m
     let only (t : State) (b' : Mailbox) (l : List Field) : Prop :=
       s.answered t rspOk 0 ∧ t.mbxAt m = b' ∧ (∀ k, k ≠ m → t.mbxAt k = s.mbxAt k) ∧ s.keeps t l
     let v : BitVec 16 := data.setWidth 16
     (s.grants src true (0x1008 + 0x2000 * m) = true → ∃ t, exec (.reqTail src m data) s = .next t ∧
       only t { b with reqTail := v, overrun := b.overrun || decide (b.entries < (v - b.reqHead).toNat) } [.rp, .mbx]) ∧
     (s.grants src true (0x1020 + 0x2000 * m) = true → ∃ t, exec (.cplHead src m data) s = .next t ∧
       only t { b with cplHead := v, overrun := b.overrun || decide (b.entries < (b.cplTail - v).toNat) } [.rp, .mbx]) ∧
     (s.grants src true (0x1038 + 0x2000 * m) = true → ∃ t, exec (.mbxReset src m data) s = .next t ∧
       (data.getLsbD 0 = false → s.answered t rspOk 0 ∧ s.keeps t [.rp]) ∧
       (data.getLsbD 0 = true → s.holds m = true → only t { b with resetBusy := true } [.rp, .mbx]) ∧
       (data.getLsbD 0 = true → s.holds m = false →
         only t { b with reqTail := 0, reqHead := 0, cplTail := 0, cplHead := 0, overrun := false, resetBusy := false, reserved := 0 }
           [.rp, .mbx, .kol] ∧
         t.kol = { s.kol with epochs := s.kol.epochs.map fun e => if e.mbox = m then { e with mute := true } else e })) := by
  intro b only v
  have hlen : m < s.mbx.length := by
    have h : s.mbx.length = 16 := congrArg Shape.mbx (s.shaped_iff.1 hs)
    omega
  have addr (off : Nat) (h : s.grants src true (0x1000 + off + 0x2000 * m) = true) : s.grants src true (mbxAddr m off) = true := by
    rw [mbxAddr, show 0x1000 + 0x2000 * m + off = 0x1000 + off + 0x2000 * m by omega]
    exact h
  refine ⟨fun hg => ?_, fun hg => ?_, fun hg => ?_⟩
  · exact ⟨_, State.regWrite_mailbox hm (off := 0x08) (by decide) rfl data (addr 0x08 hg), State.answered_onMbx hlen _⟩
  · exact ⟨_, State.regWrite_mailbox hm (off := 0x20) (by decide) rfl data (addr 0x20 hg), State.answered_onMbx hlen _⟩
  · refine ⟨_, State.regWrite_mailbox hm (off := 0x38) (by decide) rfl data (addr 0x38 hg), fun h0 => ?_, fun h1 hh => ?_, fun h1 hh => ?_⟩
    · rw [show s.writeMailbox m 0x38 data = s from if_neg (by rw [h0]; decide)]
      exact ⟨s.respond_answered _ _, s.keeps_respond _ _⟩
    · rw [show s.writeMailbox m 0x38 data = s.resetMbx m from if_pos h1, State.resetMbx_held hh]
      exact State.answered_onMbx hlen _
    · rw [show s.writeMailbox m 0x38 data = s.resetMbx m from if_pos h1, State.resetMbx_free hh, State.finishReset_reset]
      obtain ⟨ha, hb, hk, hf⟩ := State.answered_onMbx hlen fun b =>
        { b with reqTail := 0, reqHead := 0, cplTail := 0, cplHead := 0, overrun := false, resetBusy := false, reserved := 0 }
      exact ⟨⟨ha, hb, hk, (hf.andThen (State.keeps_onKol _ fun k =>
        { k with epochs := k.epochs.map fun e => if e.mbox = m then { e with mute := true } else e })).mono (by decide)⟩, rfl⟩

/-! ## What no register write changes -/

/-- The fields that a register write may change: all but the configuration, the surroundings' scratchpad and the queue of commands. -/
def writeFields : List Field :=
  [.aon, .clk, .boot, .rp, .win, .mbx, .kol, .parts, .keyHigh, .cmdMem, .seqs, .cores, .tables, .ledger, .ckpt, .coup, .ports, .pairHeld,
    .coll, .fedIn, .fedOut, .agenda, .gln, .tap, .free]

/-- A register write keeps the configuration, the surroundings' scratchpad and the queue. -/
def State.written (s t : State) : Prop := s.keeps t writeFields

theorem State.keeps.written {t : State} {l : List Field} (h : s.keeps t l) (hl : ∀ f, f ∈ l → f ∈ writeFields := by decide) : s.written t :=
  h.mono hl

theorem State.written.trans {t u : State} (h : s.written t) (k : t.written u) : s.written u := State.keeps.trans h k

theorem State.written_refl (s : State) : s.written s := s.keeps_refl _

theorem State.written_ite {t u : State} {c : Prop} [Decidable c] (h : s.written t) (k : s.written u) : s.written (if c then t else u) :=
  State.keeps_ite h k

theorem State.written_foldl {α : Type} (f : State → α → State) (h : ∀ (s : State) (a : α), s.written (f s a)) (l : List α) (s : State) :
    s.written (l.foldl f s) := State.keeps_foldl f h l s

theorem State.written_startPhase8 (s : State) : s.written s.startPhase8 := by
  have hend (u : State) : u.written u.endPhase8 := by
    refine State.written_ite ?_ u.written_refl
    unfold State.ready
    extract_lets v c w x
    have hw : v.written w := State.written_ite v.written_refl (v.keeps_post _ _).written
    exact (((((u.keeps_onBoot _).written.trans hw).trans (w.keeps_onBoot _).written).trans (x.keeps_onAon _).written).trans
      (State.keeps_identityRefresh _).written).trans (State.keeps_applyIdentities _).written
  exact (((s.keeps_onBoot _).written.trans (State.written_foldl _ (fun s p => (s.keeps_startTraining p).written) _ _)).trans
    (State.written_foldl _ (fun s i => (s.keeps_releaseBypass i).written) _ _)).trans (hend _)

theorem State.written_startPhase7 (s : State) : s.written s.startPhase7 :=
  State.written_ite ((s.keeps_onBoot _).written.trans (State.written_foldl _ (fun s p => (s.keeps_startTraining p).written) _ _))
    ((s.keeps_onBoot _).written.trans (State.written_startPhase8 _))

theorem State.written_startPhase4 (s : State) : s.written s.startPhase4 := by
  have hopen (u : State) : s.written u → s.written ((u.onBoot fun b => { b with erased := true }).onAon fun a => { a with secLock := true }) :=
    fun h => (h.trans (u.keeps_onBoot _).written).trans (State.keeps_onAon _ _).written
  refine State.written_ite ((s.keeps_onBoot _).written.trans (State.keeps_onBoot _ _).written) (State.written_ite ?_ ?_)
  · exact (hopen _ (s.keeps_onBoot _).written).trans (State.written_startPhase7 _)
  · exact (hopen _ (s.keeps_onBoot _).written).trans (State.keeps_onBoot _ _).written

theorem State.written_warmReset (s : State) : s.written s.warmReset := by
  let u := (List.range s.cfg.nSeq).foldl State.haltDomain s
  have hu : s.written u := State.written_foldl _ (fun s d => (s.keeps_haltDomain d).written) _ _
  have hc : u.written u.warmCleared := by
    intro f hf; cases f <;> first | rfl | exact absurd (by decide) hf
  exact (hu.trans hc).trans (State.written_startPhase4 _)

theorem State.written_writeStartup (s : State) (a : Nat) (data : Word) : s.written (s.writeStartup a data).2 := by
  have hgo : s.written s.bootGo := by
    refine State.written_ite (State.written_ite (s.keeps_onBoot _).written ?_) s.written_refl
    exact (s.keeps_onBoot _).written.trans (State.keeps_onBoot _ _).written
  unfold State.writeStartup
  split
  · exact (s.keeps_onBoot _).written
  · exact (s.keeps_onBoot _).written
  · exact State.written_ite hgo s.written_refl
  · split
    · exact s.written_warmReset
    · exact s.written_refl
  · exact s.written_refl

theorem State.written_writeMailbox (s : State) (m off : Nat) (data : Word) : s.written (s.writeMailbox m off data) := by
  unfold State.writeMailbox
  split
  · exact (s.keeps_onMbx _ _).written
  · exact (s.keeps_onMbx _ _).written
  · exact (s.keeps_onMbx _ _).written
  · exact State.written_ite (s.keeps_resetMbx m).written s.written_refl
  · exact State.written_ite (s.keeps_onMbx _ _).written s.written_refl

theorem State.written_writeGleaner (s : State) (off : Nat) (data : Word) : s.written (s.writeGleaner off data) := by
  unfold State.writeGleaner
  split
  · exact (s.keeps_onAon _).written
  case h_6 => exact State.written_ite (s.keeps_onGln _).written s.written_refl
  case h_9 => exact s.written_refl
  all_goals exact (s.keeps_onGln _).written

theorem State.written_writeThere (s : State) (die : Nat) (m : FedMsg) (f : Windows → Windows) : s.written (s.writeThere die m f).2 := by
  obtain ⟨-, -, -, h⟩ := s.writeThere_spec die m f
  exact h.written

theorem State.written_writePos (s : State) (g : Nat) (data : Word) : s.written (s.writePos g data).2 := by
  have hmap (u : State) (h : s.writePosMap (g % s.cfg.nActive) data = some u) : s.written u := by
    unfold State.writePosMap at h
    dsimp only at h
    split at h
    · exact absurd h nofun
    · exact Option.some.inj h ▸ (s.keeps_onCores _).written
  unfold State.writePos
  dsimp only
  split
  · split
    next u hu => exact hmap u hu
    next => exact (s.keeps_onWin _).written
  · split
    · exact (s.keeps_onWin _).written
    · exact s.written_writeThere _ _ _

theorem State.keeps_advanceSel (s : State) (a : Nat) : s.keeps (s.advanceSel a) [.win] := by
  unfold State.advanceSel
  split
  · exact s.keeps_onWin _
  · exact s.keeps_onWin _
  · exact s.keeps_refl _

theorem State.written_writeCmdData (s : State) (data : Word) : s.written (s.writeCmdData data).2 := by
  have hmem : s.keeps { s with cmdMem := s.cmdMem.write64 s.cmdAddr data } [.cmdMem] := by
    intro f hf; cases f <;> first | rfl | exact absurd (by decide) hf
  unfold State.writeCmdData
  dsimp only
  split
  · exact (s.keeps_onWin _).written
  · exact ((hmem.andThen (State.keeps_onSeq _ _ _)).andThen (State.keeps_advanceSel _ _)).written

theorem State.written_writeTblData (s : State) (data : Word) : s.written (s.writeTblData data).2 := by
  unfold State.writeTblData
  split
  · exact (s.keeps_onWin _).written
  · exact ((s.keeps_withTables _).andThen (State.keeps_advanceSel _ _)).written

theorem State.written_writeCoupler (s : State) (off : Nat) (data : Word) : s.written (s.writeCoupler off data).2 := by
  have copied (f : Coupler → Coupler) (p : Nat → Cmd → Bool) (m : FedMsg) : s.written (((s.onCoup f).unarmIf p).fedAll m) :=
    (((s.keeps_onCoup f).andThen (State.keeps_unarmIf _ p)).andThen (State.keeps_fedAll _ m)).written
  unfold State.writeCoupler
  split_ifs
  · exact s.written_refl
  · exact copied _ _ _
  · exact s.written_refl
  · exact copied _ _ _
  · exact s.written_refl

/-- Does a PORT_CTL word loop its port back (R70, R382)? -/
def State.loopsBack (s : State) (p : Nat) (data : Word) : Bool :=
  data.getLsbD 2 && decide (s.aon.power = .maintenance ∧ (!s.carriesChannel p) = true)

/-- PORT_CTL stored, and a loopback that does not apply recorded (R382). -/
def State.portCtlStored (s : State) (p : Nat) (data : Word) : State :=
  (if data.getLsbD 2 && !decide (s.aon.power = .maintenance ∧ (!s.carriesChannel p) = true)
    then s.onWin fun w => { w with linkErr := w.linkErr ||| 2 } else s).onPort p fun q =>
      { q with ctl := word (field data 0 2 + 4 * bit01 (s.loopsBack p data)), phyLpbk := s.loopsBack p data }

theorem State.writePortCtl_eq (s : State) (p : Nat) (data : Word) : s.writePortCtl p data =
    if s.anyEpoch ∧ field data 0 2 ≠ field (s.portAt p).ctl 0 2 then (rspDenied, s.onWin fun w => { w with linkErr := w.linkErr ||| 1 })
    else (rspOk, if data.getLsbD 0 then s.portCtlStored p data else (s.portCtlStored p data).pairLost p 0x0B) := by
  unfold State.writePortCtl
  dsimp only
  split
  · rfl
  · exact (apply_ite (Prod.mk rspOk) ..).symm

theorem State.keeps_portCtlStored (s : State) (p : Nat) (data : Word) : s.keeps (s.portCtlStored p data) [.win, .ports] :=
  ((State.keeps_ite (s.keeps_onWin _) (s.keeps_refl _)).andThen (State.keeps_onPort _ p _)).mono (by decide)

theorem State.written_writePortCtl (s : State) (p : Nat) (data : Word) : s.written (s.writePortCtl p data).2 := by
  have hset := (s.keeps_portCtlStored p data).written
  rw [State.writePortCtl_eq]
  split
  · exact (s.keeps_onWin _).written
  · exact State.written_ite hset (hset.trans (State.keeps_pairLost _ _ _).written)

/-- The bit of PAIR_BYPASS of one pair, stored. -/
def State.holdPair (s : State) (i : Nat) (v : Bool) : State := { s with pairHeld := s.pairHeld.set i v }

theorem State.keeps_holdPair (s : State) (i : Nat) (v : Bool) : s.keeps (s.holdPair i v) [.pairHeld] := by
  intro f hf; cases f <;> first | rfl | exact absurd (by decide) hf

/-- A pair enters or leaves bypass as its new bit asks for, where it can (R108, R382). -/
def State.movePair (s : State) (i : Nat) (v : Bool) : State :=
  if s.pairAbsent i then s else if v then s.pairBypass i else if s.pairEnabled i then s.releaseBypass i else s

/-- One pair of PAIR_BYPASS. -/
def State.writePair (data : Word) (s : State) (i : Nat) : State :=
  if data.getLsbD i = s.pairHeld.getD i false then s else (s.holdPair i (data.getLsbD i)).movePair i (data.getLsbD i)

theorem State.writePairBypass_eq (s : State) (data : Word) : s.writePairBypass data =
    if s.anyEpoch then (rspDenied, s.onWin fun w => { w with linkErr := w.linkErr ||| 1 })
    else (rspOk, (List.range s.cfg.nPair).foldl (State.writePair data) s) := rfl

theorem State.keeps_movePair (s : State) (i : Nat) (v : Bool) : s.keeps (s.movePair i v) [.ports, .gln, .aon] :=
  State.keeps_ite (s.keeps_refl _) (State.keeps_ite (s.keeps_pairBypass i)
    (State.keeps_ite ((s.keeps_releaseBypass i).mono (by decide)) (s.keeps_refl _)))

theorem State.keeps_writePair (data : Word) (s : State) (i : Nat) : s.keeps (State.writePair data s i) [.pairHeld, .ports, .gln, .aon] :=
  State.keeps_ite (s.keeps_refl _) (((s.keeps_holdPair i _).andThen (State.keeps_movePair _ i _)).mono (by decide))

theorem State.written_writePairBypass (s : State) (data : Word) : s.written (s.writePairBypass data).2 := by
  rw [State.writePairBypass_eq]
  split
  · exact (s.keeps_onWin _).written
  · exact State.written_foldl _ (fun s i => (s.keeps_writePair data i).written) _ _

theorem State.written_writeJobWord (s : State) (sel : Word) (f : Job → Job) : s.written (s.writeJobWord sel f).2 := by
  unfold State.writeJobWord
  split_ifs
  · exact (s.keeps_onWin _).written
  · exact s.written_refl
  · exact (s.keeps_onDom _ _).written

theorem State.written_writeLedgerWord (s : State) (k : Nat) (data : Word) : s.written (s.writeLedgerWord k data).2 := by
  unfold State.writeLedgerWord
  dsimp only
  split_ifs
  · exact s.written_writeThere _ _ _
  · exact (s.keeps_onWin _).written
  · rw [State.writeEntries_eq]
    exact ((s.keeps_writeAll _).andThen (State.keeps_unarmIf _ _)).written

theorem State.written_writeExpert (s : State) (id off : Nat) (data : Word) : s.written (s.writeExpert id off data).2 := by
  unfold State.writeExpert
  dsimp only
  split
  case h_2 => exact s.written_writeCmdData data
  case h_6 => exact s.written_writePos _ data
  case h_8 => exact s.written_writeTblData data
  case h_14 => exact s.written_writeCoupler _ data
  case h_15 => exact s.written_writePairBypass data
  case h_17 => exact s.written_writePortCtl _ data
  case h_20 => exact s.written_writeJobWord _ _
  case h_22 => exact s.written_writeJobWord _ _
  case h_24 => exact s.written_refl
  case h_26 => exact s.written_writeLedgerWord _ data
  case h_27 => exact s.written_refl
  all_goals exact (s.keeps_onWin _).written

/-- A register write changes no command that waits. -/
theorem State.written_writeReg (s : State) (a : Nat) (data : Word) : s.written (s.writeReg a data).2 := by
  unfold State.writeReg
  split
  · exact s.written_writeStartup a data
  · exact s.written_writeMailbox _ _ data
  · exact State.written_ite (s.keeps_fedSend _ _).written (s.written_writeGleaner _ data)
  · exact s.written_writeExpert _ _ data
  · exact s.written_refl

theorem State.writeReg_pending (s : State) (a : Nat) (data : Word) : (s.writeReg a data).2.pending = s.pending :=
  s.written_writeReg a data .pending (by decide)

/-- A granted write to a gleaner register of this die. -/
theorem State.regWrite_gleaner {src : BitVec 4} {a off : Nat} (hr : regionOf a = .gleaner off) (ho : off < 0x340)
    (hdie : s.gln.die.toNat % 8 = s.boot.straps.dieId.toNat) (data : Word) (hg : s.grants src true a = true) :
    portRequest s (s.regWrite src.toNat a data) = .next ((s.writeGleaner off data).respond rspOk 0) := by
  rw [s.regWrite_granted src a data hg, s.writeReg_gleaner_here data hr (by omega) (by omega) hdie]

/-- SNAP_RELEASE of 1 unfreezes the snapshot (R438). -/
theorem State.snapRelease_gln (s : State) (data : Word) :
    (s.writeGleaner 0x338 data).gln = { s.gln with snapValid := s.gln.snapValid && !data.getLsbD 0 } := by
  show (if data.getLsbD 0 then s.onGln fun g => { g with snapValid := false } else s).gln = _
  cases data.getLsbD 0 with
  | true => rw [Bool.not_true, Bool.and_false]; rfl
  | false => rw [Bool.not_false, Bool.and_true]; rfl

/-- Settles O21: each granted write is that of its register, answered; `State.written_writeReg` says what none of them changes. -/
theorem countersAlarmsAndSnapshotsClear : Obligations.CountersAlarmsAndSnapshotsClear := by
  refine ⟨mailbox_registers, fun src data s hdie => ⟨fun hg => ?_, fun hg => ?_⟩, fun src addr data s hg => ?_⟩
  · have hk : s.keeps (s.writeGleaner 0x000 data) [.aon] := s.keeps_onAon _
    exact ⟨_, State.regWrite_gleaner (off := 0x000) rfl (by decide) hdie data hg, State.answered_respond_of_keeps hk (by decide) _ _, rfl,
      State.keeps_respond_of_keeps hk _ _⟩
  · have hk : s.keeps (s.writeGleaner 0x338 data) [.gln] := State.keeps_ite (s.keeps_onGln _) (s.keeps_refl _)
    exact ⟨_, State.regWrite_gleaner (off := 0x338) rfl (by decide) hdie data hg, State.answered_respond_of_keeps hk (by decide) _ _, s.snapRelease_gln data,
      State.keeps_respond_of_keeps hk _ _⟩
  · refine ⟨_, s.regWrite_granted src addr.toNat data hg, (s.writeReg_pending _ data).symm, rfl, rfl, rfl, fun m hm hl ha => ?_,
      fun m a hm hs hw h1 h2 ha => ?_⟩
    · rw [ha, show 0x1030 + 0x2000 * m = 0x1000 + 0x2000 * m + 0x30 by omega, s.writeReg_mailbox hm (by decide)]
      exact State.answered_onMbx (by omega) fun b => { b with irqEn := data.getLsbD 0 }
    · have hlen : m < s.mbx.length := by
        have h : s.mbx.length = 16 := congrArg Shape.mbx (s.shaped_iff.1 hs)
        omega
      have hmem : (s.mbxAt m).mem.wf = true := by
        rw [State.memWf, Bool.and_eq_true, List.all_eq_true] at hw
        rw [State.mbxAt, List.getD_eq_getElem _ _ hlen]
        exact hw.2 _ (List.getElem_mem _)
      rw [ha, s.writeReg_mailbox hm h2, State.writeMailbox_data m h1]
      obtain ⟨hans, hat, hother, hk⟩ := State.answered_onMbx hlen fun b => { b with mem := b.mem.write64 a data }
      refine ⟨hans, ?_, ?_, hother, hk⟩
      · rw [hat]
        exact Mem.stored_write64 hmem a data
      · rw [hat]

end Sys2Proof.Machine
end

section
/-! PROOFS. PORT_CTL and PAIR_BYPASS: what they store, and what they do to ports and ring pairs (02 R70; 03 R108, R109; 15 R372, R382). -/

namespace Sys2Proof.Machine

variable {s : State}

/-! ## One port among others -/

/-- A port whose drive apart nothing has changed. -/
def Port.sameButDrive (p q : Port) : Prop := ∃ e r, q = { p with phyEn := e, phyRdy := r }

theorem Port.sameButDrive_refl (p : Port) : p.sameButDrive p := ⟨p.phyEn, p.phyRdy, rfl⟩

theorem Port.sameButDrive.trans {p q r : Port} (h : p.sameButDrive q) (k : q.sameButDrive r) : p.sameButDrive r := by
  obtain ⟨e, a, rfl⟩ := h
  obtain ⟨f, b, rfl⟩ := k
  exact ⟨f, b, rfl⟩

theorem State.assertBypass_sameButDrive (i p : Nat) : (s.portAt p).sameButDrive ((s.assertBypass i).portAt p) := by
  have one (v : State) (a : Nat) : (v.portAt p).sameButDrive ((v.onPort a fun q => { q with phyEn := false, phyRdy := false }).portAt p) := by
    rw [State.onPort_portAt]
    split
    · exact ⟨false, false, rfl⟩
    · exact Port.sameButDrive_refl _
  exact (one s _).trans (one _ _)

theorem State.onPort_portAt_ne {a p : Nat} (h : a ≠ p) (f : Port → Port) : (s.onPort a f).portAt p = s.portAt p := by
  rw [State.onPort_portAt, if_neg fun k => h k.1]

theorem State.setPort_portAt_ne {a p : Nat} (h : a ≠ p) (st : PortState) (r : Nat) : (s.setPort a st r).portAt p = s.portAt p := by
  rw [State.setPort_portAt, if_neg fun k => h k.1]

theorem State.portOff_portAt_ne {a p : Nat} (h : a ≠ p) (st : PortState) (r : Nat) : (s.portOff a st r).portAt p = s.portAt p := by
  unfold State.portOff
  rw [State.setPort_portAt_ne h, State.onPort_portAt_ne h]

/-- A port that goes off: its state and reason, no drive, and its control register as it was. -/
structure Port.wentOff (p q : Port) (st : PortState) (r : BitVec 8) : Prop where
  state : q.state = st
  reason : q.reason = r
  phyEn : q.phyEn = false
  ctl : q.ctl = p.ctl
  phyLpbk : q.phyLpbk = p.phyLpbk
  los : q.los = p.los

theorem State.portOff_wentOff {p : Nat} (hp : p < s.ports.length) (st : PortState) (r : Nat) :
    (s.portAt p).wentOff ((s.portOff p st r).portAt p) st (BitVec.ofNat 8 r) := by
  have hlen : (s.ports.modify p fun q => { q with phyEn := false, phyRdy := false, alignRun := 0, alignLast := none, idleRun := 0,
                                                    partnerAcked := false, calibRun := 0, elastic := [] }).length = s.ports.length :=
    List.length_modify ..
  unfold State.portOff
  rw [State.setPort_portAt, if_pos ⟨rfl, by rw [State.onPort_ports, hlen]; exact hp⟩, State.onPort_portAt, if_pos ⟨rfl, hp⟩]
  exact ⟨rfl, rfl, rfl, rfl, rfl, rfl⟩

/-- The state and reason in which a port that is lost lies: absent without a valid strap (R69, R70). -/
def State.lostState (s : State) (p : Nat) : PortState := if s.strapValid p then .down else .absent
def State.lostReason (s : State) (p r : Nat) : BitVec 8 :=
  if s.strap p = 0 then 0x01 else if s.strapValid p then BitVec.ofNat 8 r else 0x02

theorem State.portDown_wentOff {p : Nat} (hp : p < s.ports.length) (r : Nat) :
    (s.portAt p).wentOff ((s.portDown p r).portAt p) (s.lostState p) (s.lostReason p r) := by
  unfold State.portDown State.lostState State.lostReason
  by_cases h0 : s.strap p = 0
  · have hv : s.strapValid p = false := by simp [State.strapValid, h0]
    rw [if_pos h0, hv, if_neg (by decide), if_pos h0]
    exact State.portOff_wentOff hp _ _
  · rw [if_neg h0, if_neg h0]
    by_cases hv : s.strapValid p = true
    · rw [if_neg (by rw [hv]; decide), if_pos hv, if_pos hv]
      exact State.portOff_wentOff hp _ _
    · rw [if_pos (by simpa using hv), if_neg hv, if_neg hv]
      exact State.portOff_wentOff hp _ 0x02

theorem Port.wentOff.of_drive {p q x : Port} {st : PortState} {r : BitVec 8} (h : p.wentOff q st r) (k : q.sameButDrive x)
    (hx : x.phyEn = false) : p.wentOff x st r := by
  obtain ⟨e, a, rfl⟩ := k
  exact ⟨h.state, h.reason, hx, h.ctl, h.phyLpbk, h.los⟩

/-- The other port of a ring pair is another port. -/
theorem ringPartner_ne {c : Cfg} {p q : Nat} (h : c.ringPartner p = some q) : q ≠ p := by
  unfold Cfg.ringPartner at h
  obtain ⟨i, hi, hq⟩ := Option.map_eq_some_iff.1 h
  unfold Cfg.pairPorts at hq
  dsimp only at hq
  split at hq <;> omega

/-- The loss of a port leaves that port as `portDown` does, with its pair in bypass. -/
theorem State.pairLost_wentOff {p : Nat} (hp : p < s.ports.length) (r : Nat) :
    (s.portAt p).wentOff ((s.pairLost p r).portAt p) (s.lostState p) (s.lostReason p r) := by
  have hd := State.portDown_wentOff hp r
  unfold State.pairLost
  split
  next i q _ hq =>
    have hsame : (if ((s.portDown p r).portAt q).state = .down ∨ ((s.portDown p r).portAt q).state = .absent then s.portDown p r
        else (s.portDown p r).portOff q .bypass 0).portAt p = (s.portDown p r).portAt p := by
      split
      · rfl
      · exact State.portOff_portAt_ne (ringPartner_ne hq) _ _
    refine hd.of_drive ?_ (State.phyEn_assertBypass _ i p ?_)
    · rw [← hsame]
      exact State.assertBypass_sameButDrive i p
    · rw [hsame]
      exact hd.phyEn
  next => exact hd

/-! ## PORT_CTL -/

theorem nPort_le (c : Cfg) : c.nPort ≤ 48 := by
  unfold Cfg.nPort; split <;> decide

theorem State.writeReg_portCtl (s : State) {p : Nat} (hp : p < 48) (data : Word) : s.writeReg (0x180000 + 8 * p) data = s.writePortCtl p data := by
  have hid : (0x180000 + 8 * p - 0x100000) / 0x10000 + 1 = 9 := by omega
  have hoff : (0x180000 + 8 * p) % 0x10000 = 8 * p := by omega
  simp only [State.writeReg, regionOf_expert (a := 0x180000 + 8 * p) (by omega) (by omega), hid, hoff]
  rw [State.writeExpert, Nat.mul_div_cancel_left p (by decide)]
  all_goals omega

theorem State.writeReg_pairBypass (s : State) (data : Word) : s.writeReg 0x180200 data = s.writePairBypass data := by
  simp [State.writeReg, regionOf, State.writeExpert]

/-- The two low bits of a word and one flag above them. -/
theorem word_ctl (data : Word) (b : Bool) : word (field data 0 2 + 4 * bit01 b) = (data &&& 3) ||| (if b then 4 else 0) := by
  have hmask : data.toNat &&& 3 = data.toNat % 4 := Nat.and_two_pow_sub_one_eq_mod data.toNat 2
  have hor : 4 ||| data.toNat % 4 = 4 + data.toNat % 4 := (Nat.two_pow_add_eq_or_of_lt (i := 2) (Nat.mod_lt _ (by decide)) 1).symm
  apply BitVec.eq_of_toNat_eq
  cases b with
  | false => simp [field, word, bit01, hmask]; omega
  | true =>
    rw [BitVec.toNat_or, BitVec.toNat_and, Nat.or_comm]
    simp [field, word, bit01, hmask, hor]
    omega

theorem State.loopsBack_eq (s : State) (p : Nat) (data : Word) :
    s.loopsBack p data = (data.getLsbD 2 && decide (s.aon.power = .maintenance) && !s.carriesChannel p) := by
  unfold State.loopsBack
  rw [Bool.decide_and, Bool.decide_eq_true, Bool.and_assoc]

/-- A loopback that is asked for and does not apply is recorded (R382). -/
theorem State.portCtlStored_win (s : State) (p : Nat) (data : Word) : (s.portCtlStored p data).win =
    { s.win with linkErr := if data.getLsbD 2 && !s.loopsBack p data then s.win.linkErr ||| 2 else s.win.linkErr } := by
  have hc : (data.getLsbD 2 && !s.loopsBack p data) =
      (data.getLsbD 2 && !decide (s.aon.power = .maintenance ∧ (!s.carriesChannel p) = true)) := by
    unfold State.loopsBack
    cases data.getLsbD 2 <;> rfl
  rw [hc]
  unfold State.portCtlStored
  rw [State.onPort_win]
  split <;> rfl

theorem State.portCtlStored_portAt (s : State) {p : Nat} (hp : p < s.ports.length) (data : Word) :
    (s.portCtlStored p data).portAt p = { s.portAt p with ctl := word (field data 0 2 + 4 * bit01 (s.loopsBack p data)), phyLpbk := s.loopsBack p data } ∧
      ∀ x, x ≠ p → (s.portCtlStored p data).portAt x = s.portAt x := by
  let u := if data.getLsbD 2 && !decide (s.aon.power = .maintenance ∧ (!s.carriesChannel p) = true)
    then s.onWin fun w => { w with linkErr := w.linkErr ||| 2 } else s
  have hu : s.keeps u [.win] := State.keeps_ite (s.keeps_onWin _) (s.keeps_refl _)
  have hat (x : Nat) : u.portAt x = s.portAt x := State.portAt_of_ports hu.ports x
  have ht : s.portCtlStored p data = u.onPort p fun q =>
    { q with ctl := word (field data 0 2 + 4 * bit01 (s.loopsBack p data)), phyLpbk := s.loopsBack p data } := rfl
  refine ⟨?_, fun x hx => ?_⟩
  · rw [ht, State.onPort_portAt, if_pos ⟨rfl, by rw [hu.ports]; exact hp⟩, hat]
  · rw [ht, State.onPort_portAt_ne (Ne.symm hx), hat]

theorem exec_portCtlWrite {src : BitVec 4} {p : Nat} (hp : p < 48) (data : Word) (hg : s.grants src true (0x180000 + 8 * p) = true) :
    exec (.portCtlWrite src p data) s = .next ((s.writePortCtl p data).2.respond (s.writePortCtl p data).1 0) := by
  rw [← s.writeReg_portCtl hp]
  exact s.regWrite_granted src _ data hg

theorem exec_pairBypassWrite {src : BitVec 4} (data : Word) (hg : s.grants src true 0x180200 = true) :
    exec (.pairBypassWrite src data) s = .next ((s.writePairBypass data).2.respond (s.writePairBypass data).1 0) := by
  rw [← s.writeReg_pairBypass]
  exact s.regWrite_granted src _ data hg

/-- A write that is refused sets its sticky bit alone. -/
theorem State.answered_linkErr (s : State) (code : BitVec 3) :
    let t := (s.onWin fun w => { w with linkErr := w.linkErr ||| 1 }).respond code 0
    s.answered t code 0 ∧ t.win = { s.win with linkErr := s.win.linkErr ||| 1 } ∧ s.keeps t [.rp, .win] :=
  ⟨State.answered_respond_of_keeps (s.keeps_onWin _) (by decide) _ _, rfl, State.keeps_respond_of_keeps (s.keeps_onWin _) _ _⟩

/-- PORT_CTL as it is taken. -/
theorem portCtl_taken (s : State) {p : Nat} (hp : p < s.ports.length) (data : Word) :
    let lpbk := data.getLsbD 2 && decide (s.aon.power = .maintenance) && !s.carriesChannel p
    let t := (if data.getLsbD 0 then s.portCtlStored p data else (s.portCtlStored p data).pairLost p 0x0B).respond rspOk 0
    s.answered t rspOk 0 ∧
      t.win = { s.win with linkErr := if data.getLsbD 2 && !lpbk then s.win.linkErr ||| 2 else s.win.linkErr } ∧
      (t.portAt p).ctl = (data &&& 3) ||| (if lpbk then 4 else 0) ∧ (t.portAt p).phyLpbk = lpbk ∧
      (data.getLsbD 0 = true → t.portAt p = { s.portAt p with ctl := (t.portAt p).ctl, phyLpbk := lpbk } ∧
        (∀ x, x ≠ p → t.portAt x = s.portAt x) ∧ s.keeps t [.rp, .win, .ports]) ∧
      (data.getLsbD 0 = false → (t.portAt p).phyEn = false ∧
        (s.strapValid p = true → (t.portAt p).state = .down ∧ (t.portAt p).reason = 0x0B) ∧
        (s.strapValid p = false → (t.portAt p).state = .absent) ∧ s.keeps t [.rp, .win, .ports, .gln, .aon]) := by
  intro lpbk t
  let u := s.portCtlStored p data
  have hu : s.keeps u [.win, .ports] := s.keeps_portCtlStored p data
  obtain ⟨hat, hother⟩ := s.portCtlStored_portAt hp data
  have hwin := s.portCtlStored_win p data
  rw [s.loopsBack_eq] at hat hwin
  rw [word_ctl] at hat
  cases h0 : data.getLsbD 0 with
  | true =>
    have ht : t = u.respond rspOk 0 := congrArg (State.respond · rspOk 0) (if_pos h0)
    rw [ht]
    exact ⟨State.answered_respond_of_keeps hu (by decide) _ _, hwin, congrArg Port.ctl hat, congrArg Port.phyLpbk hat,
      fun _ => ⟨hat.trans (by rw [show (u.respond rspOk 0).portAt p = u.portAt p from rfl, hat]), hother,
        State.keeps_respond_of_keeps hu _ _⟩, nofun⟩
  | false =>
    have ht : t = (u.pairLost p 0x0B).respond rspOk 0 := congrArg (State.respond · rspOk 0) (if_neg (by rw [h0]; decide))
    have hk : s.keeps (u.pairLost p 0x0B) [.win, .ports, .gln, .aon] := (hu.andThen (u.keeps_pairLost p 0x0B)).mono (by decide)
    have hlen : p < u.ports.length := by
      show p < (List.modify _ p _).length
      rw [List.length_modify]
      split <;> exact hp
    have hoff := State.pairLost_wentOff hlen 0x0B
    have hstrap : u.strapValid p = s.strapValid p := by
      unfold State.strapValid State.strap
      rw [hu.boot, hu.cfg]
    rw [ht]
    refine ⟨State.answered_respond_of_keeps hk (by decide) _ _, (u.keeps_pairLost p 0x0B .win (by decide)).trans hwin,
      hoff.ctl.trans (congrArg Port.ctl hat), hoff.phyLpbk.trans (congrArg Port.phyLpbk hat), nofun, fun _ => ⟨hoff.phyEn, fun hv => ?_, fun hv => ?_,
        State.keeps_respond_of_keeps hk _ _⟩⟩
    · rw [← hstrap] at hv
      have hz : u.strap p ≠ 0 := by
        simp only [State.strapValid, decide_eq_true_eq] at hv
        exact hv.1
      refine ⟨hoff.state.trans (if_pos hv), hoff.reason.trans ?_⟩
      unfold State.lostReason
      rw [if_neg hz, if_pos hv]
      rfl
    · rw [← hstrap] at hv
      exact hoff.state.trans (if_neg (by rw [hv]; decide))

/-! ## PAIR_BYPASS -/

theorem State.pairBypass_bypass (i : Nat) : (s.pairBypass i).aon.bypass = s.aon.bypass.set i true := by
  have hk := (s.keeps_portOff (s.cfg.pairPorts i).1 .bypass 0).andThen (State.keeps_portOff _ (s.cfg.pairPorts i).2 .bypass 0)
  rw [show s.pairBypass i = ((s.portOff (s.cfg.pairPorts i).1 .bypass 0).portOff (s.cfg.pairPorts i).2 .bypass 0).assertBypass i from rfl,
    State.assertBypass_aon, hk.aon]

/-- A port of a pair that leaves bypass waits for the switch (R109). -/
def State.awaitSwitch (s : State) (p : Nat) : State :=
  (s.onPort p fun q => { q with step := 0, phyEn := false, lastTry := s.clk.localTime }).setPort p .training 0

theorem State.keeps_awaitSwitch (s : State) (p : Nat) : s.keeps (s.awaitSwitch p) [.ports, .gln] :=
  ((s.keeps_onPort p _).andThen (State.keeps_setPort _ _ _ _)).mono (by decide)

theorem State.releaseBypass_eq (s : State) (i : Nat) : s.releaseBypass i =
    ((s.onAon fun x => { x with bypass := x.bypass.set i false }).awaitSwitch (s.cfg.pairPorts i).1).awaitSwitch (s.cfg.pairPorts i).2 := by
  unfold State.releaseBypass
  split
  next a b h =>
    extract_lets u wait
    have hw (v : State) (p : Nat) : wait v p = v.awaitSwitch p := rfl
    rw [hw, hw, h]

theorem State.releaseBypass_bypass (i : Nat) : (s.releaseBypass i).aon.bypass = s.aon.bypass.set i false := by
  rw [State.releaseBypass_eq, (State.keeps_awaitSwitch _ _).aon, (State.keeps_awaitSwitch _ _).aon]
  rfl

/-- The bypass outputs after a pair has moved. -/
theorem State.movePair_bypass (i : Nat) (v : Bool) : (s.movePair i v).aon.bypass =
    if s.pairAbsent i = false ∧ (v = true ∨ s.pairEnabled i = true) then s.aon.bypass.set i v else s.aon.bypass := by
  unfold State.movePair
  by_cases ha : s.pairAbsent i = true
  · rw [if_pos ha, if_neg fun k => absurd (k.1.symm.trans ha) (by decide)]
  · have ha' : s.pairAbsent i = false := by simpa using ha
    rw [if_neg ha]
    cases v with
    | true => rw [if_pos rfl, if_pos ⟨ha', .inl rfl⟩, State.pairBypass_bypass]
    | false =>
      rw [if_neg Bool.false_ne_true]
      by_cases he : s.pairEnabled i = true
      · rw [if_pos he, if_pos ⟨ha', .inr he⟩, State.releaseBypass_bypass]
      · rw [if_neg he, if_neg fun k => k.2.elim Bool.false_ne_true he]

/-- Whether a pair is enabled is the matter of its ports' control registers. -/
theorem State.pairEnabled_congr {t : State} (hc : t.cfg = s.cfg) (h : ∀ p, (t.portAt p).ctl = (s.portAt p).ctl) (i : Nat) :
    t.pairEnabled i = s.pairEnabled i := by
  unfold State.pairEnabled
  rw [hc]
  dsimp only
  rw [h, h]

theorem State.pairAbsent_congr {t : State} (hc : t.cfg = s.cfg) (hb : t.boot = s.boot) (i : Nat) : t.pairAbsent i = s.pairAbsent i := by
  unfold State.pairAbsent State.strapValid State.strap
  rw [hc, hb]

theorem State.onPort_ctl (a p : Nat) (f : Port → Port) (hf : ∀ q, (f q).ctl = q.ctl) : ((s.onPort a f).portAt p).ctl = (s.portAt p).ctl := by
  rw [State.onPort_portAt]
  split
  · exact hf _
  · rfl

theorem State.setPort_ctl (a p : Nat) (st : PortState) (r : Nat) : ((s.setPort a st r).portAt p).ctl = (s.portAt p).ctl := by
  rw [State.setPort_portAt]
  split <;> rfl

theorem State.portOff_ctl (a p : Nat) (st : PortState) (r : Nat) : ((s.portOff a st r).portAt p).ctl = (s.portAt p).ctl :=
  (State.setPort_ctl _ _ _ _).trans (State.onPort_ctl _ _ _ fun _ => rfl)

theorem State.movePair_ctl (i p : Nat) (v : Bool) : ((s.movePair i v).portAt p).ctl = (s.portAt p).ctl := by
  have hassert (u : State) : ((u.assertBypass i).portAt p).ctl = (u.portAt p).ctl := by
    obtain ⟨e, r, h⟩ := u.assertBypass_sameButDrive i p
    rw [h]
  have hrelease : ((s.releaseBypass i).portAt p).ctl = (s.portAt p).ctl := by
    have hw (v : State) (a : Nat) : ((v.awaitSwitch a).portAt p).ctl = (v.portAt p).ctl :=
      (State.setPort_ctl _ _ _ _).trans (State.onPort_ctl _ _ _ fun _ => rfl)
    rw [State.releaseBypass_eq, hw, hw]
    rfl
  unfold State.movePair
  split_ifs
  · rfl
  · exact (hassert _).trans ((State.portOff_ctl _ _ _ _).trans (State.portOff_ctl _ _ _ _))
  · exact hrelease
  · rfl

theorem State.writePair_ctl (data : Word) (i p : Nat) : ((State.writePair data s i).portAt p).ctl = (s.portAt p).ctl := by
  unfold State.writePair
  split
  · rfl
  · exact State.movePair_ctl i p _

/-- Pair i is to move: its bit changes, it is present, and it enters bypass or both its ports are enabled (R382). -/
def State.pairMoves (s : State) (data : Word) (i : Nat) : Prop :=
  data.getLsbD i ≠ s.pairHeld.getD i false ∧ s.pairAbsent i = false ∧ (data.getLsbD i = true ∨ s.pairEnabled i = true)

theorem State.writePair_pairHeld (data : Word) (i : Nat) (hi : i < s.pairHeld.length) :
    (State.writePair data s i).pairHeld = s.pairHeld.set i (data.getLsbD i) := by
  unfold State.writePair
  split
  next h =>
    rw [h, List.getD_eq_getElem _ _ hi, List.set_getElem_self]
  next => exact State.keeps_movePair _ i _ .pairHeld (by decide)

theorem State.writePair_bypass (data : Word) (i : Nat) : (¬ s.pairMoves data i → (State.writePair data s i).aon.bypass = s.aon.bypass) ∧
    (s.pairMoves data i → (State.writePair data s i).aon.bypass = s.aon.bypass.set i (data.getLsbD i)) := by
  have hmove : (s.holdPair i (data.getLsbD i)).movePair i (data.getLsbD i) = _ := rfl
  have hb := State.movePair_bypass (s := s.holdPair i (data.getLsbD i)) i (data.getLsbD i)
  unfold State.writePair State.pairMoves
  by_cases h : data.getLsbD i = s.pairHeld.getD i false
  · rw [if_pos h]
    exact ⟨fun _ => rfl, fun k => absurd h k.1⟩
  · rw [if_neg h, hb]
    exact ⟨fun k => if_neg fun m => k ⟨h, m⟩, fun k => if_pos k.2⟩

/-- What writing the pairs below n has done. -/
structure State.pairsWritten (s t : State) (data : Word) (n : Nat) : Prop where
  keeps : s.keeps t [.pairHeld, .ports, .gln, .aon]
  ctl : ∀ p, (t.portAt p).ctl = (s.portAt p).ctl
  heldLength : t.pairHeld.length = s.pairHeld.length
  bypassLength : t.aon.bypass.length = s.aon.bypass.length
  held : ∀ i, t.pairHeld.getD i false = if i < n ∧ i < s.pairHeld.length then data.getLsbD i else s.pairHeld.getD i false
  moved : ∀ i d, i < n → i < s.aon.bypass.length → s.pairMoves data i → t.aon.bypass.getD i d = data.getLsbD i
  stayed : ∀ i d, n ≤ i ∨ ¬ s.pairMoves data i → t.aon.bypass.getD i d = s.aon.bypass.getD i d

theorem getD_set {α : Type} (l : List α) (i j : Nat) (a d : α) :
    (l.set i a).getD j d = if i = j ∧ j < l.length then a else l.getD j d := by
  simp only [List.getD_eq_getElem?_getD, List.getElem?_set]
  by_cases h : i = j
  · subst h
    by_cases hl : i < l.length <;> simp [hl]
  · simp [h]

theorem State.pairsWritten_step {t : State} {data : Word} {n : Nat} (h : s.pairsWritten t data n) (hn : n < s.pairHeld.length) :
    s.pairsWritten (State.writePair data t n) data (n + 1) := by
  have hk := t.keeps_writePair data n
  have hcfg := h.keeps.cfg
  have hmoves : t.pairMoves data n ↔ s.pairMoves data n := by
    unfold State.pairMoves
    rw [h.held n, if_neg (by omega), State.pairAbsent_congr hcfg h.keeps.boot, State.pairEnabled_congr hcfg h.ctl]
  have hheld := State.writePair_pairHeld (s := t) data n (by rw [h.heldLength]; exact hn)
  obtain ⟨hstay, hmove⟩ := State.writePair_bypass (s := t) data n
  refine ⟨(h.keeps.andThen hk).mono (by decide), fun p => (State.writePair_ctl data n p).trans (h.ctl p), ?_, ?_, fun i => ?_,
    fun i d hi hl hm => ?_, fun i d hi => ?_⟩
  · rw [hheld, List.length_set, h.heldLength]
  · by_cases hm : t.pairMoves data n
    · rw [hmove hm, List.length_set, h.bypassLength]
    · rw [hstay hm, h.bypassLength]
  · rw [hheld, getD_set, h.heldLength, h.held i]
    by_cases hni : n = i
    · subst hni
      rw [if_pos ⟨rfl, hn⟩, if_pos ⟨Nat.lt_succ_self n, hn⟩]
    · rw [if_neg fun k => hni k.1]
      exact if_congr (by omega) rfl rfl
  · by_cases hni : n = i
    · subst hni
      rw [hmove (hmoves.2 hm), getD_set, if_pos ⟨rfl, by rw [h.bypassLength]; exact hl⟩]
    · have hprev := h.moved i d (by omega) hl hm
      by_cases hmn : t.pairMoves data n
      · rw [hmove hmn, getD_set, if_neg fun k => hni k.1, hprev]
      · rw [hstay hmn, hprev]
  · have hprev := h.stayed i d (hi.imp_left (by omega))
    by_cases hmn : t.pairMoves data n
    · have hni : n ≠ i := by
        rintro rfl
        exact hi.elim (by omega) fun k => k (hmoves.1 hmn)
      rw [hmove hmn, getD_set, if_neg fun k => hni k.1, hprev]
    · rw [hstay hmn, hprev]

theorem State.pairsWritten_foldl (data : Word) (n : Nat) (hn : n ≤ s.pairHeld.length) :
    s.pairsWritten ((List.range n).foldl (State.writePair data) s) data n := by
  induction n with
  | zero =>
    exact ⟨s.keeps_refl _, fun _ => rfl, rfl, rfl, fun i => by rw [if_neg (by omega)]; rfl, fun _ _ h => absurd h (by omega), fun _ _ _ => rfl⟩
  | succ n ih =>
    rw [List.range_succ, List.foldl_append]
    exact State.pairsWritten_step (ih (by omega)) (by omega)

/-- Settles O25: PORT_CTL by `portCtl_taken`, PAIR_BYPASS by the effect of its pairs one after the other. That only a change of ENABLE or
FORCE_MAINT is refused in an epoch, and that a loopback which does not apply is stored as 0, are the model's choices
(notes/assumptions/42). -/
theorem portControlAndPairBypass : Obligations.PortControlAndPairBypass := by
  refine ⟨fun src p data s hs hp hg => ?_, fun src data s hs hg => ?_⟩
  · intro old lpbk
    have hlen : p < s.ports.length := by
      have h : s.ports.length = s.cfg.nPort := congrArg Shape.ports (s.shaped_iff.1 hs)
      omega
    refine ⟨_, exec_portCtlWrite (Nat.lt_of_lt_of_le hp (nPort_le _)) data hg, fun hrun hch => ?_, fun hok => ?_⟩
    · rw [State.writePortCtl_eq, if_pos ⟨hrun, hch⟩]
      exact s.answered_linkErr rspDenied
    · rw [State.writePortCtl_eq, if_neg fun h => hok.elim (fun k => absurd h.1 (by rw [k]; decide)) h.2]
      exact portCtl_taken s hlen data
  · refine ⟨_, exec_pairBypassWrite data hg, fun hrun => ?_, fun hrun => ?_⟩
    · rw [State.writePairBypass_eq, if_pos hrun]
      exact s.answered_linkErr rspDenied
    · rw [State.writePairBypass_eq, if_neg (by rw [hrun]; decide)]
      have hheld : s.pairHeld.length = s.cfg.nPair := congrArg Shape.pairHeld (s.shaped_iff.1 hs)
      have hbypass : s.aon.bypass.length = s.cfg.nPair := congrArg Shape.bypass (s.shaped_iff.1 hs)
      have h := State.pairsWritten_foldl (s := s) data s.cfg.nPair (by omega)
      refine ⟨State.answered_respond_of_keeps h.keeps (by decide) _ _, State.keeps_respond_of_keeps (l := [.ports, .gln, .aon, .pairHeld])
        (h.keeps.mono (by decide)) _ _, fun i hi => ⟨?_, fun h1 h0 ha => ?_, fun hst => ?_, fun h0 h1 ha he => ?_⟩⟩
      · exact (h.held i).trans (if_pos ⟨hi, by omega⟩)
      · exact (h.moved i false hi (by omega) ⟨by rw [h1, h0]; decide, ha, .inl h1⟩).trans h1
      · refine h.stayed i false (.inr fun hm => ?_)
        obtain ⟨hne, -, hor⟩ := hm
        rcases hst with heq | ⟨h0, he⟩
        · exact hne heq
        · rw [h0, he] at hor
          exact absurd hor (by decide)
      · exact (h.moved i true hi (by omega) ⟨by rw [h1, h0]; decide, ha, .inr he⟩).trans h0

end Sys2Proof.Machine
end

section
/-! PROOFS. Ports that are lost, and ports that are trained again (02 R70, R72; 03 R87, R109; 15 R363, R372, R380). -/

namespace Sys2Proof.Machine

variable {s : State}

/-! ## Ring pairs -/

theorem pairPorts_lt {c : Cfg} {k : Nat} (hk : k < c.nPair) : (c.pairPorts k).1 < c.nPort ∧ (c.pairPorts k).2 < c.nPort := by
  unfold Cfg.nPair at hk
  unfold Cfg.pairPorts Cfg.classPorts Cfg.nPort
  split at hk <;> simp_all <;> omega

theorem pairPorts_ne (c : Cfg) (k : Nat) : (c.pairPorts k).1 ≠ (c.pairPorts k).2 := by
  unfold Cfg.pairPorts
  exact Nat.ne_of_lt (Nat.lt_succ_self _)

/-- A port of a ring pair is one of the pair's two. -/
theorem mem_pairPorts {c : Cfg} {p k : Nat} (h : c.pairOf p = some k) : p = (c.pairPorts k).1 ∨ p = (c.pairPorts k).2 := by
  unfold Cfg.pairOf at h
  unfold Cfg.pairPorts
  dsimp only at h ⊢
  split at h
  next hr =>
    obtain rfl := Option.some.inj h
    omega
  next => exact absurd h nofun

theorem ringPartner_of_pairOf {c : Cfg} {p k : Nat} (h : c.pairOf p = some k) : ∃ q, c.ringPartner p = some q := by
  rw [Cfg.ringPartner, h]
  exact ⟨_, rfl⟩

theorem pairOf_of_ringPartner_none {c : Cfg} {p k : Nat} (h : c.ringPartner p = none) : c.pairOf p ≠ some k := by
  intro hk
  obtain ⟨q, hq⟩ := ringPartner_of_pairOf hk
  exact absurd (hq.symm.trans h) nofun

/-! ## Loss -/

/-- The loss of a port puts its pair into bypass; of the island nothing else moves (R109). -/
theorem State.pairLost_aon (p r : Nat) : (∀ k, s.cfg.pairOf p = some k → (s.pairLost p r).aon.bypass.getD k true = true) ∧
    (s.pairLost p r).aon = { s.aon with bypass := (s.pairLost p r).aon.bypass } := by
  have hd := (s.keeps_portDown p r).aon
  unfold State.pairLost
  split
  next i q hi _ =>
    have hk : (if ((s.portDown p r).portAt q).state = .down ∨ ((s.portDown p r).portAt q).state = .absent then s.portDown p r
        else (s.portDown p r).portOff q .bypass 0).aon = s.aon :=
      ((s.keeps_portDown p r).andThen (State.keeps_ite (State.keeps_refl _ _) (State.keeps_portOff _ q .bypass 0))).aon
    rw [State.assertBypass_aon, hk]
    refine ⟨fun k hk' => ?_, rfl⟩
    obtain rfl := Option.some.inj (hi.symm.trans hk')
    dsimp only
    rw [getD_set]
    split
    · rfl
    next hn => exact List.getD_eq_default _ _ (Nat.not_lt.1 fun h => hn ⟨rfl, h⟩)
  next hn =>
    rw [hd]
    refine ⟨fun k hk => ?_, rfl⟩
    obtain ⟨q, hq⟩ := ringPartner_of_pairOf hk
    exact absurd hq (hn k q hk)

/-- A port with a valid strap that is lost is down with the reason. -/
theorem State.pairLost_down {p : Nat} (hp : p < s.ports.length) (hv : s.strapValid p = true) (r : Nat) :
    ((s.pairLost p r).portAt p).state = .down ∧ ((s.pairLost p r).portAt p).reason = BitVec.ofNat 8 r ∧
      ((s.pairLost p r).portAt p).phyEn = false ∧ ((s.pairLost p r).portAt p).los = (s.portAt p).los := by
  have hz : s.strap p ≠ 0 := by
    simp only [State.strapValid, decide_eq_true_eq] at hv
    exact hv.1
  have hoff := State.pairLost_wentOff hp r
  refine ⟨hoff.state.trans (if_pos hv), hoff.reason.trans ?_, hoff.phyEn, hoff.los⟩
  unfold State.lostReason
  rw [if_neg hz, if_pos hv]

/-- A port that goes down as an obligation says it: with reason, bypass and what may change. -/
theorem State.pairLost_spec {p : Nat} (hp : p < s.ports.length) (hv : s.strapValid p = true) (r : Nat) :
    let v := s.pairLost p r
    (v.portAt p).state = .down ∧ (v.portAt p).reason = BitVec.ofNat 8 r ∧ (v.portAt p).phyEn = false ∧
      (v.portAt p).los = (s.portAt p).los ∧ (∀ k, s.cfg.pairOf p = some k → v.aon.bypass.getD k true = true) ∧
      v.aon = { s.aon with bypass := v.aon.bypass } ∧ s.keeps v [.gln, .ports, .aon] := by
  obtain ⟨h1, h2, h3, h4⟩ := State.pairLost_down hp hv r
  obtain ⟨h5, h6⟩ := State.pairLost_aon (s := s) p r
  exact ⟨h1, h2, h3, h4, h5, h6, (s.keeps_pairLost p r).mono (by decide)⟩

theorem exec_trainingLimitExpiry {p : Nat} (hp : p < s.cfg.nPort) (ht : (s.portAt p).state = .training) (he : (s.portAt p).phyEn = true) :
    exec (.trainingLimitExpiry p) s = .next ((s.untilLocal ((s.portAt p).lastTry + s.trainLimit p)).pairLost p
      (if (s.portAt p).failReason = 0 then 0x04 else (s.portAt p).failReason.toNat)).trainingEnded :=
  whenTrue_of (by simp [hp, ht, he]) ..

theorem exec_portLoss_los {p : Nat} (ht : (s.portAt p).trained = true) : exec (.portLoss p .los) s =
    .next ((s.onPort p fun q => { q with los := true }).pairLost p 0x09).trainingEnded := if_pos ht

/-- Is a count of receive clock edges of a port's PHY out of range (R87)? -/
def State.rateFalls (s : State) (p n : Nat) : Bool := (s.portAt p).phyEn && !s.edgesFit p n

theorem exec_portLoss_rate {p n : Nat} (ht : (s.portAt p).trained = true) :
    exec (.portLoss p (.rate n)) s = whenTrue (s.rateFalls p n) s (s.pairLost p 0x0A).trainingEnded := if_pos ht

theorem exec_portLoss_untrained {p : Nat} (cause : LossCause) (ht : ¬ (s.portAt p).trained = true) :
    exec (.portLoss p cause) s =
      whenTrue ((s.portAt p).state == .training && (s.portAt p).phyRdy && (match cause with | .los => true | .rate n => s.rateFalls p n)) s
        (s.onPort p fun q => { q with phyRdy := false, step := 1, idleRun := 0, alignRun := 0 }) := by
  refine (if_neg ht).trans ?_
  cases cause <;> rfl

theorem State.edgesFit_iff (p n : Nat) : s.edgesFit p n = true ↔ 12 ≤ n ∧ n ≤ if s.cfg.portClass p = 4 then 14 else 13 := decide_eq_true_iff

theorem State.rateFalls_of {p n : Nat} (he : (s.portAt p).phyEn = true)
    (hn : ¬ (12 ≤ n ∧ n ≤ if s.cfg.portClass p = 4 then 14 else 13)) : s.rateFalls p n = true := by
  rw [← State.edgesFit_iff, Bool.not_eq_true] at hn
  rw [State.rateFalls, he, hn]
  rfl

theorem State.rateFalls_of_not {p n : Nat} (h : (12 ≤ n ∧ n ≤ if s.cfg.portClass p = 4 then 14 else 13) ∨ (s.portAt p).phyEn = false) :
    s.rateFalls p n = false := by
  rw [State.rateFalls]
  rcases h with h | h
  · rw [(State.edgesFit_iff p n).2 h, Bool.not_true, Bool.and_false]
  · rw [h, Bool.false_and]

/-- A count in range, or one of a PHY that is off, changes nothing. -/
theorem exec_portLoss_rate_fits {p n : Nat} (h : s.rateFalls p n = false) : exec (.portLoss p (.rate n)) s = .next s := by
  by_cases ht : (s.portAt p).trained = true
  · rw [exec_portLoss_rate ht, h]
    rfl
  · rw [exec_portLoss_untrained _ ht]
    dsimp only
    rw [h, Bool.and_false]
    rfl

/-! ## Training again -/

/-- A port that begins with the first step of training (R363). -/
def Port.startsTraining (now : Nat) (q : Port) : Port :=
  { q with step := 1, alignRun := 0, alignLast := none, idleRun := 0, partner := none, partnerAcked := false, calibRun := 0
           lastTRx := none, failReason := 0, phyRdy := false, los := false, phyEn := true, lastTry := now, exchange := 0
           mtxSeq := 0, mrxSeq := 0, unacked := [], ackDue := false, elastic := [], padDue := false, queue := [] }

/-- A port after an update of its fields and a change to TRAINING. -/
def State.intoTraining (s : State) (p : Nat) (f : Port → Port) : State := (s.onPort p f).setPort p .training 0

theorem State.startTraining_eq (p : Nat) : s.startTraining p = s.intoTraining p (Port.startsTraining s.clk.localTime) := rfl

theorem State.awaitSwitch_eq (p : Nat) :
    s.awaitSwitch p = s.intoTraining p fun q => { q with step := 0, phyEn := false, lastTry := s.clk.localTime } := rfl

theorem State.intoTraining_portAt {p : Nat} (hp : p < s.ports.length) (f : Port → Port) :
    (s.intoTraining p f).portAt p = { f (s.portAt p) with state := .training, reason := BitVec.ofNat 8 0 } := by
  unfold State.intoTraining
  rw [State.setPort_portAt, if_pos ⟨rfl, by rw [State.onPort_ports, List.length_modify]; exact hp⟩, State.onPort_portAt, if_pos ⟨rfl, hp⟩]

theorem State.intoTraining_portAt_ne {a p : Nat} (h : a ≠ p) (f : Port → Port) : (s.intoTraining a f).portAt p = s.portAt p := by
  unfold State.intoTraining
  rw [State.setPort_portAt_ne h, State.onPort_portAt_ne h]

theorem State.intoTraining_ports_length (p : Nat) (f : Port → Port) : (s.intoTraining p f).ports.length = s.ports.length := by
  unfold State.intoTraining
  rw [State.setPort_ports, List.length_modify, State.onPort_ports, List.length_modify]

theorem State.startTraining_portAt {p : Nat} (hp : p < s.ports.length) :
    ((s.startTraining p).portAt p).state = .training ∧ ((s.startTraining p).portAt p).step = 1 ∧
      ((s.startTraining p).portAt p).phyEn = true ∧ ((s.startTraining p).portAt p).partner = none := by
  rw [State.startTraining_eq, State.intoTraining_portAt hp]
  exact ⟨rfl, rfl, rfl, rfl⟩

theorem State.startTraining_portAt_ne {a p : Nat} (h : a ≠ p) : (s.startTraining a).portAt p = s.portAt p := by
  rw [State.startTraining_eq, State.intoTraining_portAt_ne h]

theorem State.startTraining_ports_length (p : Nat) : (s.startTraining p).ports.length = s.ports.length := by
  rw [State.startTraining_eq, State.intoTraining_ports_length]

theorem State.awaitSwitch_portAt {p : Nat} (hp : p < s.ports.length) :
    ((s.awaitSwitch p).portAt p).state = .training ∧ ((s.awaitSwitch p).portAt p).phyEn = false := by
  rw [State.awaitSwitch_eq, State.intoTraining_portAt hp]
  exact ⟨rfl, rfl⟩

theorem State.awaitSwitch_portAt_ne {a p : Nat} (h : a ≠ p) : (s.awaitSwitch a).portAt p = s.portAt p := by
  rw [State.awaitSwitch_eq, State.intoTraining_portAt_ne h]

theorem State.awaitSwitch_ports_length (p : Nat) : (s.awaitSwitch p).ports.length = s.ports.length := by
  rw [State.awaitSwitch_eq, State.intoTraining_ports_length]

/-- Both ports of a pair that leaves bypass wait for the switch. -/
theorem State.releaseBypass_portAt {i p : Nat} (hp : p < s.ports.length) (hi : s.cfg.pairOf p = some i) :
    ((s.releaseBypass i).portAt p).state = .training ∧ ((s.releaseBypass i).portAt p).phyEn = false := by
  rw [State.releaseBypass_eq]
  rcases mem_pairPorts hi with h | h
  · rw [State.awaitSwitch_portAt_ne (by rw [h]; exact (pairPorts_ne _ _).symm), ← h]
    exact State.awaitSwitch_portAt hp
  · rw [← h]
    exact State.awaitSwitch_portAt (by rw [State.awaitSwitch_ports_length]; exact hp)

theorem State.releaseBypass_aon (i : Nat) : (s.releaseBypass i).aon = { s.aon with bypass := s.aon.bypass.set i false } := by
  rw [State.releaseBypass_eq, (State.keeps_awaitSwitch _ _).aon, (State.keeps_awaitSwitch _ _).aon]
  rfl

/-- A pair whose port may be trained again is in bypass. -/
theorem State.bypass_of_mayRetrain {p k : Nat} (h : s.mayRetrain p = true) (hk : s.cfg.pairOf p = some k) : s.aon.bypass.getD k true = true := by
  obtain ⟨q, hq⟩ := ringPartner_of_pairOf hk
  unfold State.mayRetrain at h
  rw [Bool.and_eq_true] at h
  have h2 := h.2
  rw [hk, hq] at h2
  simp only [Bool.and_eq_true] at h2
  exact h2.1.2

theorem State.lt_nPort_of_mayRetrain {p : Nat} (h : s.mayRetrain p = true) : p < s.cfg.nPort := by
  unfold State.mayRetrain at h
  simp only [Bool.and_eq_true, decide_eq_true_eq] at h
  tauto

/-- A port outside a ring pair trains; a pair leaves bypass first. -/
theorem State.retrain_spec {p : Nat} (hp : p < s.ports.length) (hm : s.mayRetrain p = true) :
    let t := s.retrain p
    s.keeps t [.gln, .ports, .aon] ∧ (t.portAt p).state = .training ∧
      (s.cfg.pairOf p = none → (t.portAt p).step = 1 ∧ (t.portAt p).phyEn = true ∧ (t.portAt p).partner = none ∧ t.aon = s.aon ∧
        ∀ k, k ≠ p → t.portAt k = s.portAt k) ∧
      (∀ k, s.cfg.pairOf p = some k → t.aon = { s.aon with bypass := s.aon.bypass.set k false } ∧ (t.portAt p).phyEn = false) := by
  intro t
  cases hi : s.cfg.pairOf p with
  | none =>
    have ht : t = s.startTraining p := by
      show s.retrain p = _
      rw [State.retrain, hi]
    obtain ⟨h1, h2, h3, h4⟩ := State.startTraining_portAt hp
    rw [ht]
    exact ⟨(s.keeps_startTraining p).mono (by decide), h1, fun _ => ⟨h2, h3, h4, (s.keeps_startTraining p).aon,
      fun k hk => State.startTraining_portAt_ne hk.symm⟩, nofun⟩
  | some i =>
    have ht : t = s.releaseBypass i := by
      show s.retrain p = _
      rw [State.retrain, hi]
      exact if_pos (State.bypass_of_mayRetrain hm hi)
    obtain ⟨h1, h2⟩ := State.releaseBypass_portAt hp hi
    rw [ht]
    refine ⟨(s.keeps_releaseBypass i).mono (by decide), h1, nofun, fun k hk => ?_⟩
    obtain rfl := Option.some.inj hk
    exact ⟨State.releaseBypass_aon i, h2⟩

theorem exec_portRetrain {p : Nat} (h : s.mayRetrain p = true) : exec (.portRetrain p) s = .next
    (if (s.untilLocal ((s.portAt p).lastTry + 16000000)).mayRetrain p then (s.untilLocal ((s.portAt p).lastTry + 16000000)).retrain p
      else s.untilLocal ((s.portAt p).lastTry + 16000000)) := whenTrue_of h ..

theorem exec_bypassSwitchWait {k a b : Nat} (hab : s.cfg.pairPorts k = (a, b)) (hk : k < s.cfg.nPair) (hb : s.aon.bypass.getD k true = false)
    (hw : ∀ x, x = a ∨ x = b → (s.portAt x).state = .training ∧ (s.portAt x).phyEn = false) :
    exec (.bypassSwitchWait k) s = .next (((s.untilLocal ((s.portAt a).lastTry + 3200)).startTraining a).startTraining b) := by
  obtain ⟨ha1, ha2⟩ := hw a (.inl rfl)
  obtain ⟨hb1, hb2⟩ := hw b (.inr rfl)
  show execBypassSwitchWait k s = _
  rw [execBypassSwitchWait, hab]
  dsimp only
  rw [hb, ha1, ha2, hb1, hb2, decide_eq_true hk]
  exact whenTrue_of rfl ..

/-- Two ports that start to train, and the others. -/
theorem State.startTraining_two {a b : Nat} (hab : a ≠ b) (ha : a < s.ports.length) (hb : b < s.ports.length) :
    let t := (s.startTraining a).startTraining b
    (∀ x, x = a ∨ x = b → (t.portAt x).state = .training ∧ (t.portAt x).step = 1 ∧ (t.portAt x).phyEn = true) ∧
      (∀ x, x ≠ a → x ≠ b → t.portAt x = s.portAt x) ∧ s.keeps t [.gln, .ports] := by
  intro t
  refine ⟨fun x hx => ?_, fun x h1 h2 => ?_, ((s.keeps_startTraining a).andThen (State.keeps_startTraining _ b)).mono (by decide)⟩
  · rcases hx with rfl | rfl
    · obtain ⟨h1, h2, h3, -⟩ := State.startTraining_portAt ha
      rw [State.startTraining_portAt_ne hab.symm]
      exact ⟨h1, h2, h3⟩
    · obtain ⟨h1, h2, h3, -⟩ := State.startTraining_portAt (s := s.startTraining a) (p := x) (by rw [State.startTraining_ports_length]; exact hb)
      exact ⟨h1, h2, h3⟩
  · rw [State.startTraining_portAt_ne (Ne.symm h2), State.startTraining_portAt_ne (Ne.symm h1)]

theorem State.untilLocal_max (t : Nat) (hq : s.quiet = true) (hd : s.clk.dividers = true) :
    (s.untilLocal t).clk.localTime = max s.clk.localTime t := by
  rw [State.untilLocal_localTime t hd hq]
  omega

theorem State.shaped_ports (hs : s.shaped = true) : s.ports.length = s.cfg.nPort := congrArg Shape.ports (s.shaped_iff.1 hs)

/-- Settles O49: each row by its rule. That a port which loses its signal in training returns to step 1 is the model's choice
(notes/assumptions/58). -/
theorem portsAreLostAndRetrained : Obligations.PortsAreLostAndRetrained := by
  intro p s hs hp hv q down fits
  have hlen : p < s.ports.length := by rw [State.shaped_ports hs]; exact hp
  have untrained (h : q.state = .training) : ¬ q.trained = true := by simp [Port.trained, h]
  refine ⟨fun ht he => ?limit, fun ht => ⟨?los, fun n he hn => ?rate⟩, fun n hn => ?fits, fun cause ht hr hf => ?training,
    fun hm => ?retrain, fun k hk hb => ?switch⟩
  case limit =>
    intro u
    refine ⟨fun hq hd => State.untilLocal_max _ hq hd, fun hus huc huv => ?_⟩
    have hul : p < u.ports.length := by rw [State.shaped_ports hus, huc]; exact hp
    obtain ⟨h1, h2, h3, -, h5, h6, h7⟩ := State.pairLost_spec hul huv (if q.failReason = 0 then 0x04 else q.failReason.toNat)
    refine ⟨_, exec_trainingLimitExpiry hp ht he, h1, h2.trans ?_, h3, nofun, h5, h6, h7⟩
    split
    · rfl
    · simp [q]
  case los =>
    let u := s.onPort p fun q => { q with los := true }
    have hlos : (u.portAt p).los = true := by rw [State.onPort_portAt, if_pos ⟨rfl, hlen⟩]
    obtain ⟨h1, h2, h3, h4, h5, h6, h7⟩ := State.pairLost_spec (s := u) (p := p)
      (by rw [State.onPort_ports, List.length_modify]; exact hlen) hv 0x09
    exact ⟨_, exec_portLoss_los ht, h1, h2, h3, fun _ => h4.trans hlos, h5, h6, ((s.keeps_onPort p _).andThen h7).mono (by decide)⟩
  case rate =>
    obtain ⟨h1, h2, h3, -, h5, h6, h7⟩ := State.pairLost_spec hlen hv 0x0A
    exact ⟨_, (exec_portLoss_rate ht).trans (whenTrue_of (State.rateFalls_of he hn) ..), h1, h2, h3, nofun, h5, h6, h7⟩
  case fits => exact exec_portLoss_rate_fits (State.rateFalls_of_not hn)
  case training =>
    rw [exec_portLoss_untrained cause (untrained ht)]
    refine whenTrue_of ?_ ..
    rw [show (s.portAt p).state = .training from ht, show (s.portAt p).phyRdy = true from hr]
    cases cause with
    | los => rfl
    | rate n => exact State.rateFalls_of (hf n rfl).1 (hf n rfl).2
  case retrain =>
    intro u
    refine ⟨fun hq hd => State.untilLocal_max _ hq hd, fun hu => ?_, fun hus hu => ⟨_, exec_portRetrain hm, ?_⟩⟩
    · rw [exec_portRetrain hm, if_neg (by rw [hu]; decide)]
    · rw [if_pos hu]
      exact State.retrain_spec (by rw [State.shaped_ports hus]; exact State.lt_nPort_of_mayRetrain hu) hu
  case switch =>
    intro a b u hw hus huc
    obtain ⟨ha, hb'⟩ := pairPorts_lt hk
    have hul : u.ports.length = s.cfg.nPort := by rw [State.shaped_ports hus, huc]
    obtain ⟨h1, h2, h3⟩ := State.startTraining_two (s := u) (pairPorts_ne s.cfg k) (by rw [hul]; exact ha) (by rw [hul]; exact hb')
    refine ⟨_, exec_bypassSwitchWait (a := a) (b := b) rfl hk hb hw, h1, h2, h3, fun hq hd => ?_⟩
    rw [h3.clk]
    exact State.untilLocal_max _ hq hd

end Sys2Proof.Machine
end

section
/-! PROOFS. The kinds of a program's commands, and the lines that a command's stores put on the agenda (02 R60; 06 R156). -/

namespace Sys2Proof.Machine

/-! ## Kinds of a program's commands -/

/-- A bundle with a reserved KIND ends an image, so no command of a program has one (R156). -/
theorem kind_lt_of_mem_parseBundles (bs : Bytes) (n : Nat) : ∀ (idx off : Nat), ∀ c ∈ (parseBundles bs n idx off).1, c.hdr.kind < 4 := by
  induction n with
  | zero => exact fun idx off c hc => absurd hc List.not_mem_nil
  | succ n ih =>
    intro idx off c hc
    unfold parseBundles at hc
    dsimp only at hc
    split at hc
    · split at hc <;> exact absurd hc List.not_mem_nil
    split at hc
    · exact absurd hc List.not_mem_nil
    next hres =>
    have hkind : (Cmd.ofBytes idx off (bs.drop off)).hdr.kind < 4 := by
      simp only [Hdr.reserved, Bool.or_eq_true, decide_eq_true_eq, not_or, not_le] at hres
      exact hres.1.1.1.2
    split at hc
    · exact absurd hc List.not_mem_nil
    split at hc
    · rw [List.mem_singleton.1 hc]
      exact hkind
    · rcases List.mem_cons.1 hc with rfl | hc
      · exact hkind
      · exact ih _ _ c hc

variable {s : State}

theorem kind_lt_of_mem_program (q bank : Nat) : ∀ c ∈ s.program q bank, c.hdr.kind < 4 := by
  unfold State.program
  dsimp only
  split
  · exact fun c hc => absurd hc List.not_mem_nil
  · exact kind_lt_of_mem_parseBundles _ _ _ _

theorem kind_lt_of_mem_activeProgram (q : Nat) : ∀ c ∈ s.activeProgram q, c.hdr.kind < 4 := by
  unfold State.activeProgram
  split
  · exact kind_lt_of_mem_parseBundles _ _ _ _
  · exact kind_lt_of_mem_program _ _

theorem State.nextCmd_kind {q : Nat} {r : Run} {c : Cmd} {rest : List Cmd} (h : s.nextCmd q = some (r, c, rest)) : c.hdr.kind < 4 := by
  unfold State.nextCmd at h
  split at h
  next r' _ =>
    split at h
    next =>
      split at h
      next c' rest' hd =>
        obtain ⟨rfl, rfl, rfl⟩ : r' = r ∧ c' = c ∧ rest' = rest := by simpa using h
        exact kind_lt_of_mem_activeProgram q _ (List.mem_of_mem_drop (hd ▸ List.mem_cons_self))
      next => exact absurd h nofun
    next => exact absurd h nofun
  next => exact absurd h nofun

/-! ## What stays on the agenda and what comes onto it -/

/-- Everything on the agenda stays, and what comes satisfies a predicate. -/
structure State.schedules (s t : State) (P : Dated → Prop) : Prop where
  old : ∀ x ∈ s.agenda, x ∈ t.agenda
  new : ∀ x ∈ t.agenda, x ∈ s.agenda ∨ P x

theorem State.schedules.of_keeps {t : State} {l : List Field} (h : s.keeps t l) (P : Dated → Prop) (hl : Field.agenda ∉ l := by decide) :
    s.schedules t P := by
  have ha : t.agenda = s.agenda := h.agenda hl
  exact ⟨fun x hx => ha ▸ hx, fun x hx => .inl (ha ▸ hx)⟩

theorem State.schedules.trans {t u : State} {P : Dated → Prop} (h : s.schedules t P) (k : t.schedules u P) : s.schedules u P :=
  ⟨fun x hx => k.old x (h.old x hx), fun x hx => (k.new x hx).elim (h.new x) .inr⟩

theorem State.schedules_refl (P : Dated → Prop) : s.schedules s P := .of_keeps (s.keeps_refl []) P

theorem State.schedules_later {P : Dated → Prop} (d t : Nat) (a : Act) (h : P ⟨t, d, a⟩) : s.schedules (s.later d t a) P := by
  refine ⟨fun x hx => (mem_datedInsert _ _ _).2 (.inr hx), fun x hx => ?_⟩
  rcases (mem_datedInsert _ _ _).1 hx with rfl | hx
  · exact .inr h
  · exact .inl hx

theorem State.mem_later (d t : Nat) (a : Act) : ⟨t, d, a⟩ ∈ (s.later d t a).agenda := (mem_datedInsert _ _ _).2 (.inl rfl)

theorem State.schedules_foldl {α : Type} {P : Dated → Prop} (f : State → α → State) :
    ∀ (l : List α), (∀ (s : State), ∀ a ∈ l, s.schedules (f s a) P) → ∀ s : State, s.schedules (l.foldl f s) P
  | [], _, s => s.schedules_refl P
  | a :: l, h, s => (h s a List.mem_cons_self).trans (State.schedules_foldl f l (fun s b hb => h s b (List.mem_cons_of_mem a hb)) (f s a))

/-- What one step of a fold puts on the agenda stays there. -/
theorem State.mem_foldl_agenda {α : Type} {P : Dated → Prop} (f : State → α → State) {x : Dated} {a : α} :
    ∀ (l : List α), (∀ (s : State), ∀ b ∈ l, s.schedules (f s b) P) → a ∈ l → (∀ s : State, x ∈ (f s a).agenda) →
      ∀ s : State, x ∈ (l.foldl f s).agenda
  | b :: l, h, ha, hx, s => by
    have hl (s : State) (c : α) (hc : c ∈ l) := h s c (List.mem_cons_of_mem b hc)
    rcases List.mem_cons.1 ha with rfl | ha
    · exact (State.schedules_foldl f l hl (f s a)).old x (hx s)
    · exact State.mem_foldl_agenda f l hl ha hx (f s b)

/-! ## The lines that a command stores -/

/-- A line of a command's stores, put on the agenda at its grant; one outside the domain's windows traps instead (R135). -/
def State.storeLater (s : State) (q : Nat) (e : Env) (c : Cmd) (y : CoreT) (x : Nat × Nat × List Host.Cell) : State :=
  s.later q (e.start + x.1)
    (if inWindow e.part x.2.1 then .store y.x.idx x.2.1 x.2.2 false else .outside c.idx c.off y.x.idx 2 x.2.1)

/-- The lines of one core. -/
def State.storeCore (s : State) (q : Nat) (e : Env) (c : Cmd) (ct : CmdTime) (co : CoreOut × List BitWrite) : State :=
  match ct.cores.find? fun x => x.x.rank == co.1.rank with
  | some y => (coreStores e c y co.1 co.2).foldl (fun s x => s.storeLater q e c y x) s
  | none => s

/-- The sheaf that one core writes. -/
def State.storeSheaf (s : State) (e : Env) (c : Cmd) (co : CoreOut) : State :=
  match c.out with
  | some o =>
    if o.dst = 2 then
      s.onCores fun x => { x with sheaves := x.sheaves.writeBits (sheafWrites (e.pos co.rank).idx o.sheaf ((Fmt.ofCode o.sfmt).getD .fp32) co) }
    else s
  | none => s

theorem State.storeOuts_eq (q : Nat) (e : Env) (c : Cmd) (ct : CmdTime) (cos : List (CoreOut × List BitWrite)) :
    s.storeOuts q e c ct cos = cos.foldl (fun s co => (s.storeCore q e c ct co).storeSheaf e c co.1) s := rfl

theorem State.keeps_storeCore (s : State) (q : Nat) (e : Env) (c : Cmd) (ct : CmdTime) (co : CoreOut × List BitWrite) :
    s.keeps (s.storeCore q e c ct co) [.agenda] := by
  unfold State.storeCore
  split
  · exact State.keeps_foldl _ (fun s _ => s.keeps_later _ _ _) _ _
  · exact s.keeps_refl _

theorem State.keeps_storeSheaf (s : State) (e : Env) (c : Cmd) (co : CoreOut) : s.keeps (s.storeSheaf e c co) [.cores] := by
  unfold State.storeSheaf
  split
  · exact State.keeps_ite (s.keeps_onCores _) (s.keeps_refl _)
  · exact s.keeps_refl _

theorem State.keeps_storeOuts (s : State) (q : Nat) (e : Env) (c : Cmd) (ct : CmdTime) (cos : List (CoreOut × List BitWrite)) :
    s.keeps (s.storeOuts q e c ct cos) [.agenda, .cores] := by
  rw [State.storeOuts_eq]
  exact State.keeps_foldl _ (fun s co => ((s.keeps_storeCore q e c ct co).andThen (State.keeps_storeSheaf _ e c co.1)).mono (by decide)) _ _

/-- A dated store of sequencer q is a line that a core of the command writes, at its grant. -/
def putsLine (q : Nat) (e : Env) (c : Cmd) (ct : CmdTime) (cos : List (CoreOut × List BitWrite)) (x : Dated) : Prop :=
  x.seq = q ∧ ∀ pos line cells arr, x.act = .store pos line cells arr → arr = false ∧
    ∃ co ∈ cos, ∃ y ∈ ct.cores, y.x.rank = co.1.rank ∧ pos = y.x.idx ∧ (x.cycle - e.start, line, cells) ∈ coreStores e c y co.1 co.2

section
variable {q : Nat} {e : Env} {c : Cmd} {ct : CmdTime} {cos : List (CoreOut × List BitWrite)}

theorem State.schedules_storeCore {co : CoreOut × List BitWrite} (hco : co ∈ cos) : s.schedules (s.storeCore q e c ct co) (putsLine q e c ct cos) := by
  unfold State.storeCore
  split
  next y hy =>
    refine State.schedules_foldl _ _ (fun s x hx => s.schedules_later _ _ _ ⟨rfl, fun pos line cells arr h => ?_⟩) s
    dsimp only at h ⊢
    split at h
    · obtain ⟨rfl, rfl, rfl, rfl⟩ : y.x.idx = pos ∧ x.2.1 = line ∧ x.2.2 = cells ∧ false = arr := by simpa using h
      refine ⟨rfl, co, hco, y, List.mem_of_find?_eq_some hy, eq_of_beq (List.find?_some hy :), rfl, ?_⟩
      rw [Nat.add_sub_cancel_left]
      exact hx
    · exact absurd h nofun
  next => exact s.schedules_refl _

theorem State.schedules_storeOut {co : CoreOut × List BitWrite} (hco : co ∈ cos) :
    s.schedules ((s.storeCore q e c ct co).storeSheaf e c co.1) (putsLine q e c ct cos) :=
  (State.schedules_storeCore hco).trans (.of_keeps (State.keeps_storeSheaf _ _ _ _) _)

theorem State.schedules_storeOuts : s.schedules (s.storeOuts q e c ct cos) (putsLine q e c ct cos) :=
  State.schedules_foldl _ cos (fun _ _ h => State.schedules_storeOut h) s

/-- Every line that a core writes inside the windows waits for its grant (R60). -/
theorem State.mem_storeOuts {co : CoreOut × List BitWrite} (hco : co ∈ cos) {y : CoreT} (hy : (ct.cores.find? fun y => y.x.rank == co.1.rank) = some y)
    {g line : Nat} {cells : List Host.Cell} (hg : (g, line, cells) ∈ coreStores e c y co.1 co.2) (hw : inWindow e.part line = true) :
    ⟨e.start + g, q, .store y.x.idx line cells false⟩ ∈ (s.storeOuts q e c ct cos).agenda := by
  refine State.mem_foldl_agenda (P := putsLine q e c ct cos) _ cos (fun _ _ h => State.schedules_storeOut h) hco (fun s => ?_) s
  rw [(State.keeps_storeSheaf _ e c co.1).agenda, State.storeCore, hy]
  refine State.mem_foldl_agenda (P := fun _ => True) _ _ (fun s x _ => s.schedules_later _ _ _ trivial) hg (fun s => ?_) s
  have h := s.mem_later q (e.start + g) (.store y.x.idx line cells false)
  show _ ∈ (s.storeLater q e c y (g, line, cells)).agenda
  rw [State.storeLater, if_pos hw]
  exact h

end

end Sys2Proof.Machine
end

section
/-! PROOFS. What the parts of a release change, and what they put on the agenda (06 R174, R176; 07 R201). -/

namespace Sys2Proof.Machine

variable {s : State}

/-! ## What the parts of a release change -/

theorem State.keeps_sendBundle (s : State) (q : Nat) (c : Cmd) (release : Nat) : s.keeps (s.sendBundle q c release) [.coll] := by
  unfold State.sendBundle
  extract_lets dies fetch j first bytes h
  split
  · exact s.keeps_refl _
  · exact State.keeps_foldl _ (fun s _ => State.keeps_foldl _ (fun s _ => s.keeps_send _) _ _) _ _

theorem State.keeps_statusOf (s : State) (e : Env) (c : Cmd) (cos : List (CoreOut × List BitWrite)) : s.keeps (s.statusOf e c cos).1 [.free] := by
  unfold State.statusOf
  split
  · exact (((s.keeps_fresh.andThen (State.keeps_fresh _)).andThen (State.keeps_fresh _)).andThen (State.keeps_fresh _)).mono (by decide)
  · exact s.keeps_refl _

theorem State.keeps_predValue (s : State) (e : Env) (c : Cmd) (cos : List (CoreOut × List BitWrite)) : s.keeps (s.predValue e c cos).1 [.free] := by
  unfold State.predValue
  split
  · split
    · dsimp only
      split
      · exact s.keeps_fresh
      · exact s.keeps_refl _
    · exact s.keeps_refl _
  · exact s.keeps_refl _

/-- A dated act that is no store is none of a command's lines. -/
theorem putsLine_of_not_store {q : Nat} (e : Env) (c : Cmd) (ct : CmdTime) (cos : List (CoreOut × List BitWrite)) {x : Dated} (hq : x.seq = q)
    (h : ∀ pos line cells arr, x.act ≠ .store pos line cells arr) : putsLine q e c ct cos x :=
  ⟨hq, fun pos line cells arr k => absurd k (h pos line cells arr)⟩

/-- Only the agenda changes, and what comes onto it satisfies a predicate. -/
structure State.plans (s t : State) (P : Dated → Prop) : Prop where
  frame : s.keeps t [.agenda]
  dated : s.schedules t P

theorem State.plans_refl (s : State) (P : Dated → Prop) : s.plans s P := ⟨s.keeps_refl _, s.schedules_refl P⟩

theorem State.plans.trans {t u : State} {P : Dated → Prop} (h : s.plans t P) (k : t.plans u P) : s.plans u P :=
  ⟨h.frame.trans k.frame, h.dated.trans k.dated⟩

theorem State.plans_later {P : Dated → Prop} (d t : Nat) (a : Act) (h : P ⟨t, d, a⟩) : s.plans (s.later d t a) P :=
  ⟨s.keeps_later _ _ _, s.schedules_later _ _ _ h⟩

theorem State.plans_foldl {α : Type} {P : Dated → Prop} (f : State → α → State) (h : ∀ (s : State) (a : α), s.plans (f s a) P) (l : List α)
    (s : State) : s.plans (l.foldl f s) P :=
  ⟨State.keeps_foldl f (fun s a => (h s a).frame) l s, State.schedules_foldl f l (fun s a _ => (h s a).dated) s⟩

section
variable {q : Nat} {e : Env} {c : Cmd} {ct : CmdTime} {cos : List (CoreOut × List BitWrite)}

theorem State.plans_meet (inp : ComputeIn) : s.plans (s.meet q c inp) (putsLine q e c ct cos) := by
  unfold State.meet
  refine (State.plans_foldl _ (fun s h => ?_) inp.hits s).trans (State.plans_foldl _ (fun s d => ?_) inp.diffs _)
  · exact State.plans_later _ _ _ (putsLine_of_not_store e c ct cos rfl nofun)
  · exact State.plans_later _ _ _ (putsLine_of_not_store e c ct cos rfl nofun)

variable (hq : e.seq = q)
include hq

theorem State.plans_sendTransfer (entry t stream : Nat) (owned : Nat → Bool) :
    s.plans (s.sendTransfer e entry t stream owned) (putsLine q e c ct cos) := by
  unfold State.sendTransfer
  dsimp only
  refine State.plans_foldl _ (fun s x => ?_) _ _
  split_ifs
  · exact State.plans_later _ _ _ (putsLine_of_not_store e c ct cos hq nofun)
  · refine State.plans_foldl _ (fun s n => ?_) _ _
    exact State.plans_later _ _ _ (putsLine_of_not_store e c ct cos hq nofun)
  · refine State.plans_foldl _ (fun s n => ?_) _ _
    exact State.plans_later _ _ _ (putsLine_of_not_store e c ct cos hq nofun)
  · exact s.plans_refl _

theorem State.plans_sendOuts (t : Timing) (os : List (CoreOut × List BitWrite)) :
    s.plans (s.sendOuts e t c os) (putsLine q e c ct cos) := by
  unfold State.sendOuts
  split
  · split
    · exact State.plans_sendTransfer hq _ _ _ _
    · exact s.plans_refl _
  · exact s.plans_refl _

theorem State.plans_sendEmpty (t : Timing) : s.plans (s.sendEmpty e t c) (putsLine q e c ct cos) := by
  unfold State.sendEmpty
  split
  · split
    · exact State.plans_sendOuts hq _ _
    · exact s.plans_refl _
  · exact s.plans_refl _

end

/-! ## The run of a sequencer -/

/-- Of the sequencers, only the run of q changes, and it becomes b. -/
structure State.reruns (s t : State) (q : Nat) (b : Run) : Prop where
  seq : t.seqAt q = { s.seqAt q with run := some b }
  others : ∀ j, j ≠ q → t.seqAt j = s.seqAt j

theorem State.lt_seqs_of_run {q : Nat} {a : Run} (h : (s.seqAt q).run = some a) : q < s.seqs.length := by
  by_contra hl
  rw [State.seqAt, List.getD_eq_default _ _ (Nat.not_lt.1 hl)] at h
  exact absurd h nofun

theorem State.reruns_of_keeps {t : State} {l : List Field} (h : s.keeps t l) {q : Nat} {a : Run} (ha : (s.seqAt q).run = some a)
    (hl : Field.seqs ∉ l := by decide) : s.reruns t q a := by
  have hs := State.seqAt_of_seqs (h.seqs hl)
  exact ⟨by rw [hs, ← ha], fun j _ => hs j⟩

theorem State.reruns.run {t : State} {q : Nat} {b : Run} (h : s.reruns t q b) : (t.seqAt q).run = some b := by rw [h.seq]

theorem State.reruns.trans {t u : State} {q : Nat} {b c : Run} (h : s.reruns t q b) (k : t.reruns u q c) : s.reruns u q c :=
  ⟨by rw [k.seq, h.seq], fun j hj => (k.others j hj).trans (h.others j hj)⟩

theorem State.reruns_onRun {q : Nat} {a : Run} (ha : (s.seqAt q).run = some a) (f : Run → Run) : s.reruns (s.onRun q f) q (f a) := by
  unfold State.onRun
  refine ⟨?_, fun j hj => ?_⟩
  · rw [State.onSeq_seqAt, if_pos ⟨rfl, State.lt_seqs_of_run ha⟩, ha]
    rfl
  · rw [State.onSeq_seqAt, if_neg fun h => hj h.1.symm]

/-! ## A COMPUTE -/

/-- A command in flight as its release records it; `off` says that its predicate turned it off. -/
structure Cmd.flies (c : Cmd) (ct : CmdTime) (off : Prop) (f : InFlight) : Prop where
  idx : f.idx = c.idx
  release : f.release = ct.rel
  done : f.done = ct.done
  kind : f.kind = c.hdr.kind
  sig : f.sig = c.signal
  skipped : f.skipped = true ↔ off

/-- A run that has one more command in flight, and else stands where it stood in its program. -/
structure Run.joins (a b : Run) (f : InFlight) : Prop where
  start : b.start = a.start
  released : b.released = a.released
  completed : b.completed = a.completed
  ended : b.ended = a.ended
  nextIdx : b.nextIdx = a.nextIdx
  flight : b.flight = a.flight ++ [f]

theorem Run.joins_append (a : Run) (f : InFlight) : a.joins { a with flight := a.flight ++ [f] } f := ⟨rfl, rfl, rfl, rfl, rfl, rfl⟩

/-- Is a command turned off by its predicate (R176)? -/
def State.turnsOff (s : State) (q : Nat) (c : Cmd) : Prop := c.hdr.pen = true ∧ (s.seqAt q).preds.getLsbD c.hdr.psel ≠ c.hdr.psense

theorem State.turnsOff_iff (q : Nat) (c : Cmd) :
    (c.hdr.pen && (s.seqAt q).preds.getLsbD c.hdr.psel != c.hdr.psense) = true ↔ s.turnsOff q c := by
  simp [State.turnsOff]

/-- Sequencer q takes command c up: its run has it in flight, and no other sequencer moves. -/
def State.takesUp (s t : State) (q : Nat) (a : Run) (c : Cmd) (ct : CmdTime) : Prop :=
  ∃ b f, s.reruns t q b ∧ a.joins b f ∧ Cmd.flies c ct (s.turnsOff q c) f

/-- A stationary command opens the next generation (R320). -/
def State.openGen (s : State) (q : Nat) (r : Run) (o : OutSlot) (ct : CmdTime) : State :=
  if o.pkind = 1 then
    let n := s.coup.lastOpened + 1
    let gen : Gen :=
      { num := n, seq := q, chain := o.chain, opened := r.start + ct.beats.headD ct.rel, drained := false, closed := none, beats := 0
        fin := 0, data := [], landed := false }
    let s := s.onCoup fun x => { x with lastOpened := n, gens := x.gens ++ [gen] }
    s.onRun q fun r => { r with gens := r.gens ++ [n] }
  else s

theorem State.presentBeats_eq (q : Nat) (r : Run) (e : Env) (c : Cmd) (ct : CmdTime) (cos : List (CoreOut × List BitWrite)) :
    s.presentBeats q r e c ct cos = s ∨
      ∃ o f, s.presentBeats q r e c ct cos = (s.openGen q r o ct).onCoup f := by
  unfold State.presentBeats
  split
  next o _ =>
    split
    · exact .inr ⟨o, _, rfl⟩
    · exact .inl rfl
  next => exact .inl rfl

theorem State.openGen_spec {q : Nat} {a : Run} (ha : (s.seqAt q).run = some a) (r : Run) (o : OutSlot) (ct : CmdTime) :
    s.keeps (s.openGen q r o ct) [.coup, .seqs] ∧ ∃ g, s.reruns (s.openGen q r o ct) q { a with gens := g } := by
  unfold State.openGen
  split
  · dsimp only
    refine ⟨((s.keeps_onCoup _).andThen (State.keeps_onRun _ q _)).mono (by decide), _,
      (State.reruns_of_keeps (s.keeps_onCoup _) ha).trans (State.reruns_onRun (a := a) ?_ _)⟩
    exact ha
  · exact ⟨s.keeps_refl _, a.gens, State.reruns_of_keeps (s.keeps_refl []) ha⟩

/-- Beats that are presented change the coupler, and of the run its generations. -/
theorem State.presentBeats_spec {q : Nat} {a : Run} (ha : (s.seqAt q).run = some a) (r : Run) (e : Env) (c : Cmd) (ct : CmdTime)
    (cos : List (CoreOut × List BitWrite)) :
    let t := s.presentBeats q r e c ct cos
    s.keeps t [.coup, .seqs] ∧ ∃ g, s.reruns t q { a with gens := g } := by
  intro t
  rcases s.presentBeats_eq q r e c ct cos with h | ⟨o, f, h⟩
  · rw [show t = s from h]
    exact ⟨s.keeps_refl _, a.gens, State.reruns_of_keeps (s.keeps_refl []) ha⟩
  · obtain ⟨hk, g, hr⟩ := s.openGen_spec ha r o ct
    rw [show t = _ from h]
    exact ⟨(hk.andThen (State.keeps_onCoup _ f)).mono (by decide), g, hr.trans (State.reruns_of_keeps (State.keeps_onCoup _ f) hr.run)⟩

end Sys2Proof.Machine
end

section
/-! PROOFS. A COMPUTE at its release (02 R60; 06 R160-R183). -/

namespace Sys2Proof.Machine

variable {s : State}

/-- A COMPUTE in flight: its lines, its predicate and its status record. -/
def computeFlight (c : Cmd) (ct : CmdTime) (skipped : Bool) (status : W4) (pred : Option (Nat × Bool)) (counts : List (Nat × Nat) × List (Nat × Nat)) :
    InFlight :=
  { idx := c.idx, off := c.off, release := ct.rel, done := ct.done, kind := 0, skipped := skipped, sig := c.signal, pred := pred
    status := some status, appends := counts.1, retiers := counts.2, diffed := false }

theorem computeFlight_flies {c : Cmd} (hk : c.hdr.kind = 0) (ct : CmdTime) (skipped : Bool) (status : W4) (pred : Option (Nat × Bool))
    (counts : List (Nat × Nat) × List (Nat × Nat)) {off : Prop} (h : skipped = true ↔ off) :
    Cmd.flies c ct off (computeFlight c ct skipped status pred counts) := ⟨rfl, rfl, rfl, hk.symm, rfl, h⟩

/-- A command joins those in flight. -/
def State.putFlight (s : State) (q : Nat) (f : InFlight) : State := s.onRun q fun r => { r with flight := r.flight ++ [f] }

/-- The operands that the surroundings hold are read into the scratchpad. -/
def State.given (s : State) (inp : ComputeIn) : State := { s with sp := s.sp.overlay inp.given }

/-- Accesses outside the domain's windows trap in their cycles (R135, R303). -/
def State.noteOutside (s : State) (q : Nat) (e : Env) (c : Cmd) (ct : CmdTime) (cos : List (CoreOut × List BitWrite)) : State :=
  (outsideReads e ct ++ outsideRows e c ct cos).foldl (fun s (g, pos, stream, line) =>
    s.later q (e.start + g) (.outside c.idx c.off pos stream line)) s

/-- All that a COMPUTE does at its release besides its run's own record. -/
def State.computeWork (s : State) (q : Nat) (r : Run) (e : Env) (c : Cmd) (ct : CmdTime) (inp : ComputeIn) (cos : List (CoreOut × List BitWrite)) :
    State :=
  ((((s.meet q c inp).storeOuts q e c ct cos).noteOutside q e c ct cos).sendOuts e r.timing c cos).presentBeats q r e c ct cos

/-- The run's record of a COMPUTE: its lines' stamps, its status and its predicate. -/
def State.recordCompute (s : State) (q : Nat) (e : Env) (c : Cmd) (ct : CmdTime) (cos : List (CoreOut × List BitWrite)) (stamps : List Stamp) : State :=
  let status := s.statusOf e c cos
  let pred := status.1.predValue e c cos
  (pred.1.onRun q fun r => { r with stamps := r.stamps ++ stamps }).putFlight q
    (computeFlight c ct false status.2 pred.2 (appendCounts e c))

section
variable (q : Nat) (r : Run) (e : Env) (c : Cmd) (ct : CmdTime) (inp : ComputeIn)

theorem State.computeAt_off (h : s.turnsOff q c) :
    s.computeAt q r e c ct inp = (s.given inp).putFlight q (computeFlight c ct true W4.zero none ([], [])) :=
  if_pos ((State.turnsOff_iff q c).2 h)

theorem State.computeAt_zeroLen (h : ¬ s.turnsOff q c) (hz : c.zeroLen = true) :
    s.computeAt q r e c ct inp = ((s.given inp).sendEmpty e r.timing c).putFlight q (computeFlight c ct false W4.zero none ([], [])) :=
  (if_neg fun k => h ((State.turnsOff_iff q c).1 k)).trans (if_pos hz)

theorem State.computeAt_runs (h : ¬ s.turnsOff q c) (hz : c.zeroLen = false) :
    s.computeAt q r e c ct inp = ((s.given inp).computeWork q r e c ct inp ((s.given inp).coreOuts e c)).recordCompute q e c ct
      ((s.given inp).coreOuts e c) ((s.given inp).lineStamps e c ct.cores) :=
  (if_neg fun k => h ((State.turnsOff_iff q c).1 k)).trans (if_neg (by rw [hz]; decide))

end

theorem State.keeps_given (s : State) (inp : ComputeIn) : s.keeps (s.given inp) [.sp] := s.keeps_withSp _

/-- A command that joins those in flight is taken up. -/
theorem State.reruns.takesUp {t : State} {q : Nat} {a b : Run} {c : Cmd} {ct : CmdTime} (h : s.reruns t q b)
    (hb : ∀ f, a.joins { b with flight := b.flight ++ [f] } f) {f : InFlight} (hf : Cmd.flies c ct (s.turnsOff q c) f) :
    s.takesUp (t.putFlight q f) q a c ct :=
  ⟨_, f, h.trans (State.reruns_onRun h.run _), hb f, hf⟩

theorem State.keeps_putFlight (s : State) (q : Nat) (f : InFlight) : s.keeps (s.putFlight q f) [.seqs] := s.keeps_onRun q _

theorem State.plans_noteOutside (q : Nat) (e : Env) (c : Cmd) (ct : CmdTime) (cos : List (CoreOut × List BitWrite)) :
    s.plans (s.noteOutside q e c ct cos) (putsLine q e c ct cos) := by
  unfold State.noteOutside
  refine State.plans_foldl _ (fun s x => ?_) _ s
  exact State.plans_later _ _ _ (putsLine_of_not_store e c ct cos rfl nofun)

section
variable {q : Nat} {r : Run} {e : Env} {c : Cmd} {ct : CmdTime} {inp : ComputeIn}

theorem State.computeWork_spec {cos : List (CoreOut × List BitWrite)} (hq : e.seq = q) {a : Run} (ha : (s.seqAt q).run = some a) :
    let t := s.computeWork q r e c ct inp cos
    s.keeps t [.agenda, .cores, .coup, .seqs] ∧ (∃ g, s.reruns t q { a with gens := g }) ∧ s.schedules t (putsLine q e c ct cos) ∧
      ∀ co ∈ cos, ∀ y, (ct.cores.find? fun y => y.x.rank == co.1.rank) = some y →
        ∀ g line cells, (g, line, cells) ∈ coreStores e c y co.1 co.2 → inWindow e.part line = true →
          ⟨e.start + g, q, .store y.x.idx line cells false⟩ ∈ t.agenda := by
  intro t
  let m := s.meet q c inp
  let o := m.storeOuts q e c ct cos
  let n := o.noteOutside q e c ct cos
  let d := n.sendOuts e r.timing c cos
  have hm : s.plans m (putsLine q e c ct cos) := State.plans_meet inp
  have ho : m.keeps o [.agenda, .cores] := m.keeps_storeOuts q e c ct cos
  have hd : o.plans d (putsLine q e c ct cos) := (o.plans_noteOutside q e c ct cos).trans (State.plans_sendOuts hq r.timing cos)
  have hsd : s.keeps d [.agenda, .cores] := ((hm.frame.andThen ho).andThen hd.frame).mono (by decide)
  have had : (d.seqAt q).run = some a := (State.reruns_of_keeps hsd ha).run
  obtain ⟨hp, g, hg⟩ := d.presentBeats_spec had r e c ct cos
  have hpa : d.schedules t (putsLine q e c ct cos) := .of_keeps hp _
  refine ⟨(hsd.andThen hp).mono (by decide), ⟨g, (State.reruns_of_keeps hsd ha).trans hg⟩,
    ((hm.dated.trans State.schedules_storeOuts).trans hd.dated).trans hpa, fun co hco y hy g line cells hgl hw => ?_⟩
  exact hpa.old _ (hd.dated.old _ (State.mem_storeOuts hco hy hgl hw))

theorem State.recordCompute_spec (cos : List (CoreOut × List BitWrite)) (stamps : List Stamp) :
    s.keeps (s.recordCompute q e c ct cos stamps) [.free, .seqs] :=
  ((((s.keeps_statusOf e c cos).andThen (State.keeps_predValue _ e c cos)).andThen (State.keeps_onRun _ q _)).andThen
    (State.keeps_putFlight _ q _)).mono (by decide)

/-- The record of a COMPUTE takes the command up. -/
theorem State.reruns.recordCompute {t : State} {a : Run} {g : List (BitVec 4)} (h : s.reruns t q { a with gens := g }) (hk : c.hdr.kind = 0)
    (hoff : ¬ s.turnsOff q c) (cos : List (CoreOut × List BitWrite)) (stamps : List Stamp) :
    s.takesUp (t.recordCompute q e c ct cos stamps) q a c ct := by
  have hf := (t.keeps_statusOf e c cos).andThen (State.keeps_predValue _ e c cos)
  have hp := h.trans (State.reruns_of_keeps hf h.run)
  exact (hp.trans (State.reruns_onRun hp.run fun r => { r with stamps := r.stamps ++ stamps })).takesUp
    (fun f => ⟨rfl, rfl, rfl, rfl, rfl, rfl⟩) (computeFlight_flies hk ct _ _ _ _ (by simp [hoff]))

/-- What the release of a COMPUTE leaves. -/
structure State.computed (s t : State) (q : Nat) (a : Run) (e : Env) (c : Cmd) (ct : CmdTime) (inp : ComputeIn) : Prop where
  takes : s.takesUp t q a c ct
  frame : s.keeps t [.seqs, .sp, .cores, .coup, .agenda, .free]
  sp : t.sp = s.sp.overlay inp.given
  off : s.turnsOff q c → t.cores = s.cores ∧ t.coup = s.coup ∧ t.agenda = s.agenda
  puts : s.schedules t (putsLine q e c ct ((s.given inp).coreOuts e c))
  lines : ¬ s.turnsOff q c → c.zeroLen = false → ∀ co ∈ (s.given inp).coreOuts e c, ∀ y,
    (ct.cores.find? fun y => y.x.rank == co.1.rank) = some y → ∀ g line cells, (g, line, cells) ∈ coreStores e c y co.1 co.2 →
      inWindow e.part line = true → ⟨e.start + g, q, .store y.x.idx line cells false⟩ ∈ t.agenda

variable {a : Run} (ha : (s.seqAt q).run = some a) (hk : c.hdr.kind = 0)
include ha hk

theorem State.computed_off (h : s.turnsOff q c) : s.computed (s.computeAt q r e c ct inp) q a e c ct inp := by
  rw [State.computeAt_off _ _ _ _ _ _ h]
  have hf := (s.keeps_given inp).andThen (State.keeps_putFlight _ q (computeFlight c ct true W4.zero none ([], [])))
  exact
    { takes := (State.reruns_of_keeps (s.keeps_given inp) ha).takesUp a.joins_append (computeFlight_flies hk ct _ _ _ _ (by simp [h]))
      frame := hf.mono (by decide)
      sp := rfl
      off := fun _ => ⟨hf.cores, hf.coup, hf.agenda⟩
      puts := .of_keeps hf _
      lines := fun hn => absurd h hn }

theorem State.computed_zeroLen (hq : e.seq = q) (h : ¬ s.turnsOff q c) (hz : c.zeroLen = true) :
    s.computed (s.computeAt q r e c ct inp) q a e c ct inp := by
  rw [State.computeAt_zeroLen _ _ _ _ _ _ h hz]
  have he : (s.given inp).plans ((s.given inp).sendEmpty e r.timing c) (putsLine q e c ct ((s.given inp).coreOuts e c)) :=
    State.plans_sendEmpty hq r.timing
  have hf := (s.keeps_given inp).andThen he.frame
  have hp := State.keeps_putFlight ((s.given inp).sendEmpty e r.timing c) q (computeFlight c ct false W4.zero none ([], []))
  exact
    { takes := (State.reruns_of_keeps hf ha).takesUp a.joins_append (computeFlight_flies hk ct _ _ _ _ (by simp [h]))
      frame := (hf.andThen hp).mono (by decide)
      sp := (he.frame.andThen hp).sp
      off := fun ho => absurd ho h
      puts := ((State.schedules.of_keeps (s.keeps_given inp) _).trans he.dated).trans (.of_keeps hp _)
      lines := fun _ hn => absurd (hz.symm.trans hn) (by decide) }

theorem State.computed_runs (hq : e.seq = q) (h : ¬ s.turnsOff q c) (hz : c.zeroLen = false) :
    s.computed (s.computeAt q r e c ct inp) q a e c ct inp := by
  rw [State.computeAt_runs _ _ _ _ _ _ h hz]
  generalize hcos : (s.given inp).coreOuts e c = cos
  generalize (s.given inp).lineStamps e c ct.cores = stamps
  have hgv := s.keeps_given inp
  obtain ⟨hw, ⟨g, hg⟩, hsched, hlines⟩ := State.computeWork_spec (s := s.given inp) (r := r) (c := c) (ct := ct) (inp := inp) (cos := cos) hq
    (State.reruns_of_keeps hgv ha).run
  have hrec := State.recordCompute_spec (s := (s.given inp).computeWork q r e c ct inp cos) (q := q) (e := e) (c := c) (ct := ct) cos stamps
  exact
    { takes := ((State.reruns_of_keeps hgv ha).trans hg).recordCompute hk h cos stamps
      frame := ((hgv.andThen hw).andThen hrec).mono (by decide)
      sp := (hw.andThen hrec).sp
      off := fun ho => absurd ho h
      puts := by
        rw [hcos]
        exact ((State.schedules.of_keeps hgv _).trans hsched).trans (.of_keeps hrec _)
      lines := by
        rw [hcos]
        intro _ _ co hco y hy g line cells hgl hin
        rw [hrec.agenda]
        exact hlines co hco y hy g line cells hgl hin }

/-- A released COMPUTE: turned off, of zero length, or run. -/
theorem State.computeAt_computed (hq : e.seq = q) : s.computed (s.computeAt q r e c ct inp) q a e c ct inp := by
  by_cases h : s.turnsOff q c
  · exact State.computed_off ha hk h
  · cases hz : c.zeroLen with
    | true => exact State.computed_zeroLen ha hk hq h hz
    | false => exact State.computed_runs ha hk hq h hz

end

end Sys2Proof.Machine
end

section
/-! PROOFS. Commands released in order (07 R191-R202, R209). -/

namespace Sys2Proof.Machine

variable {s : State}

/-! ## The release of a command -/

/-- A sequencer at the release of a command: the command's number and the table slots that it leaves (R196, R202). -/
def Sequencer.notes (c : Cmd) (tm : Timing) (x : Sequencer) : Sequencer :=
  { x with lastReleased := BitVec.ofNat 16 c.idx, slots := if c.hdr.kind = 2 then x.slots else tm.slots.map fun y => y.map (·.1) }

/-- A run at the release of a command: it goes on behind it. -/
def Run.passes (c : Cmd) (tm : Timing) (r : Run) : Run :=
  { r with nextIdx := c.idx + 1, released := r.released + 1, timing := tm, ended := c.hdr.kind == 3 }

/-- The state in which a released command begins. -/
def State.noteRelease (s : State) (q : Nat) (c : Cmd) (tm : Timing) (time : Nat) : State :=
  ((s.sendBundle q c time).onSeq q (Sequencer.notes c tm)).onRun q (Run.passes c tm)

/-- A command other than a COMPUTE in flight. -/
def plainFlight (c : Cmd) (ct : CmdTime) (skipped : Bool) : InFlight :=
  { idx := c.idx, off := c.off, release := ct.rel, done := ct.done, kind := c.hdr.kind, skipped := skipped, sig := c.signal, pred := none
    status := none, appends := [], retiers := [], diffed := false }

/-- A command other than a COMPUTE joins those in flight. -/
def State.putPlain (s : State) (q : Nat) (c : Cmd) (ct : CmdTime) : State :=
  s.putFlight q (plainFlight c ct (c.hdr.pen && (s.seqAt q).preds.getLsbD c.hdr.psel != c.hdr.psense))

/-- A released command begins. -/
def State.beginCmd (s : State) (q : Nat) (r : Run) (e : Env) (c : Cmd) (ct : CmdTime) (inp : ComputeIn) : State :=
  if c.hdr.kind = 0 then s.computeAt q r e c ct inp
  else if c.hdr.kind = 2 then (s.putPlain q c ct).swapProgram q e c else s.putPlain q c ct

section
variable {q : Nat} {r now : Run} {e : Env} {c : Cmd} {tm : Timing} {ct : CmdTime} {inp : ComputeIn} {u : State}

theorem State.releaseCmd_left (hu : s.until (r.start + ct.rel) = u) (h : (u.seqAt q).run = none ∨ (u.domAt q).state ≠ .running) :
    s.releaseCmd q r e c tm ct inp = u := by
  unfold State.releaseCmd
  dsimp only
  rw [hu]
  split
  · rfl
  next now hnow =>
    exact if_pos (bne_iff_ne.2 (h.resolve_left fun hn => absurd (hnow.symm.trans hn) nofun))

variable (hu : s.until (r.start + ct.rel) = u) (hr : (u.seqAt q).run = some now) (hd : (u.domAt q).state = .running)
include hu hr hd

theorem State.releaseCmd_slips (h : ¬ u.ledgerHolds now c (r.start + ct.rel - 1) = true) :
    s.releaseCmd q r e c tm ct inp = u.runtimeHalt q
      { reason := 1, stream := 5, idx := c.idx, off := c.off, core := none, detail := 0x80000000, stamp := r.start + ct.rel - 1 } := by
  unfold State.releaseCmd
  dsimp only
  rw [hu, hr]
  dsimp only
  rw [if_neg (by rw [hd]; decide), if_pos (by simpa using h)]

theorem State.releaseCmd_unarmed (h : u.ledgerHolds now c (r.start + ct.rel - 1) = true) (hk : c.hdr.kind = 2)
    (ha : u.armedBefore q (r.start + ct.rel) = false) :
    s.releaseCmd q r e c tm ct inp = u.runtimeHalt q
      { reason := 5, stream := 5, idx := c.idx, off := c.off, core := none, detail := 0, stamp := 0 } := by
  unfold State.releaseCmd
  dsimp only
  rw [hu, hr]
  dsimp only
  rw [if_neg (by rw [hd]; decide), if_neg (by rw [h]; decide), if_pos (by rw [hk, ha]; decide)]

theorem State.releaseCmd_begins (h : u.ledgerHolds now c (r.start + ct.rel - 1) = true)
    (ha : c.hdr.kind = 2 → u.armedBefore q (r.start + ct.rel) = true) :
    s.releaseCmd q r e c tm ct inp = (u.noteRelease q c tm (r.start + ct.rel)).beginCmd q r e c ct inp := by
  unfold State.releaseCmd
  dsimp only
  rw [hu, hr]
  dsimp only
  rw [if_neg (by rw [hd]; decide), if_neg (by rw [h]; decide), if_neg (by
    rw [Bool.and_eq_true, beq_iff_eq, Bool.not_eq_true', not_and]
    exact fun hk => by rw [ha hk]; decide)]
  rfl

end

/-! ## What a release leaves -/

/-- Command c has been released between u and t: it is counted and in flight, and the run goes on behind it. -/
structure State.hasReleased (u t : State) (q : Nat) (now : Run) (c : Cmd) (tm : Timing) (ct : CmdTime) : Prop where
  last : (t.seqAt q).lastReleased = BitVec.ofNat 16 c.idx
  others : ∀ j, j ≠ q → t.seqAt j = u.seqAt j
  run : ∃ r', (t.seqAt q).run = some r' ∧ r'.start = now.start ∧ r'.released = now.released + 1 ∧ r'.completed = now.completed ∧
    r'.ended = (c.hdr.kind == 3) ∧ r'.nextIdx = (if c.hdr.kind = 2 then 0 else c.idx + 1) ∧
    ∃ f, r'.flight = now.flight ++ [f] ∧ Cmd.flies c ct (u.turnsOff q c) f
  slots : (t.seqAt q).slots = if c.hdr.kind = 2 then (u.seqAt q).slots else tm.slots.map fun y => y.map (·.1)

section
variable {q : Nat} {now : Run} {c : Cmd} {tm : Timing} {ct : CmdTime} {u t : State}

theorem State.keeps_noteRelease (u : State) (q : Nat) (c : Cmd) (tm : Timing) (time : Nat) : u.keeps (u.noteRelease q c tm time) [.coll, .seqs] :=
  (((u.keeps_sendBundle q c time).andThen (State.keeps_onSeq _ q _)).andThen (State.keeps_onRun _ q _)).mono (by decide)

theorem State.noteRelease_seqAt (hr : (u.seqAt q).run = some now) (time : Nat) :
    (u.noteRelease q c tm time).seqAt q = { Sequencer.notes c tm (u.seqAt q) with run := some (now.passes c tm) } := by
  have hb : (u.sendBundle q c time).seqs = u.seqs := (u.keeps_sendBundle q c time).seqs
  have hs : ((u.sendBundle q c time).onSeq q (Sequencer.notes c tm)).seqAt q = Sequencer.notes c tm (u.seqAt q) := by
    rw [State.onSeq_seqAt, if_pos ⟨rfl, by rw [hb]; exact State.lt_seqs_of_run hr⟩, State.seqAt_of_seqs hb]
  rw [State.noteRelease, (State.reruns_onRun (a := now) (by rw [hs]; exact hr) (Run.passes c tm)).seq, hs]

theorem State.noteRelease_seqAt_ne (time : Nat) {j : Nat} (hj : j ≠ q) : (u.noteRelease q c tm time).seqAt j = u.seqAt j := by
  have hb : (u.sendBundle q c time).seqs = u.seqs := (u.keeps_sendBundle q c time).seqs
  unfold State.noteRelease State.onRun
  rw [State.onSeq_seqAt, if_neg fun h => hj h.1.symm, State.onSeq_seqAt, if_neg fun h => hj h.1.symm, State.seqAt_of_seqs hb]

theorem State.noteRelease_run (hr : (u.seqAt q).run = some now) (time : Nat) :
    ((u.noteRelease q c tm time).seqAt q).run = some (now.passes c tm) := by rw [State.noteRelease_seqAt hr]

theorem State.noteRelease_turnsOff (hr : (u.seqAt q).run = some now) (time : Nat) :
    (u.noteRelease q c tm time).turnsOff q c ↔ u.turnsOff q c := by
  unfold State.turnsOff
  rw [State.noteRelease_seqAt hr]
  rfl

theorem State.putPlain_takesUp {a : Run} (ha : (s.seqAt q).run = some a) : s.takesUp (s.putPlain q c ct) q a c ct :=
  (State.reruns_of_keeps (s.keeps_refl []) ha).takesUp a.joins_append ⟨rfl, rfl, rfl, rfl, rfl, State.turnsOff_iff q c⟩

/-- A command other than a SWAP that is taken up has been released. -/
theorem State.takesUp.hasReleased (hr : (u.seqAt q).run = some now) (hk : c.hdr.kind ≠ 2) {time : Nat}
    (h : (u.noteRelease q c tm time).takesUp t q (now.passes c tm) c ct) : u.hasReleased t q now c tm ct := by
  obtain ⟨b, f, hb, hj, hf⟩ := h
  have hoff := State.noteRelease_turnsOff (c := c) (tm := tm) hr time
  have hseq := hb.seq
  rw [State.noteRelease_seqAt hr] at hseq
  exact
    { last := by rw [hseq]; rfl
      others := fun j hj' => (hb.others j hj').trans (State.noteRelease_seqAt_ne time hj')
      run := ⟨b, hb.run, hj.start, hj.released, hj.completed, hj.ended, by rw [if_neg hk]; exact hj.nextIdx, f, hj.flight,
        hf.idx, hf.release, hf.done, hf.kind, hf.sig, hf.skipped.trans hoff⟩
      slots := by rw [hseq]; rfl }

/-! ## A SWAP -/

/-- A sequencer whose program swaps (R192, R35). -/
def Sequencer.swaps (slave : Bool) (c : Cmd) (x : Sequencer) : Sequencer :=
  { (if slave then { x with fed := x.fed.drop (c.off + c.len) } else x.swapBanks) with flags := 0, tallies := List.replicate 32 0, preds := 0 }

/-- What a swap leaves of a sequencer. -/
theorem Sequencer.swaps_keeps (slave : Bool) (c : Cmd) (x : Sequencer) :
    (x.swaps slave c).run = x.run ∧ (x.swaps slave c).lastReleased = x.lastReleased ∧ (x.swaps slave c).slots = x.slots := by
  cases slave <;> exact ⟨rfl, rfl, rfl⟩

theorem State.swapProgram_spec (e : Env) {a : Run} (ha : (s.seqAt q).run = some a) :
    let t := s.swapProgram q e c
    (∃ tm', t.seqAt q = { Sequencer.swaps s.slave c (s.seqAt q) with run := some { a with nextIdx := 0, timing := tm' } }) ∧
      (∀ j, j ≠ q → t.seqAt j = s.seqAt j) ∧ s.keeps t [.seqs] := by
  intro t
  let m := s.onSeq q (Sequencer.swaps s.slave c)
  have hm : m.seqAt q = Sequencer.swaps s.slave c (s.seqAt q) := by rw [State.onSeq_seqAt, if_pos ⟨rfl, State.lt_seqs_of_run ha⟩]
  have hmr : (m.seqAt q).run = some a := by rw [hm, (Sequencer.swaps_keeps _ _ _).1, ha]
  have ht : t = m.onRun q fun r' => { r' with nextIdx := 0, timing := r'.timing.regroup e (m.runEnv q a) } := by
    show s.swapProgram q e c = _
    unfold State.swapProgram
    dsimp only
    have hs : (s.onSeq q fun x => { (if s.slave then { x with fed := x.fed.drop (c.off + c.len) } else x.swapBanks) with
      flags := 0, tallies := List.replicate 32 0, preds := 0 }) = m := rfl
    rw [hs, hmr]
  have hre := State.reruns_onRun hmr fun r' => { r' with nextIdx := 0, timing := r'.timing.regroup e (m.runEnv q a) }
  rw [ht]
  refine ⟨⟨_, hre.seq.trans (by rw [hm])⟩, fun j hj => (hre.others j hj).trans ?_,
    ((s.keeps_onSeq q _).andThen (State.keeps_onRun _ q _)).mono (by decide)⟩
  rw [State.onSeq_seqAt, if_neg fun h => hj h.1.symm]

end

section
variable {q : Nat} {r now : Run} {e : Env} {c : Cmd} {tm : Timing} {ct : CmdTime} {inp : ComputeIn} {u : State}

/-- A released SWAP: the program swaps, and the table slots stand until it completes (R192, R202). -/
theorem State.swap_hasReleased (hr : (u.seqAt q).run = some now) (hk : c.hdr.kind = 2) (time : Nat) :
    let t := (u.noteRelease q c tm time).beginCmd q r e c ct inp
    u.hasReleased t q now c tm ct ∧ u.keeps t [.seqs, .coll] ∧ (t.seqAt q).flags = 0 ∧ (t.seqAt q).tallies = List.replicate 32 0 ∧
      (t.seqAt q).preds = 0 ∧ (u.slave = false → (t.seqAt q).activeBank = 1 - (u.seqAt q).activeBank ∧ (t.seqAt q).load = .empty) := by
  intro t
  let l := u.noteRelease q c tm time
  have hl := u.keeps_noteRelease q c tm time
  have hlr := State.noteRelease_run (c := c) (tm := tm) hr time
  have hls := State.noteRelease_seqAt (c := c) (tm := tm) hr time
  obtain ⟨b, f, hb, hj, hf⟩ := State.putPlain_takesUp (c := c) (ct := ct) hlr
  have hp := l.keeps_putFlight q (plainFlight c ct (c.hdr.pen && (l.seqAt q).preds.getLsbD c.hdr.psel != c.hdr.psense))
  obtain ⟨⟨tm', hseq⟩, hothers, hk'⟩ := State.swapProgram_spec (c := c) e hb.run
  have ht : t = (l.putPlain q c ct).swapProgram q e c := by
    show l.beginCmd q r e c ct inp = _
    rw [State.beginCmd, if_neg (by rw [hk]; decide), if_pos hk]
  obtain ⟨-, hlast, hslots⟩ := Sequencer.swaps_keeps (l.putPlain q c ct).slave c ((l.putPlain q c ct).seqAt q)
  have hslave : (l.putPlain q c ct).slave = u.slave := by
    have hboot := (hl.andThen hp).boot
    exact congrArg (fun b => b.straps.fedDies != 0 && !b.straps.fedMaster) hboot
  rw [hslave] at hseq hlast hslots
  have hput : (l.putPlain q c ct).seqAt q = { Sequencer.notes c tm (u.seqAt q) with run := some b } := by rw [hb.seq, hls]
  rw [ht]
  refine ⟨⟨?last, fun j hj' => ?others, ?run, ?slots⟩, ((hl.andThen hp).andThen hk').mono (by decide), ?flags, ?tallies, ?preds,
    fun hs => ?bank⟩
  case last => rw [hseq]; exact hlast.trans (by rw [hput]; rfl)
  case others => exact (hothers j hj').trans ((hb.others j hj').trans (State.noteRelease_seqAt_ne time hj'))
  case run =>
    rw [hseq]
    exact ⟨_, rfl, hj.start, hj.released, hj.completed, hj.ended, (if_pos hk).symm, f, hj.flight, hf.idx, hf.release, hf.done, hf.kind, hf.sig,
      hf.skipped.trans (State.noteRelease_turnsOff hr time)⟩
  case slots => rw [hseq]; exact hslots.trans (by rw [hput, if_pos hk]; exact if_pos hk)
  case flags => rw [hseq]; rfl
  case tallies => rw [hseq]; rfl
  case preds => rw [hseq]; rfl
  case bank => rw [hseq, hs, hput]; exact ⟨rfl, rfl⟩

/-- A released SYNC or END. -/
theorem State.plain_hasReleased (hr : (u.seqAt q).run = some now) (h0 : c.hdr.kind ≠ 0) (h2 : c.hdr.kind ≠ 2) (time : Nat) :
    let t := (u.noteRelease q c tm time).beginCmd q r e c ct inp
    u.hasReleased t q now c tm ct ∧ u.keeps t [.seqs, .coll] := by
  intro t
  have ht : t = (u.noteRelease q c tm time).putPlain q c ct := by
    show (u.noteRelease q c tm time).beginCmd q r e c ct inp = _
    rw [State.beginCmd, if_neg h0, if_neg h2]
  rw [ht]
  exact ⟨(State.putPlain_takesUp (State.noteRelease_run hr time)).hasReleased hr h2,
    ((u.keeps_noteRelease q c tm time).andThen (State.keeps_putFlight _ q _)).mono (by decide)⟩

/-- The release of a COMPUTE begins as the note of its release leaves it. -/
theorem State.compute_begins (hr : (u.seqAt q).run = some now) (hk : c.hdr.kind = 0) (hq : e.seq = q) (time : Nat) :
    let l := u.noteRelease q c tm time
    l.computed (l.beginCmd q r e c ct inp) q (now.passes c tm) e c ct inp := by
  intro l
  rw [State.beginCmd, if_pos hk]
  exact State.computeAt_computed (State.noteRelease_run hr time) hk hq

/-- The cores of a COMPUTE read what the release's note has left alone. -/
theorem State.noteRelease_coreOuts (time : Nat) :
    ((u.noteRelease q c tm time).given inp).coreOuts e c = (u.given inp).coreOuts e c := by
  have hl := u.keeps_noteRelease q c tm time
  have hs (g : Nat) : ((u.noteRelease q c tm time).given inp).seenBy e.seq g = (u.given inp).seenBy e.seq g := by
    show State.seenBy { (u.noteRelease q c tm time) with sp := (u.noteRelease q c tm time).sp.overlay inp.given } _ _ = _
    unfold State.seenBy
    dsimp only
    rw [hl.agenda, hl.sp]
    rfl
  have hc : ((u.noteRelease q c tm time).given inp).cores = (u.given inp).cores := hl.cores
  unfold State.coreOuts
  simp only [hs, hc]

end

section
variable {q : Nat} {r now : Run} {e : Env} {c : Cmd} {tm : Timing} {ct : CmdTime} {inp : ComputeIn} {u : State}

/-- A released COMPUTE: its lines are put on the agenda, nothing is stored yet. -/
theorem State.compute_hasReleased (hr : (u.seqAt q).run = some now) (hk : c.hdr.kind = 0) (hq : e.seq = q) (time : Nat) :
    let t := (u.noteRelease q c tm time).beginCmd q r e c ct inp
    u.hasReleased t q now c tm ct ∧ u.keeps t [.seqs, .coll, .sp, .cores, .coup, .agenda, .free] ∧ t.sp = u.sp.overlay inp.given ∧
      (u.turnsOff q c → t.cores = u.cores ∧ t.coup = u.coup ∧ t.agenda = u.agenda) ∧
      u.schedules t (putsLine q e c ct ((u.given inp).coreOuts e c)) ∧
      (¬ u.turnsOff q c → c.zeroLen = false → ∀ co ∈ (u.given inp).coreOuts e c, ∀ y,
        (ct.cores.find? fun y => y.x.rank == co.1.rank) = some y → ∀ g line cells, (g, line, cells) ∈ coreStores e c y co.1 co.2 →
          inWindow e.part line = true → ⟨e.start + g, q, .store y.x.idx line cells false⟩ ∈ t.agenda) := by
  intro t
  have hl := u.keeps_noteRelease q c tm time
  have hoff := State.noteRelease_turnsOff (c := c) (tm := tm) hr time
  obtain ⟨htakes, hframe, hsp, hcores, hputs, hlines⟩ := State.compute_begins (r := r) (tm := tm) (ct := ct) (inp := inp) hr hk hq time
  rw [State.noteRelease_coreOuts] at hputs hlines
  refine ⟨htakes.hasReleased hr (by rw [hk]; decide), (hl.andThen hframe).mono (by decide), ?_, fun h => ?_,
    (State.schedules.of_keeps hl _).trans hputs, fun h => hlines (mt hoff.1 h)⟩
  · rw [hsp, hl.sp]
  · obtain ⟨h1, h2, h3⟩ := hcores (hoff.2 h)
    exact ⟨h1.trans hl.cores, h2.trans hl.coup, h3.trans hl.agenda⟩

/-- Every released command but a SWAP passes on to the next one. -/
theorem State.begins_hasReleased (hr : (u.seqAt q).run = some now) (hk : c.hdr.kind ≠ 2) (hq : e.seq = q) (time : Nat) :
    u.hasReleased ((u.noteRelease q c tm time).beginCmd q r e c ct inp) q now c tm ct := by
  by_cases h0 : c.hdr.kind = 0
  · exact (State.compute_hasReleased hr h0 hq time).1
  · exact (State.plain_hasReleased hr h0 hk time).1

end

/-- The next command's release, when the row names its kind. -/
theorem State.releaseKind_next {q : Nat} {inp : ComputeIn} {r : Run} {c : Cmd} {rest : List Cmd} {tm : Timing} {ct : CmdTime}
    (hn : s.nextCmd q = some (r, c, rest)) (ht : timeCmd (s.runEnv q r) r.timing c rest s.coll.logicalId.toNat = some (tm, ct))
    (hm : mayRelease r c ct.rel = true) (hl : s.landedBefore r (s.runEnv q r) (c :: rest) ct.rel = true) {k : Nat} (hk : c.hdr.kind = k) :
    s.releaseKind q k inp = s.releaseCmd q r (s.runEnv q r) c tm ct inp := by
  unfold State.releaseKind
  rw [hn]
  dsimp only
  rw [if_pos hk, ht]
  dsimp only
  rw [if_pos (by rw [hm, hl]; rfl)]

theorem exec_tallyWaitWindowEnd {q : Nat} {r : Run} {c : Cmd} {rest : List Cmd} (hn : s.nextCmd q = some (r, c, rest)) (hw : c.ledgerWaits ≠ []) :
    exec (.tallyWaitWindowEnd q) s = .next (s.releaseKind q c.hdr.kind ComputeIn.none) := by
  show execTallyWaitWindowEnd q s = _
  rw [execTallyWaitWindowEnd, hn]
  dsimp only
  rw [if_neg (by simpa using hw)]

/-- The row that names a command's kind (R160, R192, R201). -/
def releaseRow (q : Nat) (inp : ComputeIn) (kind : Nat) : Instr :=
  if kind = 0 then .compute q inp else if kind = 1 then .sync q else if kind = 2 then .swap q else .endEpoch q

theorem exec_releaseRow (q : Nat) (inp : ComputeIn) {kind : Nat} (hk : kind < 4) :
    ∃ i, exec (releaseRow q inp kind) s = .next (s.releaseKind q kind i) := by
  have : kind = 0 ∨ kind = 1 ∨ kind = 2 ∨ kind = 3 := by omega
  rcases this with rfl | rfl | rfl | rfl
  · exact ⟨inp, rfl⟩
  · exact ⟨_, rfl⟩
  · exact ⟨_, rfl⟩
  · exact ⟨_, rfl⟩

/-- Where an epoch runs, its domain and its sequencer are the state's own. -/
theorem State.liveAt_of_running {q : Nat} {now : Run} (hr : (s.seqAt q).run = some now) (hd : (s.domAt q).state = .running) : s.liveAt q := by
  refine ⟨by rw [hd]; rfl, State.lt_seqs_of_run hr, ?_⟩
  by_contra hl
  rw [State.domAt, List.getD_eq_default _ _ (Nat.not_lt.1 hl)] at hd
  exact absurd hd (by decide)

/-- Settles O42: a command is released as `releaseCmd` says, after which its kind decides; a wait that does not hold, or a SWAP without an armed
bank, halts. -/
theorem commandsAreReleasedInOrder : Obligations.CommandsAreReleasedInOrder := by
  intro q inp r c rest tm ct s _ _ hn e ht hm hl time u row
  have hkind (i : ComputeIn) {k : Nat} (hk : c.hdr.kind = k) : s.releaseKind q k i = s.releaseCmd q r e c tm ct i :=
    State.releaseKind_next hn ht hm hl hk
  refine ⟨fun h => ?left, fun now hr hd => ?_⟩
  case left =>
    obtain ⟨i, hi⟩ := exec_releaseRow (s := s) q inp (State.nextCmd_kind hn)
    exact hi.trans (congrArg Host.Outcome.next ((hkind i rfl).trans (State.releaseCmd_left rfl h)))
  intro holds off runs u1 cos
  have hlive : u.liveAt q := State.liveAt_of_running hr hd
  have slips (i : ComputeIn) (h : ¬holds) :
      (s.releaseCmd q r e c tm ct i).aborts q 1 ∧ u.keeps (s.releaseCmd q r e c tm ct i) abortFields := by
    rw [State.releaseCmd_slips rfl hr hd h]
    exact State.runtimeHalt_spec hlive _
  have begins (i : ComputeIn) (h : holds) (ha : c.hdr.kind = 2 → u.armedBefore q time = true) :
      s.releaseCmd q r e c tm ct i = (u.noteRelease q c tm time).beginCmd q r e c ct i := State.releaseCmd_begins rfl hr hd h ha
  have runs_of (row : Instr) (k : Nat) (i : ComputeIn) (fields : List Field) (more : State → Prop)
      (hrow : exec row s = .next (s.releaseKind q k i))
      (hmore : c.hdr.kind = k → let t := (u.noteRelease q c tm time).beginCmd q r e c ct i
        u.hasReleased t q now c tm ct ∧ u.keeps t fields ∧ more t) : runs row k fields more := by
    rintro rfl
    refine ⟨_, hrow.trans (congrArg Host.Outcome.next (hkind i rfl)), slips i, fun h ha => ?_⟩
    obtain ⟨hrel, hkeeps, hm'⟩ := hmore rfl
    rw [begins i h ha]
    obtain ⟨r', h1, h2, h3, h4, h5, h6, f, h7, hf⟩ := hrel.run
    exact ⟨hrel.last, hrel.others, ⟨r', h1, h2, h3, h4, h5, h6, f, h7, hf.idx, hf.release, hf.done, hf.kind, hf.sig, hf.skipped⟩,
      hrel.slots, hkeeps, hm'⟩
  refine ⟨runs_of _ 0 inp _ _ rfl fun hk => ?compute, runs_of _ 1 ComputeIn.none _ _ rfl fun hk => ?sync,
    runs_of _ 3 ComputeIn.none _ _ rfl fun hk => ?endEpoch, runs_of _ 2 ComputeIn.none _ _ rfl fun hk => ?swap,
    fun hk h ha => ?unarmed, fun hw hk => ?window⟩
  case compute =>
    obtain ⟨h1, h2, h3, h4, h5, h6⟩ := State.compute_hasReleased (r := r) (e := e) (tm := tm) (ct := ct) (inp := inp) hr hk rfl time
    exact ⟨h1, h2, h3, h4, h5.new, h6⟩
  case sync =>
    obtain ⟨h1, h2⟩ := State.plain_hasReleased (r := r) (e := e) (tm := tm) (ct := ct) (inp := ComputeIn.none) hr
      (by rw [hk]; decide) (by rw [hk]; decide) time
    exact ⟨h1, h2, trivial⟩
  case endEpoch =>
    obtain ⟨h1, h2⟩ := State.plain_hasReleased (r := r) (e := e) (tm := tm) (ct := ct) (inp := ComputeIn.none) hr
      (by rw [hk]; decide) (by rw [hk]; decide) time
    exact ⟨h1, h2, trivial⟩
  case swap => exact State.swap_hasReleased hr hk time
  case unarmed =>
    refine ⟨_, congrArg Host.Outcome.next (hkind ComputeIn.none hk), ?_⟩
    rw [State.releaseCmd_unarmed rfl hr hd h hk ha]
    exact State.runtimeHalt_spec hlive _
  case window =>
    refine ⟨_, (exec_tallyWaitWindowEnd hn hw).trans (congrArg Host.Outcome.next (hkind _ rfl)), fun h => ?_, slips _⟩
    rw [begins _ h fun k => absurd k hk]
    obtain ⟨r', h1, -, h3, -, -, h6, -⟩ :=
      (State.begins_hasReleased (r := r) (e := e) (tm := tm) (ct := ct) (inp := ComputeIn.none) hr hk rfl time).run
    exact ⟨r', h1, h3, h6.trans (if_neg hk)⟩

end Sys2Proof.Machine
end

section
/-! PROOFS. What reset leaves, and the end of start-up: self-test, BOOT_GO, the image, and warm reset (03 R92-R105; 05 R149; 17 R424). -/

namespace Sys2Proof.Machine

variable {s : State}

/-! ## Reset values -/

theorem State.initial_domAt (c : Cfg) (d : Nat) : (State.initial c).domAt d = DomColl.initial := getD_replicate_self ..

theorem State.initial_portAt (c : Cfg) (p : Nat) : (State.initial c).portAt p = Port.initial := getD_replicate_self ..

theorem State.initial_mbxAt (c : Cfg) {m : Nat} (h : m < 16) : (State.initial c).mbxAt m = Mailbox.initial m := by
  show ((List.range 16).map Mailbox.initial).getD m (Mailbox.initial m) = _
  rw [List.getD_eq_getElem _ _ (by simpa using h), List.getElem_map, List.getElem_range]

/-- Settles O8: the fields are those of `State.initial`, the units those of its lists. -/
theorem resetLeavesStatedValues : Obligations.ResetLeavesStatedValues := by
  refine ⟨rfl, rfl, rfl, rfl, rfl, State.dark_initial _, rfl, rfl, fun d _ => ?_, rfl, rfl, fun p _ => ?_, rfl, fun m hm => ?_⟩
  · exact congrArg DomColl.state (State.initial_domAt _ d)
  · exact congrArg Port.ctl (State.initial_portAt _ p)
  · rw [State.reset, State.initial_mbxAt _ hm]
    exact ⟨rfl, rfl⟩

/-! ## Self-test -/

/-- A core that self-test has fenced, where there is one of that number. -/
def Cores.fencedAt (c : Cores) (k : Nat) : Prop := ∀ p, c.phys[k]? = some p → p.state = .fenced ∧ p.byBist = true

/-- A core is fenced for good (R102). -/
def Cores.bistFenceOne (c : Cores) (k : Nat) : Cores :=
  { c with phys := c.phys.modify k fun p => { p with state := .fenced, byBist := true } }

theorem Cores.bistFence_eq (n : Nat) (c : Cores) (ks : List Nat) :
    c.bistFence n ks = ks.foldl (Cores.bistReplace n) (ks.foldl Cores.bistFenceOne c) := rfl

theorem Cores.bistFenceOne_fencedAt {c : Cores} {k j : Nat} (h : k = j ∨ c.fencedAt j) : (c.bistFenceOne k).fencedAt j := by
  intro p hp
  have hp : (c.phys.modify k fun p => { p with state := .fenced, byBist := true })[j]? = some p := hp
  rw [List.getElem?_modify] at hp
  split at hp
  · obtain ⟨x, -, rfl⟩ := Option.map_eq_some_iff.1 hp
    exact ⟨rfl, rfl⟩
  next hn => exact h.resolve_left hn p (by simpa using hp)

theorem Cores.foldl_bistFenceOne_fencedAt {j : Nat} (ks : List Nat) :
    ∀ c : Cores, j ∈ ks ∨ c.fencedAt j → (ks.foldl Cores.bistFenceOne c).fencedAt j := by
  induction ks with
  | nil => exact fun c h => h.resolve_left List.not_mem_nil
  | cons k ks ih =>
    refine fun c h => ih _ ?_
    rcases h with h | h
    · rcases List.mem_cons.1 h with rfl | h
      · exact .inr (Cores.bistFenceOne_fencedAt (.inl rfl))
      · exact .inl h
    · exact .inr (Cores.bistFenceOne_fencedAt (.inr h))

theorem Cores.foldl_bistFenceOne_serve (ks : List Nat) : ∀ c : Cores, (ks.foldl Cores.bistFenceOne c).serve = c.serve := by
  induction ks with
  | nil => exact fun c => rfl
  | cons k ks ih => exact fun c => ih _

/-- A replacement puts a spare that was free into a place of core k, or changes nothing. -/
theorem Cores.bistReplace_cases (n : Nat) (c : Cores) (k : Nat) : Cores.bistReplace n c k = c ∨
    ∃ g i, c.serve.getD g 0 = k ∧ (c.phys[i]?).map PhysCore.state = some .free ∧
      Cores.bistReplace n c k = { c with serve := c.serve.set g i, phys := c.phys.modify i fun p => { p with state := .serving } } := by
  unfold Cores.bistReplace
  dsimp only
  split
  next g i hg hi =>
    have hk := List.find?_some hg
    have hf := List.find?_some hi
    simp only [beq_iff_eq] at hk
    simp only [Bool.and_eq_true, beq_iff_eq] at hf
    exact .inr ⟨g, i, hk, hf.2, rfl⟩
  next => exact .inl rfl

/-- A fenced core is no spare that could be chosen. -/
theorem Cores.bistReplace_fencedAt {c : Cores} {j : Nat} (n k : Nat) (h : c.fencedAt j) : (Cores.bistReplace n c k).fencedAt j := by
  rcases Cores.bistReplace_cases n c k with he | ⟨g, i, -, hfree, he⟩
  · rwa [he]
  · rw [he]
    intro p hp
    have hp : (c.phys.modify i fun p => { p with state := .serving })[j]? = some p := hp
    have hij : i ≠ j := by
      rintro rfl
      obtain ⟨x, hx, hs⟩ := Option.map_eq_some_iff.1 hfree
      exact absurd ((h x hx).1.symm.trans hs) (by decide)
    exact h p (by simpa [List.getElem?_modify, hij] using hp)

/-- A position that another core serves keeps it. -/
theorem Cores.bistReplace_serve {c : Cores} {g x : Nat} (n : Nat) {k : Nat} (h : c.serve[g]? = some x) (hne : x ≠ k) :
    (Cores.bistReplace n c k).serve[g]? = some x := by
  rcases Cores.bistReplace_cases n c k with he | ⟨y, i, hy, -, he⟩
  · rwa [he]
  · have hyg : y ≠ g := by
      rintro rfl
      rw [List.getD_eq_getElem?_getD, h] at hy
      exact hne hy
    rw [he, List.getElem?_set_ne hyg]
    exact h

/-- Failing cores are fenced for good, and every position whose core has not failed keeps it (R102, R424). -/
theorem Cores.bistFence_spec (n : Nat) (c : Cores) (ks : List Nat) : (∀ k ∈ ks, (c.bistFence n ks).fencedAt k) ∧
    ∀ g x : Nat, c.serve[g]? = some x → x ∉ ks → (c.bistFence n ks).serve[g]? = some x := by
  have replaced : ∀ (l : List Nat) (c : Cores), (∀ k, c.fencedAt k → (l.foldl (Cores.bistReplace n) c).fencedAt k) ∧
      ∀ g x : Nat, c.serve[g]? = some x → x ∉ l → (l.foldl (Cores.bistReplace n) c).serve[g]? = some x := by
    intro l
    induction l with
    | nil => exact fun c => ⟨fun _ h => h, fun _ _ h _ => h⟩
    | cons k l ih =>
      intro c
      obtain ⟨hf, hs⟩ := ih (Cores.bistReplace n c k)
      refine ⟨fun j h => hf j (Cores.bistReplace_fencedAt n k h), fun g x h hx => ?_⟩
      rw [List.mem_cons, not_or] at hx
      exact hs g x (Cores.bistReplace_serve n h hx.1) hx.2
  obtain ⟨hf, hs⟩ := replaced ks (ks.foldl Cores.bistFenceOne c)
  rw [Cores.bistFence_eq]
  exact ⟨fun k hk => hf k (Cores.foldl_bistFenceOne_fencedAt ks c (.inl hk)),
    fun g x h hx => hs g x (by rw [Cores.foldl_bistFenceOne_serve]; exact h) hx⟩

theorem exec_bistDone_fails (failed : List SramLoc) (hp : s.aon.power = .starting) (h3 : s.boot.phase = 3)
    (h : failed.any centralMem = true ∨ s.cfg.nSpare < (bistCores (s.cfg.nActive + s.cfg.nSpare) failed).length) :
    ∃ l, exec (.bistDone failed) s = .next (s.startFail 0x03 l) := by
  show ∃ l, execBistDone failed s = _
  unfold execBistDone
  rw [if_pos ⟨hp, h3⟩]
  split
  next l _ => exact ⟨some l, rfl⟩
  next hnone =>
    have hc : ¬ failed.any centralMem = true := by
      rw [List.any_eq_true]
      rintro ⟨l, hl, hcl⟩
      exact List.find?_eq_none.1 hnone l hl hcl
    exact ⟨_, if_pos (h.resolve_left hc)⟩

/-! ## Limits of start-up -/

theorem State.keeps_startEnd (s : State) (r : Nat) : s.keeps (s.startEnd r) [.boot, .aon, .ports] := by
  unfold State.startEnd
  extract_lets u v w
  have hw : v.keeps w [.ports] := by
    intro f hf; cases f <;> first | rfl | exact absurd (by decide) hf
  exact ((((s.keeps_onBoot _).andThen (State.keeps_onAon _ _)).andThen hw).andThen
    (State.keeps_foldl _ (fun s i => s.keeps_assertBypass i) _ _)).mono (by decide)

theorem State.keeps_startFail (s : State) (r : Nat) (l : Option SramLoc) : s.keeps (s.startFail r l) [.boot, .aon, .ports, .gln] :=
  ((s.keeps_startEnd r).andThen (State.keeps_snapTrigger _ _ _)).mono (by decide)

/-- Start-up that ends at its limit has waited for it, and nothing else has come about in that time. -/
theorem State.limit_fails (hq : s.quiet = true) (hd : s.clk.dividers = true) (n r : Nat) (l : Option SramLoc) :
    let t := (s.untilLocal n).startFail r l
    n ≤ t.clk.localTime ∧ t.aon.power = .failed ∧ t.boot.phase = 0xFF ∧ t.boot.reason = BitVec.ofNat 8 r ∧ t.dark ∧
      s.keeps t [.aon, .boot, .ports, .clk, .rp, .gln] := by
  intro t
  have hk := (s.untilLocal n).keeps_startFail r l
  obtain ⟨hpower, hphase, hreason, hdark, -⟩ := (s.untilLocal n).startFail_spec r l
  refine ⟨?_, hpower, hphase, hreason, hdark, ((s.keeps_untilLocal n hq).andThen hk).mono (by decide)⟩
  rw [hk.clk, State.untilLocal_max n hq hd]
  exact le_max_right _ _

/-- Settles O12: BIST_DONE by what fails, the limits by `State.limit_fails`. That the last limit runs from the die's own entry into phase 0x07 is
the model's choice (notes/assumptions/98). -/
theorem selfTestFencesOrFails : Obligations.SelfTestFencesOrFails := by
  refine ⟨fun failed s hp h3 => ?_, fun s hp hq hd => ⟨fun loc h3 => ?_, fun h4 hr => ?_, fun h7 => ?_⟩⟩
  · intro bad
    by_cases hfail : failed.any centralMem = true ∨ s.cfg.nSpare < bad.length
    · obtain ⟨l, he⟩ := exec_bistDone_fails failed hp h3 hfail
      refine ⟨_, he, fun _ => s.startFail_spec 3 l, fun hc hn _ => ?_⟩
      rw [hc] at hfail
      exact absurd hn (Nat.not_le.2 (hfail.resolve_left Bool.false_ne_true))
    · rw [not_or, Bool.not_eq_true, Nat.not_lt] at hfail
      obtain ⟨hc, hn⟩ := hfail
      refine ⟨_, exec_bistDone_fences failed hp h3 hc hn, fun h => ?_, fun _ _ hclosed => ?_⟩
      · rw [hc] at h
        exact absurd hn (Nat.not_le.2 (h.resolve_left Bool.false_ne_true))
      · rw [State.startPhase4_closed (by exact hclosed)]
        obtain ⟨hfenced, hkept⟩ := s.cores.bistFence_spec s.cfg.nActive bad
        exact ⟨rfl, hfenced, hkept, (((s.keeps_onCores _).andThen (State.keeps_onBoot _ _)).andThen (State.keeps_onBoot _ _)).mono (by decide)⟩
  · exact ⟨_, if_pos ⟨hp, h3⟩, State.limit_fails hq hd _ _ _⟩
  · exact ⟨_, if_pos ⟨hp, h4, hr⟩, State.limit_fails hq hd _ _ _⟩
  · exact ⟨_, if_pos ⟨hp, h7⟩, State.limit_fails hq hd _ _ _⟩

/-! ## BOOT_GO -/

/-- Does BOOT_GO act: in phase 0x05, or after an image that did not start (R100)? -/
def Boot.accepts (b : Boot) : Prop := b.phase = 5 ∨ (b.phase = 0xFF ∧ (b.reason = 5 ∨ b.reason = 6 ∨ b.reason = 9))

/-- An attempt begins: it is counted, and the image is fetched through the lowest-numbered unfenced core. -/
def State.attempt (s : State) : State :=
  s.onBoot fun b => { b with attempts := min 255 (b.attempts + 1), phase := 6, since := s.clk.localTime, fetchCore := s.cores.lowestUnfenced }

theorem State.bootGo_ignored (h : ¬ s.boot.accepts) : s.bootGo = s := if_neg h

theorem State.bootGo_taken (h : s.boot.accepts) : s.bootGo = if s.attempt.boot.imageRegsOk then s.attempt else s.attempt.startStop 5 := if_pos h

theorem Boot.imageRegsOk_iff (b : Boot) : b.imageRegsOk = true ↔ b.imageAddr.toNat % 512 = 0 ∧ b.imageLen.toNat % 512 = 0 ∧
    4096 ≤ b.imageLen.toNat ∧ b.imageLen.toNat ≤ 524288 := by
  simp [Boot.imageRegsOk, and_assoc]

theorem State.keeps_bootGo (s : State) : s.keeps s.bootGo [.boot] :=
  State.keeps_ite (State.keeps_ite (s.keeps_onBoot _) (((s.keeps_onBoot _).andThen (State.keeps_onBoot _ _)).mono (by decide))) (s.keeps_refl _)

theorem State.writeReg_bootGo (s : State) (data : Word) : s.writeReg 0x98 data = (rspOk, if data.getLsbD 0 then s.bootGo else s) := by
  simp [State.writeReg, regionOf, State.writeStartup]

/-- Settles O14: the write is that of its register; an accepted one begins an attempt, which the image registers may stop. -/
theorem bootGoIsAcceptedInItsPhases : Obligations.BootGoIsAcceptedInItsPhases := by
  intro data s hg accepted a n good
  obtain ⟨he, ha, hk⟩ := State.regWrite_gives hg (s.writeReg_bootGo data) (State.keeps_ite s.keeps_bootGo (s.keeps_refl _)) (by decide)
  refine ⟨_, he, ha, fun h1 hn => ?ignored, fun h1 hacc => ?taken⟩
  case ignored =>
    rw [if_pos h1, State.bootGo_ignored hn]
    exact s.keeps_respond _ _
  case taken =>
    have hgood : s.attempt.boot.imageRegsOk = true ↔ good := Boot.imageRegsOk_iff _
    refine ⟨?_, hk, fun h => ?_, fun h hp => ?_⟩ <;> rw [if_pos h1, State.bootGo_taken hacc]
    · split <;> rfl
    · rw [if_pos (hgood.2 h)]
      exact ⟨rfl, rfl, rfl⟩
    · rw [if_neg fun hok => h (hgood.1 hok)]
      exact ⟨hp, rfl, rfl⟩

/-! ## The image -/

theorem State.keeps_ready (s : State) : s.keeps s.ready [.boot, .mbx, .aon, .coll, .ports, .gln, .free] := by
  unfold State.ready
  extract_lets u c v w
  have hv : u.keeps v [.mbx] := State.keeps_ite (u.keeps_refl _) (u.keeps_post _ _)
  exact ((((((s.keeps_onBoot _).andThen hv).andThen (v.keeps_onBoot _)).andThen (State.keeps_onAon _ _)).andThen
    (State.keeps_identityRefresh _)).andThen (State.keeps_applyIdentities _)).mono (by decide)

theorem State.keeps_endPhase8 (s : State) : s.keeps s.endPhase8 [.boot, .mbx, .aon, .coll, .ports, .gln, .free] :=
  State.keeps_ite s.keeps_ready (s.keeps_refl _)

theorem State.keeps_startPhase8 (s : State) : s.keeps s.startPhase8 [.boot, .mbx, .aon, .coll, .ports, .gln, .free] := by
  unfold State.startPhase8
  extract_lets u v w
  have hv : u.keeps v [.ports, .gln] := State.keeps_foldl _ (fun s p => s.keeps_startTraining p) _ _
  have hw : v.keeps w [.aon, .ports, .gln] := State.keeps_foldl _ (fun s i => s.keeps_releaseBypass i) _ _
  exact ((((s.keeps_onBoot _).andThen hv).andThen hw).andThen w.keeps_endPhase8).mono (by decide)

theorem State.startPhase7_unfederated (h : ¬ s.federated = true) :
    s.startPhase7 = (s.onBoot fun b => { b with phase := 7, since := s.clk.localTime }).startPhase8 := if_neg (by exact h)

theorem State.startPhase7_phase_federated (h : s.federated = true) : s.startPhase7.boot.phase = 7 := by
  unfold State.startPhase7
  rw [if_pos (by exact h)]
  exact (congrArg Boot.phase (State.keeps_foldl _ (fun s p => s.keeps_startTraining p) _ _).boot).trans rfl

/-- What follows the start of Kolate: phase 0x07, or on an unfederated part 0x08 and 0x09 at once. The control core and the scratchpad stand. -/
theorem State.startPhase7_spec (s : State) : s.startPhase7.boot.phase ≠ 6 ∧ s.startPhase7.kol = s.kol ∧ s.startPhase7.sp = s.sp := by
  by_cases h : s.federated = true
  · have hk := State.keeps_startPhase7 h
    exact ⟨by rw [State.startPhase7_phase_federated h]; decide, hk.kol, hk.sp⟩
  · rw [State.startPhase7_unfederated h]
    let u := s.onBoot fun b => { b with phase := 7, since := s.clk.localTime }
    have hk := u.keeps_startPhase8
    refine ⟨fun h6 => ?_, hk.kol, hk.sp⟩
    rcases u.startPhase8_phase with h8 | h9
    · exact absurd (h6.symm.trans h8) (by decide)
    · exact absurd (h6.symm.trans h9) (by decide)

/-- The image stands in the scratchpad when it is checked, with what other clients have put there (R103). -/
def State.imageGiven (s : State) (given : List Host.Cell) : State := { s with sp := s.sp.overlay given }

/-- Kolate starts on an image (R103). -/
def State.kolateStarted (s : State) (image : Bytes) : State :=
  s.onKol fun k => { k with running := true, imem := image, version := Config.kolateVersion image, wdogSince := s.clk.localTime }

theorem exec_imageAuthenticated (given : List Host.Cell) (hp : s.aon.power = .starting) (h6 : s.boot.phase = 6) :
    exec (.imageAuthenticated given) s = .next
      (let u := s.imageGiven given
       if u.unauthenticated ∨ u.boot.authentic u.fetchedImage then (u.kolateStarted u.fetchedImage).startPhase7 else u.startStop 0x06) := by
  show execImageAuthenticated given s = _
  unfold execImageAuthenticated
  rw [if_pos ⟨hp, h6⟩]
  exact (apply_ite Host.Outcome.next ..).symm

theorem State.unauthenticated_iff (s : State) : s.unauthenticated = true ↔ s.boot.debugOpened = true ∨ s.boot.keysProgrammed = false := by
  simp [State.unauthenticated]

/-- Settles O15: the image is that of the scratchpad as it stands, and decides. -/
theorem kolateStartsOnAGoodImageOnly : Obligations.KolateStartsOnAGoodImageOnly := by
  refine ⟨fun given s hp h6 => ?_, fun s hp h6 => ?_⟩
  · intro u image good
    have hgood : (s.imageGiven given).unauthenticated ∨ (s.imageGiven given).boot.authentic (s.imageGiven given).fetchedImage ↔ good := by
      rw [State.unauthenticated_iff, or_assoc]
      exact Iff.rfl
    refine ⟨fun a h => Mem.read_overlay_of_outside given a h s.sp, _, exec_imageAuthenticated given hp h6, ?_⟩
    dsimp only
    by_cases hg : good
    · rw [if_pos (hgood.2 hg)]
      obtain ⟨hphase, hkol, hsp⟩ := ((s.imageGiven given).kolateStarted (s.imageGiven given).fetchedImage).startPhase7_spec
      exact ⟨hsp, fun _ => ⟨by rw [hkol]; rfl, by rw [hkol]; rfl, hphase⟩, fun h => absurd hg h⟩
    · rw [if_neg fun h => hg (hgood.1 h)]
      exact ⟨rfl, fun h => absurd h hg, fun _ => ⟨⟨hp, rfl, rfl⟩, State.keeps_onBoot _ _⟩⟩
  · intro u
    exact ⟨_, if_pos ⟨hp, h6⟩, rfl, rfl, rfl, rfl, ((u.keeps_onKol _).andThen (State.keeps_onBoot _ _)).mono (by decide)⟩

/-! ## Warm reset -/

theorem State.writeReg_warmReset (s : State) (data : Word) :
    s.writeReg 0xA8 data = if field data 0 8 = 0xA5 then (rspOk, s.warmReset) else (rspDenied, s) := by
  simp [State.writeReg, regionOf, State.writeStartup]

/-- Running epochs end before the block is cleared (R97). -/
def State.epochsHalted (s : State) : State := (List.range s.cfg.nSeq).foldl State.haltDomain s

theorem State.keeps_epochsHalted (s : State) : s.keeps s.epochsHalted [.seqs, .coll, .coup, .ports, .cores, .agenda] :=
  State.keeps_foldl _ (fun s d => s.keeps_haltDomain d) _ _

theorem State.warmReset_closed (h : s.aon.debug = .closed) : s.warmReset = s.epochsHalted.warmCleared.onBoot fun b =>
    { b with phase := 4, since := s.epochsHalted.warmCleared.clk.localTime, fuseIndex := 0, secReq := true } := by
  refine State.startPhase4_closed ?_
  show s.epochsHalted.aon.debug = _
  rw [s.keeps_epochsHalted.aon]
  exact h

/-- Settles O16: a value other than 0xA5 is refused; 0xA5 clears the block, as `State.warmCleared` says, and start-up begins with the fuses. -/
theorem warmResetNeedsItsMagicValue : Obligations.WarmResetNeedsItsMagicValue := by
  intro data s hg
  refine ⟨_, s.regWrite_granted 8 0xA8 data hg, ?_⟩
  rw [State.writeReg_warmReset]
  by_cases hm : field data 0 8 = 0xA5
  · rw [if_pos hm]
    refine ⟨fun h => absurd hm h, fun _ hclosed => ?_⟩
    have hu := s.keeps_epochsHalted
    rw [State.warmReset_closed hclosed]
    refine ⟨rfl, rfl, rfl, rfl, rfl, ?_, ?_, ?_, rfl, fun _ => rfl, fun _ => rfl, fun _ => rfl, fun _ => rfl, fun _ => rfl, fun d => ?_,
      fun q => ?_, ?_, hu.clk, hu .tap (by decide)⟩
    · exact (congrArg Aon.fatal hu.aon :)
    · exact (congrArg Aon.debug hu.aon :)
    · exact (congrArg Boot.straps hu.boot :)
    · exact congrArg Domain.live (State.initial_partAt s.epochsHalted.cfg d)
    · exact congrArg Sequencer.run (State.initial_seqAt s.epochsHalted.cfg q)
    · exact fun b => congrArg (Mem.read · b) hu.sp
  · rw [if_neg hm]
    exact ⟨fun _ => ⟨s.respond_answered _ _, s.keeps_respond _ _⟩, fun h => absurd h hm⟩

end Sys2Proof.Machine
end

section
/-! PROOFS. Firmware halts, the watchdog and the window traps (04 R128, R129; 17 R431, R433). -/

namespace Sys2Proof.Machine

variable {s : State}

/-! ## The record -/

/-- The control core has halted at a time of the rack: it holds no request, and FW_FATAL_REC says why and where (R128). -/
structure Kolate.records (k : Kolate) (rack reason : Nat) : Prop where
  halted : k.fwHalted = true
  held : k.held = none
  waiting : k.waiting = []
  cleaning : k.cleaning = none
  why : k.fatalRec.w0 = word (0xFFFF + 0x8F * 2 ^ 16 + reason * 2 ^ 32)
  time : k.fatalRec.w2 = word rack
  pc : k.fatalRec.w1 = k.fwPc
  cause : k.fatalRec.w3 = k.trapCause

/-- The core at the point of its halt: program counter and trap cause are free values. -/
def State.fatalPoint (s : State) : State :=
  s.fresh.2.fresh.2.onKol fun k => { k with fwPc := s.fresh.1, trapCause := s.fresh.2.fresh.1 }

/-- FW_FATAL as a completion, where mailbox 0 has a slot. -/
def State.fatalPosted (s : State) (reason : Nat) : State :=
  if (s.mbxAt 0).inFlight < (s.mbxAt 0).entries then s.onMbx 0 fun b => b.store (s.fatalEntry reason) else s

theorem State.recordFatal_eq (s : State) (reason : Nat) : s.recordFatal reason = (s.fatalPoint.fatalPosted reason).onKol fun k =>
    { k with fatalRec := s.fatalPoint.fatalEntry reason, fwHalted := true, held := none, waiting := [], cleaning := none
             inTrap := k.inTrap || haltsInTrap reason, epochs := k.epochs.map fun x => { x with mute := true } } := rfl

theorem State.keeps_fatalPosted (s : State) (reason : Nat) : s.keeps (s.fatalPosted reason) [.mbx] :=
  State.keeps_ite (s.keeps_onMbx _ _) (s.keeps_refl _)

theorem State.keeps_recordFatal (s : State) (reason : Nat) : s.keeps (s.recordFatal reason) [.free, .kol, .mbx] := by
  have hp : s.keeps s.fatalPoint [.free, .kol] := ((s.keeps_fresh.andThen (State.keeps_fresh _)).andThen (State.keeps_onKol _ _)).mono (by decide)
  rw [State.recordFatal_eq]
  exact ((hp.andThen (State.keeps_fatalPosted _ reason)).andThen (State.keeps_onKol _ _)).mono (by decide)

theorem State.recordFatal_records (s : State) {reason : Nat} (h : reason < 2 ^ 32) :
    (s.recordFatal reason).kol.records s.clk.rackTime reason := by
  have hk : (s.fatalPoint.fatalPosted reason).kol = s.fatalPoint.kol := (State.keeps_fatalPosted _ reason).kol
  have hw : word (0xFFFF + 0x8F * 2 ^ 16 + reason % 2 ^ 32 * 2 ^ 32) = word (0xFFFF + 0x8F * 2 ^ 16 + reason * 2 ^ 32) := by
    rw [Nat.mod_eq_of_lt h]
  rw [State.recordFatal_eq]
  exact ⟨rfl, rfl, rfl, rfl, hw, rfl, (congrArg Kolate.fwPc hk).symm, (congrArg Kolate.trapCause hk).symm⟩

/-! ## The halt -/

theorem Kolate.records.holding {k : Kolate} {rack reason : Nat} (h : k.records rack reason) : k.holding = [] := by
  simp [Kolate.holding, h.held, h.waiting, h.cleaning]

/-- Where Kolate holds no request, none is completed. -/
theorem State.dropQueues_of_idle (h : s.kol.holding = []) : s.dropQueues = { s with
    seqs := s.seqs.map fun q => { q with runq := [] }
    kol := { s.kol with epochs := s.kol.epochs.filter fun e => e.released, stalled := false } } := by
  show s.kol.holding.foldl _ _ = _
  rw [h]
  rfl

theorem State.dropQueues_records {rack reason : Nat} (h : s.kol.records rack reason) : s.dropQueues.kol.records rack reason := by
  rw [State.dropQueues_of_idle h.holding]
  exact ⟨h.halted, h.held, h.waiting, h.cleaning, h.why, h.time, h.pc, h.cause⟩

theorem State.enterHalted_records {rack reason : Nat} (h : s.kol.records rack reason) : s.enterHalted.kol.records rack reason :=
  ⟨h.halted, h.held, h.waiting, h.cleaning, h.why, h.time, h.pc, h.cause⟩

theorem State.dropQueues_runq (s : State) : ∀ q ∈ s.dropQueues.seqs, q.runq = [] := by
  intro q hq
  rw [State.dropQueues_seqs] at hq
  obtain ⟨x, -, rfl⟩ := List.mem_map.1 hq
  rfl

/-- An empty run queue is none that the boundary waits for. -/
theorem State.dropQueues_epochLeft (s : State) : s.dropQueues.epochLeft = s.epochLeft := by
  rw [State.epochLeft, State.dropQueues_seqs, List.any_map]
  rfl

theorem State.takeBoundaryHalt_waits (h : s.epochLeft = true) : s.takeBoundaryHalt = s := if_neg fun hc => by simp [h] at hc

/-- The boundary with FW_FATAL pending, in a block that serves. -/
theorem State.takeBoundaryHalt_fatal (h6 : s.aon.boundaryHalt.getLsbD 6 = true) (h : s.epochLeft = false) (hp : s.aon.power.serves = true) :
    s.takeBoundaryHalt = ((s.latchFatal 7 none).onAon fun a => { a with boundaryHalt := 0 }).enterHalted.dropQueues := by
  have h0 : s.aon.boundaryHalt ≠ 0 := fun h0 => by simp [h0] at h6
  obtain ⟨-, -, -, hpower, -⟩ := s.latchFatal_aon 7 none
  unfold State.takeBoundaryHalt
  rw [if_pos ⟨h0, by rw [h]; rfl⟩, if_pos h6]
  exact if_pos (by show (s.latchFatal 7 none).aon.power.serves = true; rw [hpower]; exact hp)

/-- The block halts at once where no epoch is left; otherwise the halt is pending. No release stays queued (R128, R433). -/
structure State.haltsBlock (s t : State) : Prop where
  now : s.epochLeft = false → t.aon.power = .halted ∧ t.aon.fatal = s.aon.fatal ||| 0x40 ∧ t.aon.alarmPulled = true ∧ t.aon.boundaryHalt = 0
  pending : s.epochLeft = true → t.aon = { s.aon with boundaryHalt := s.aon.boundaryHalt ||| 0x40 }
  queues : ∀ q ∈ t.seqs, q.runq = []

/-- A firmware halt of a block that serves (R128, R433). -/
theorem State.boundaryFatal_spec {rack reason : Nat} (hp : s.aon.power.serves = true) (hr : s.kol.records rack reason) :
    let t := (s.dropQueues.boundaryHaltAt 7).takeBoundaryHalt
    t.kol.records rack reason ∧ s.haltsBlock t ∧ s.keeps t [.aon, .gln, .kol, .mbx, .seqs] := by
  let u := s.dropQueues.boundaryHaltAt 7
  have hu : s.keeps u [.seqs, .kol, .mbx, .aon] := s.keeps_dropQueues.andThen (State.keeps_onAon _ _)
  have haon : u.aon = { s.aon with boundaryHalt := s.aon.boundaryHalt ||| 0x40 } := by
    show ({ s.dropQueues.aon with boundaryHalt := s.dropQueues.aon.boundaryHalt ||| 0x40 } : Aon) = _
    rw [s.keeps_dropQueues.aon]
  have hru : u.kol.records rack reason := State.dropQueues_records hr
  have hleft : u.epochLeft = s.epochLeft := s.dropQueues_epochLeft
  intro t
  by_cases he : s.epochLeft = true
  · have ht : t = u := State.takeBoundaryHalt_waits (hleft.trans he)
    rw [ht]
    exact ⟨hru, ⟨fun h => absurd (he.symm.trans h) (by decide), fun _ => haon, s.dropQueues_runq⟩, hu.mono (by decide)⟩
  · rw [Bool.not_eq_true] at he
    let v := (u.latchFatal 7 none).onAon fun a => { a with boundaryHalt := 0 }
    have hv : u.keeps v [.aon, .gln] := ((u.keeps_latchFatal 7 none).andThen (State.keeps_onAon _ _)).mono (by decide)
    have ht : t = v.enterHalted.dropQueues :=
      State.takeBoundaryHalt_fatal (by rw [haon]; simp) (hleft.trans he) (by rw [haon]; exact hp)
    have hk := (v.keeps_enterHalted.andThen (State.keeps_dropQueues _))
    obtain ⟨hfatal, hpulled, -⟩ := u.latchFatal_aon 7 none
    rw [ht]
    refine ⟨?_, ⟨fun _ => ?_, fun h => absurd (he.symm.trans h) (by decide), State.dropQueues_runq _⟩, ((hu.andThen hv).andThen hk).mono (by decide)⟩
    · refine State.dropQueues_records (State.enterHalted_records ?_)
      rw [hv.kol]
      exact hru
    · rw [(State.keeps_dropQueues _).aon]
      refine ⟨rfl, hfatal.trans ?_, hpulled, rfl⟩
      rw [haon]
      rfl

/-- What follows the record, by the state of the block. -/
theorem State.firmwareHalt_eq (s : State) (reason : Nat) : s.firmwareHalt reason =
    if s.aon.power = .starting then (s.recordFatal reason).startFail 7 none
    else if s.aon.power.serves then ((s.recordFatal reason).dropQueues.boundaryHaltAt 7).takeBoundaryHalt
    else s.recordFatal reason := by
  unfold State.firmwareHalt
  dsimp only
  rw [(s.keeps_recordFatal reason).aon]
  cases s.aon.power <;> rfl

/-- A firmware halt: its record, and by the state of the block the end of start-up or the halt of the block. -/
structure State.firmwareHalted (s t : State) (reason : Nat) : Prop where
  records : t.kol.records t.clk.rackTime reason
  startUp : s.aon.power = .starting → t.aon.power = .failed ∧ t.boot.phase = 0xFF ∧ t.boot.reason = 0x07 ∧ t.dark
  block : s.aon.power.serves = true → s.haltsBlock t
  keeps : s.keeps t [.kol, .mbx, .free, .aon, .gln, .seqs, .boot, .ports]

theorem State.firmwareHalt_spec (s : State) {reason : Nat} (h : reason < 2 ^ 32) : s.firmwareHalted (s.firmwareHalt reason) reason := by
  have hu := s.keeps_recordFatal reason
  have hr := s.recordFatal_records h
  by_cases hs : s.aon.power = .starting
  · obtain ⟨hpower, hphase, hreason, hdark, -⟩ := (s.recordFatal reason).startFail_spec 7 none
    have hk := (s.recordFatal reason).keeps_startFail 7 none
    rw [State.firmwareHalt_eq, if_pos hs]
    refine ⟨?_, fun _ => ⟨hpower, hphase, hreason, hdark⟩, fun hp => ?_, (hu.andThen hk).mono (by decide)⟩
    · rw [hk.kol, hk.clk, hu.clk]
      exact hr
    · rw [hs] at hp
      exact absurd hp (by decide)
  by_cases hp : s.aon.power.serves = true
  · obtain ⟨hrt, ⟨hnow, hpending, hqueues⟩, hk⟩ := State.boundaryFatal_spec (by rw [hu.aon]; exact hp) hr
    have hleft : (s.recordFatal reason).epochLeft = s.epochLeft := by rw [State.epochLeft, hu.seqs]; rfl
    rw [hleft, hu.aon] at hnow hpending
    rw [State.firmwareHalt_eq, if_neg hs, if_pos hp]
    refine ⟨?_, fun h => absurd h hs, fun _ => ⟨hnow, hpending, hqueues⟩, (hu.andThen hk).mono (by decide)⟩
    rw [hk.clk, hu.clk]
    exact hrt
  · rw [State.firmwareHalt_eq, if_neg hs, if_neg hp]
    refine ⟨?_, fun h => absurd h hs, fun h => absurd h hp, hu.mono (by decide)⟩
    rw [hu.clk]
    exact hr

theorem fwHaltCode_lt (reason : FwHalt) : fwHaltCode reason < 2 ^ 32 := by cases reason <;> decide

/-! ## The control core's own events -/

/-- A core that executes has not halted. -/
theorem Kolate.fwHalted_of_executes {k : Kolate} (h : k.executes = true) : k.fwHalted = false := by
  simp only [Kolate.executes, Bool.and_eq_true, Bool.not_eq_true'] at h
  exact h.1.2

theorem exec_watchdog (h : s.kol.executes = true) : exec .watchdog s =
    (let u := s.untilLocal (s.kol.wdogSince + 2000000); whenTrue u.kol.executes u (u.firmwareHalt 5)) := if_pos h

theorem exec_watchdog_stalled (h : s.kol.stalled = true) : exec .watchdog s = .next s := if_neg (by simp [Kolate.executes, h])

/-- The spill area takes one window more (R128). -/
theorem exec_windowOverflowTrap_spills (h : s.kol.executes = true) (ht : s.kol.inTrap = false) (hl : s.kol.spill.length < 32) :
    exec .windowOverflowTrap s = .next (s.fresh.2.onKol fun k => { k with
      spill := k.spill ++ [k.windows.getD ((s.kol.cwp + 1) % 7) []], cwp := (s.kol.cwp + 1) % 7, live := 7, trapCause := s.fresh.1 }) := by
  show execWindowOverflowTrap s = _
  unfold execWindowOverflowTrap
  rw [if_pos h, ht, if_neg Bool.false_ne_true, if_neg (by exact Nat.not_le.2 hl)]

/-- The window that was spilled last is filled again (R128). -/
theorem exec_windowUnderflowTrap_fills (h : s.kol.executes = true) (ht : s.kol.inTrap = false) {w : List Word} (hw : s.kol.spill.getLast? = some w) :
    exec .windowUnderflowTrap s = .next (s.fresh.2.onKol fun k => { k with
      spill := k.spill.dropLast, windows := k.windows.set ((s.kol.cwp + 6) % 7) w
      cwp := (s.kol.cwp + 6) % 7, live := 1, trapCause := s.fresh.1 }) := by
  show execWindowUnderflowTrap s = _
  unfold execWindowUnderflowTrap
  rw [if_pos h, ht, if_neg Bool.false_ne_true, hw]

theorem State.keeps_windowTrap (s : State) (f : Kolate → Kolate) : s.keeps (s.fresh.2.onKol f) [.kol, .free] :=
  (s.keeps_fresh.andThen (State.keeps_onKol _ f)).mono (by decide)

/-- Settles O39: every firmware halt is `State.firmwareHalt_spec`; a trap with room moves one window. -/
theorem firmwareHaltsAreRecorded : Obligations.FirmwareHaltsAreRecorded := by
  unfold Obligations.FirmwareHaltsAreRecorded
  intro halts
  have hhalts : ∀ (s : State) {reason : Nat}, reason < 2 ^ 32 → halts s (s.firmwareHalt reason) reason := by
    intro s reason h
    obtain ⟨⟨hhalted, hheld, hwaiting, hcleaning, hwhy, htime, hpc, hcause⟩, hstart, hblock, hk⟩ := s.firmwareHalt_spec h
    exact ⟨hhalted, hheld, hwaiting, hcleaning, hwhy, htime, hpc, hcause, hstart, fun hp => (hblock hp).now, fun hp => (hblock hp).pending,
      fun hp => (hblock hp).queues, hk⟩
  refine ⟨fun reason s hc => ⟨_, whenTrue_of hc _ _, hhalts s (fwHaltCode_lt reason)⟩, fun s h => ?watchdog,
    fun s h => exec_watchdog_stalled h, fun s h ht => ⟨fun hl => ?overflow, fun hl => ?underflow⟩⟩
  case watchdog =>
    intro u
    by_cases hu : u.kol.executes = true
    · have hk := u.firmwareHalt_spec (reason := 5) (by decide)
      refine ⟨_, (exec_watchdog h).trans (whenTrue_of hu _ _), fun _ => hhalts u (by decide), fun hq hd => ⟨hk.records.halted, ?_⟩⟩
      rw [hk.keeps.clk]
      exact (le_max_right _ _).trans_eq (State.untilLocal_max _ hq hd).symm
    · refine ⟨u, (exec_watchdog h).trans (if_neg hu), fun he => absurd he hu, fun hq _ => absurd ?_ hu⟩
      rw [(s.keeps_untilLocal _ hq).kol]
      exact h
  case overflow =>
    exact ⟨_, exec_windowOverflowTrap_spills h ht hl, List.length_append, Kolate.fwHalted_of_executes h, rfl, s.keeps_windowTrap _⟩
  case underflow =>
    refine ⟨_, exec_windowUnderflowTrap_fills h ht (List.getLast?_eq_some_getLast hl), ?_, Kolate.fwHalted_of_executes h, rfl, s.keeps_windowTrap _⟩
    show s.kol.spill.dropLast.length + 1 = _
    have := List.length_pos_iff.2 hl
    rw [List.length_dropLast]
    omega

end Sys2Proof.Machine
end

section
/-! PROOFS. PORT_BYPASS, MAINT_ENTER and MAINT_LEAVE (04 R119, R123; 07 R214; 15 R369, R379). -/

namespace Sys2Proof.Machine

variable {s : State}

/-! ## What decides a request -/

theorem State.anyEpoch_of_keeps {t : State} {l : List Field} (h : s.keeps t l) (hl : Field.seqs ∉ l := by decide) : t.anyEpoch = s.anyEpoch := by
  rw [State.anyEpoch, h.seqs hl]
  rfl

theorem State.unlocked_of_keeps {t : State} {l : List Field} (h : s.keeps t l) (id : Nat) (hl : Field.win ∉ l := by decide) :
    t.unlocked id = s.unlocked id := by
  rw [State.unlocked, h .win hl]
  rfl

theorem State.portStatus0_congr {t : State} (hp : t.ports = s.ports) (hb : t.boot = s.boot) (p : Nat) : t.portStatus0 p = s.portStatus0 p := by
  unfold State.portStatus0 State.strap
  rw [State.portAt_of_ports hp, hb]

theorem State.complete_portStatus0 (r : Req) (code detail : Nat) (r1 r2 r3 : Word) (p : Nat) :
    (s.complete r code detail r1 r2 r3).portStatus0 p = s.portStatus0 p :=
  State.portStatus0_congr (s.keeps_complete r code detail r1 r2 r3).ports (s.keeps_complete r code detail r1 r2 r3).boot p

/-- A request that is answered with a code and no results changes nothing else. -/
theorem State.served_answered {m op : Nat} (h : s.serves m op = true) (hop : op ≠ 0x13 ∧ op ≠ 0x14) (code : Nat) :
    s.completed ((s.take (s.reqAt m)).answer (s.reqAt m) code) m code 0 0 0 0 ∧
      s.onlyAnswered ((s.take (s.reqAt m)).answer (s.reqAt m) code) m [] :=
  State.served_completed h hop (State.keeps_refl _ _) List.not_mem_nil List.not_mem_nil code 0 0 0 0

theorem pickOp_reqAt {m op : Nat} (h : s.serves m op = true) : pickOp op s (s.reqAt m) = true := by
  obtain ⟨-, -, -, -, hop, -⟩ := (s.serves_iff m op).1 h
  exact beq_iff_eq.2 hop

/-! ## A pair in bypass -/

theorem State.pairBypass_eq (i : Nat) : s.pairBypass i =
    ((s.portOff (s.cfg.pairPorts i).1 .bypass 0).portOff (s.cfg.pairPorts i).2 .bypass 0).assertBypass i := rfl

theorem State.pairBypass_aon (i : Nat) : (s.pairBypass i).aon = { s.aon with bypass := s.aon.bypass.set i true } := by
  have hk := (s.keeps_portOff (s.cfg.pairPorts i).1 .bypass 0).andThen (State.keeps_portOff _ (s.cfg.pairPorts i).2 .bypass 0)
  rw [State.pairBypass_eq, State.assertBypass_aon, hk.aon]

theorem State.portOff_ports_length (p : Nat) (st : PortState) (r : Nat) : (s.portOff p st r).ports.length = s.ports.length := by
  unfold State.portOff
  rw [State.setPort_ports, List.length_modify, State.onPort_ports, List.length_modify]

theorem State.assertBypass_portAt_ne {i p : Nat} (ha : p ≠ (s.cfg.pairPorts i).1) (hb : p ≠ (s.cfg.pairPorts i).2) :
    (s.assertBypass i).portAt p = s.portAt p := by
  show ((s.onPort (s.cfg.pairPorts i).1 _).onPort (s.cfg.pairPorts i).2 _).portAt p = _
  rw [State.onPort_portAt_ne hb.symm, State.onPort_portAt_ne ha.symm]

/-- A port that is in BYPASS and not driven, before and after the output is asserted. -/
theorem State.assertBypass_bypassed {i p : Nat} (h : (s.portAt p).state = .bypass ∧ (s.portAt p).phyEn = false) :
    ((s.assertBypass i).portAt p).state = .bypass ∧ ((s.assertBypass i).portAt p).phyEn = false := by
  obtain ⟨e, r, he⟩ := s.assertBypass_sameButDrive i p
  exact ⟨by rw [he]; exact h.1, State.phyEn_assertBypass _ i p h.2⟩

/-- Both ports of a pair that enters bypass are in BYPASS and not driven; no other port moves (R379). -/
theorem State.pairBypass_ports {i : Nat} (hs : s.ports.length = s.cfg.nPort) (hi : i < s.cfg.nPair) :
    (((s.pairBypass i).portAt (s.cfg.pairPorts i).1).state = .bypass ∧ ((s.pairBypass i).portAt (s.cfg.pairPorts i).1).phyEn = false) ∧
      (((s.pairBypass i).portAt (s.cfg.pairPorts i).2).state = .bypass ∧ ((s.pairBypass i).portAt (s.cfg.pairPorts i).2).phyEn = false) ∧
      ∀ p, p ≠ (s.cfg.pairPorts i).1 → p ≠ (s.cfg.pairPorts i).2 → (s.pairBypass i).portAt p = s.portAt p := by
  obtain ⟨ha, hb⟩ := pairPorts_lt hi
  have hoffA := State.portOff_wentOff (s := s) (p := (s.cfg.pairPorts i).1) (by omega) .bypass 0
  have hoffB := State.portOff_wentOff (s := s.portOff (s.cfg.pairPorts i).1 .bypass 0) (p := (s.cfg.pairPorts i).2)
    (by rw [State.portOff_ports_length]; omega) .bypass 0
  have hcfg := ((s.keeps_portOff (s.cfg.pairPorts i).1 .bypass 0).andThen (State.keeps_portOff _ (s.cfg.pairPorts i).2 .bypass 0)).cfg
  rw [State.pairBypass_eq]
  refine ⟨State.assertBypass_bypassed ?_, State.assertBypass_bypassed ⟨hoffB.state, hoffB.phyEn⟩, fun p hpa hpb => ?_⟩
  · rw [State.portOff_portAt_ne (pairPorts_ne s.cfg i).symm]
    exact ⟨hoffA.state, hoffA.phyEn⟩
  · rw [State.assertBypass_portAt_ne (by rw [hcfg]; exact hpa) (by rw [hcfg]; exact hpb),
      State.portOff_portAt_ne hpb.symm, State.portOff_portAt_ne hpa.symm]

/-- Both ports of a pair that leaves bypass are in training. -/
theorem State.releaseBypass_training {i : Nat} (hs : s.ports.length = s.cfg.nPort) (hi : i < s.cfg.nPair) :
    ((s.releaseBypass i).portAt (s.cfg.pairPorts i).1).state = .training ∧ ((s.releaseBypass i).portAt (s.cfg.pairPorts i).2).state = .training := by
  obtain ⟨ha, hb⟩ := pairPorts_lt hi
  rw [State.releaseBypass_eq]
  refine ⟨?_, (State.awaitSwitch_portAt ?_).1⟩
  · rw [State.awaitSwitch_portAt_ne (pairPorts_ne s.cfg i).symm]
    refine (State.awaitSwitch_portAt ?_).1
    exact lt_of_lt_of_eq ha hs.symm
  · rw [State.awaitSwitch_ports_length]
    exact lt_of_lt_of_eq hb hs.symm

theorem State.pairTraining_iff (i : Nat) : s.pairTraining i = true ↔
    (s.portAt (s.cfg.pairPorts i).1).state = .training ∨ (s.portAt (s.cfg.pairPorts i).2).state = .training := by
  simp [State.pairTraining]

/-! ## PORT_BYPASS -/

/-- The pair's hold, as the last PORT_BYPASS or PAIR_BYPASS left it. -/
def State.withPairHeld (s : State) (i : Nat) (b : Bool) : State := { s with pairHeld := s.pairHeld.set i b }

theorem State.keeps_withPairHeld (i : Nat) (b : Bool) : s.keeps (s.withPairHeld i b) [.pairHeld] := by
  intro f hf; cases f <;> first | rfl | exact absurd (by decide) hf

/-- The release of a pair: its ports train where it was in bypass and both are enabled. -/
def State.pairReleased (s : State) (i : Nat) : State :=
  if (s.withPairHeld i false).aon.bypass.getD i true ∧ (s.withPairHeld i false).pairEnabled i
  then (s.withPairHeld i false).releaseBypass i else s.withPairHeld i false

theorem State.keeps_pairReleased (i : Nat) : s.keeps (s.pairReleased i) [.pairHeld, .aon, .ports, .gln] :=
  State.keeps_ite ((s.keeps_withPairHeld i false).andThen (State.keeps_releaseBypass _ i)) ((s.keeps_withPairHeld i false).mono (by decide))

theorem State.pairReleased_pairHeld (i : Nat) : (s.pairReleased i).pairHeld = s.pairHeld.set i false := by
  unfold State.pairReleased
  split
  · exact (State.keeps_releaseBypass _ i) .pairHeld (by decide)
  · rfl

/-- PORT_BYPASS of a pair that the part has (R379). -/
theorem runPortBypass_eq {r : Req} {i : Nat} (hr : field (r.arg 1) 0 3 = i) (hi : i < s.cfg.nPair) (ha : s.pairAbsent i = false) :
    runPortBypass r s =
      if s.anyEpoch then s.answer r rNotIdle
      else if s.unlocked 9 then s.answer r rExpertHeld
      else if (r.arg 1).getLsbD 8 then ((s.withPairHeld i true).pairBypass i).bypassDone r i
      else if (s.pairReleased i).pairTraining i then s.pairReleased i else (s.pairReleased i).bypassDone r i := by
  subst hr
  unfold runPortBypass
  rw [if_neg (Nat.not_le.2 hi), if_neg (by rw [ha]; decide)]
  rfl

theorem State.bypassDone_eq (r : Req) (i : Nat) : s.bypassDone r i =
    s.complete r rOk 0 (s.portStatus0 (s.cfg.pairPorts i).1) (s.portStatus0 (s.cfg.pairPorts i).2) 0 := rfl

/-! ## Identities and maintenance -/

/-- Between two states the cells of a list were handed to ports; nothing else of the collectives and the links' state changed. -/
def State.sent (s t : State) (l : List TxCell) : Prop := t.coll = { s.coll with tx := s.coll.tx ++ l }

theorem State.sent_of_coll {t : State} (h : t.coll = s.coll) : s.sent t [] := by
  rw [State.sent, h, List.append_nil]

theorem State.sent_send (c : TxCell) : s.sent (s.send c) [c] := rfl

theorem State.sent.trans {t u : State} {l k : List TxCell} (h : s.sent t l) (h' : t.sent u k) : s.sent u (l ++ k) := by
  rw [State.sent, h', h, List.append_assoc]

theorem State.sent_foldl {α : Type} {f : State → α → State} (h : ∀ (s : State) (x : α), ∃ l, s.sent (f s x) l) (xs : List α) :
    ∀ s : State, ∃ l, s.sent (xs.foldl f s) l := by
  induction xs with
  | nil => exact fun s => ⟨[], State.sent_of_coll rfl⟩
  | cons x xs ih =>
    intro s
    obtain ⟨l, hl⟩ := h s x
    obtain ⟨k, hk⟩ := ih (f s x)
    exact ⟨l ++ k, hl.trans hk⟩

theorem State.identityRefresh_sent (s : State) : ∃ l, s.sent s.identityRefresh l :=
  State.sent_foldl (fun s _ => ⟨_, s.sent_send _⟩) _ s

theorem State.sent.coll_eq {t : State} {l : List TxCell} (h : s.sent t l) : t.coll = { s.coll with tx := t.coll.tx } := by
  rw [h]

theorem State.setPort_phyLpbk (p q : Nat) (st : PortState) (r : Nat) : ((s.setPort p st r).portAt q).phyLpbk = (s.portAt q).phyLpbk := by
  rw [State.setPort_portAt]
  split <;> rfl

theorem State.settlePort_phyLpbk (p q : Nat) : ((s.settlePort p).portAt q).phyLpbk = (s.portAt q).phyLpbk := by
  unfold State.settlePort
  split
  · exact State.setPort_phyLpbk ..
  · split
    · rfl
    · exact State.setPort_phyLpbk (s := s.fresh.2) ..

/-- States follow from the identities; a loopback stays as it is. -/
theorem State.applyIdentities_phyLpbk (s : State) (q : Nat) : (s.applyIdentities.portAt q).phyLpbk = (s.portAt q).phyLpbk := by
  have h : ∀ (l : List Nat) (s : State), ((l.foldl State.applyIdentity s).portAt q).phyLpbk = (s.portAt q).phyLpbk := by
    intro l
    induction l with
    | nil => exact fun s => rfl
    | cons p l ih =>
      intro s
      refine (ih _).trans ?_
      unfold State.applyIdentity
      split
      · exact State.settlePort_phyLpbk p q
      · rfl
  exact h _ s

/-- MAINTENANCE is entered: the other ends learn it, and the ports follow (R366, R369). -/
def State.maintEntered (s : State) : State := (s.onAon fun a => { a with power := .maintenance }).identityRefresh.applyIdentities

/-- MAINTENANCE is left: breaks and loopbacks end (R70, R214). -/
def State.maintEnded (s : State) : State :=
  { s with aon := { s.aon with power := .running }
           seqs := s.seqs.map fun (q : Sequencer) => { q with brk := none }
           ports := s.ports.map fun (p : Port) => { p with phyLpbk := false, ctl := masked p.ctl 3 } }

theorem State.keeps_maintEnded : s.keeps s.maintEnded [.aon, .seqs, .ports] := by
  intro f hf; cases f <;> first | rfl | exact absurd (by decide) hf

theorem State.keeps_identities (s : State) : s.keeps s.identityRefresh.applyIdentities [.coll, .ports, .gln, .free] :=
  s.keeps_identityRefresh.andThen (State.keeps_applyIdentities _)

theorem runMaintEnter_eq (r : Req) : runMaintEnter r s =
    if s.anyEpoch then s.answer r rNotIdle else if s.aon.power ≠ .running then s.answer r rWrongState else s.maintEntered.answer r rOk := rfl

theorem runMaintLeave_eq (r : Req) : runMaintLeave r s =
    if s.anyEpoch then s.answer r rNotIdle
    else if s.aon.power ≠ .maintenance ∨ s.boot.debugOpened ∨ s.aon.debug ≠ .closed then s.answer r rWrongState
    else s.maintEnded.identityRefresh.applyIdentities.answer r rOk := rfl

/-! ## The rows -/

section
variable {m i : Nat}

theorem pickBypass_reqAt {enter : Bool} (h : s.serves m 0x21 = true) (hb : (s.argAt m 1).getLsbD 8 = enter) :
    pickBypass enter s (s.reqAt m) = true := by
  obtain ⟨-, -, -, -, hop, -⟩ := (s.serves_iff m 0x21).1 h
  rw [pickBypass, hop, Bool.and_eq_true, beq_iff_eq, beq_iff_eq]
  exact ⟨rfl, hb⟩

/-- PORT_BYPASS of a pair that the part has, as a served mailbox brings it. -/
theorem runPortBypass_served (hi : i < s.cfg.nPair) (ha : s.pairAbsent i = false) (hr : field (s.argAt m 1) 0 3 = i) :
    let r := s.reqAt m
    let u := s.take r
    runPortBypass r u =
      if s.anyEpoch then u.answer r rNotIdle
      else if s.unlocked 9 then u.answer r rExpertHeld
      else if (s.argAt m 1).getLsbD 8 then ((u.withPairHeld i true).pairBypass i).bypassDone r i
      else if (u.pairReleased i).pairTraining i then u.pairReleased i else (u.pairReleased i).bypassDone r i := by
  intro r u
  have hk := s.keeps_take r
  have h := runPortBypass_eq (s := u) (r := r) hr (by rw [hk.cfg]; exact hi) (by rw [State.pairAbsent_congr hk.cfg hk.boot]; exact ha)
  rw [State.anyEpoch_of_keeps hk, State.unlocked_of_keeps hk 9] at h
  exact h

/-- A pair is placed in bypass at once, and the request is answered with the state of its ports. -/
theorem State.bypassEntered_spec (h : s.serves m 0x21 = true) (hi : i < s.cfg.nPair) :
    let r := s.reqAt m
    let a := (s.cfg.pairPorts i).1
    let b := (s.cfg.pairPorts i).2
    let t := (((s.take r).withPairHeld i true).pairBypass i).bypassDone r i
    s.completed t m 0 0 (t.portStatus0 a) (t.portStatus0 b) 0 ∧ s.onlyAnswered t m [.ports, .gln, .aon, .pairHeld] ∧
      t.aon = { s.aon with bypass := s.aon.bypass.set i true } ∧ t.pairHeld = s.pairHeld.set i true ∧
      (t.portAt a).state = .bypass ∧ (t.portAt a).phyEn = false ∧ (t.portAt b).state = .bypass ∧ (t.portAt b).phyEn = false ∧
      ∀ p, p ≠ a → p ≠ b → t.portAt p = s.portAt p := by
  intro r a b t
  obtain ⟨-, hshape, -⟩ := (s.serves_iff m 0x21).1 h
  let u := (s.take r).withPairHeld i true
  let v := u.pairBypass i
  have hv : u.keeps v [.ports, .gln, .aon] := u.keeps_pairBypass i
  have hk : (s.take r).keeps v [.ports, .gln, .aon, .pairHeld] := ((State.keeps_withPairHeld i true).andThen hv).mono (by decide)
  have ht : t = v.complete r 0 0 (v.portStatus0 a) (v.portStatus0 b) 0 := by
    show v.bypassDone r i = _
    rw [State.bypassDone_eq, hv.cfg]
    rfl
  obtain ⟨hcompleted, honly⟩ := State.served_completed h (by decide) hk (by decide) (by decide) 0 0 (v.portStatus0 a) (v.portStatus0 b) 0
  have hc := v.keeps_complete r 0 0 (v.portStatus0 a) (v.portStatus0 b) 0
  have hat (p : Nat) : (v.complete r 0 0 (v.portStatus0 a) (v.portStatus0 b) 0).portAt p = v.portAt p := State.portAt_of_ports hc.ports p
  obtain ⟨⟨hastate, haphy⟩, ⟨hbstate, hbphy⟩, hrest⟩ := State.pairBypass_ports (s := u) (i := i) (s.shaped_ports hshape) hi
  rw [ht]
  refine ⟨?_, honly, ?_, ?_, ?_, ?_, ?_, ?_, fun p hpa hpb => ?_⟩
  · rw [State.complete_portStatus0, State.complete_portStatus0]
    exact hcompleted
  · rw [hc.aon]
    exact State.pairBypass_aon i
  · exact (hc .pairHeld (by decide)).trans (hv .pairHeld (by decide))
  · rw [hat]; exact hastate
  · rw [hat]; exact haphy
  · rw [hat]; exact hbstate
  · rw [hat]; exact hbphy
  · rw [hat]; exact hrest p hpa hpb

/-- A pair that may leave bypass trains, and the request stays held. -/
theorem State.pairReleased_trains (hs : s.ports.length = s.cfg.nPort) (hi : i < s.cfg.nPair) (hb : s.aon.bypass.getD i true = true)
    (he : s.pairEnabled i = true) :
    (s.pairReleased i).pairTraining i = true ∧ (s.pairReleased i).aon = { s.aon with bypass := s.aon.bypass.set i false } ∧
      ((s.pairReleased i).portAt (s.cfg.pairPorts i).1).state = .training ∧
      ((s.pairReleased i).portAt (s.cfg.pairPorts i).2).state = .training := by
  have hr : s.pairReleased i = (s.withPairHeld i false).releaseBypass i := if_pos ⟨hb, he⟩
  obtain ⟨ha, hb'⟩ := State.releaseBypass_training (s := s.withPairHeld i false) (i := i) hs hi
  rw [hr]
  refine ⟨?_, State.releaseBypass_aon i, ha, hb'⟩
  rw [State.pairTraining_iff, (State.keeps_releaseBypass _ i).cfg]
  exact .inl ha

/-- A pair that is out of bypass and does not train is answered at once. -/
theorem State.pairReleased_stays (hb : s.aon.bypass.getD i true = false) : s.pairReleased i = s.withPairHeld i false :=
  if_neg fun h => absurd (hb.symm.trans h.1) (by decide)

/-- MAINT_ENTER in RUNNING without an epoch. -/
theorem State.maintEntered_spec (h : s.serves m 0x22 = true) :
    let t := (s.take (s.reqAt m)).maintEntered.answer (s.reqAt m) rOk
    s.completed t m 0 0 0 0 0 ∧ t.aon = { s.aon with power := .maintenance } ∧ t.coll = { s.coll with tx := t.coll.tx } ∧
      s.onlyAnswered t m [.aon, .coll, .ports, .gln, .free] := by
  intro t
  let u := (s.take (s.reqAt m)).onAon fun a => { a with power := .maintenance }
  have hu : u.keeps u.identityRefresh.applyIdentities [.coll, .ports, .gln, .free] := u.keeps_identities
  have hc := u.identityRefresh.applyIdentities.keeps_complete (s.reqAt m) 0 0 0 0 0
  obtain ⟨hcompleted, honly⟩ := State.served_completed h (by decide) ((State.keeps_onAon _ _).andThen hu) (by decide) (by decide) 0 0 0 0 0
  obtain ⟨l, hl⟩ := u.identityRefresh_sent
  refine ⟨hcompleted, (hc.aon.trans hu.aon).trans rfl, ?_, honly⟩
  have hcoll : t.coll = u.identityRefresh.coll := hc.coll.trans (State.keeps_applyIdentities _).coll
  rw [hcoll]
  exact hl.coll_eq

/-- MAINT_LEAVE in MAINTENANCE without an epoch. -/
theorem State.maintEnded_spec (h : s.serves m 0x23 = true) :
    let t := (s.take (s.reqAt m)).maintEnded.identityRefresh.applyIdentities.answer (s.reqAt m) rOk
    s.completed t m 0 0 0 0 0 ∧ t.aon = { s.aon with power := .running } ∧ (∀ q, t.seqAt q = { s.seqAt q with brk := none }) ∧
      (∀ p ∈ t.ports, p.phyLpbk = false) ∧ s.onlyAnswered t m [.aon, .seqs, .coll, .ports, .gln, .free] := by
  intro t
  let u := (s.take (s.reqAt m)).maintEnded
  have hu : u.keeps u.identityRefresh.applyIdentities [.coll, .ports, .gln, .free] := u.keeps_identities
  have hc := u.identityRefresh.applyIdentities.keeps_complete (s.reqAt m) 0 0 0 0 0
  obtain ⟨hcompleted, honly⟩ := State.served_completed h (by decide) ((State.keeps_maintEnded.andThen hu).mono
    (k := [.aon, .seqs, .coll, .ports, .gln, .free]) (by decide)) (by decide) (by decide) 0 0 0 0 0
  have hlpbk (q : Nat) : (t.portAt q).phyLpbk = false := by
    have ht : t.portAt q = u.identityRefresh.applyIdentities.portAt q := State.portAt_of_ports hc.ports q
    have hr : u.identityRefresh.portAt q = u.portAt q := State.portAt_of_ports u.keeps_identityRefresh.ports q
    rw [ht, State.applyIdentities_phyLpbk, hr]
    exact getD_map_of (p := fun x : Port => x.phyLpbk = false) (fun _ => rfl) rfl _ q
  refine ⟨hcompleted, (hc.aon.trans hu.aon).trans rfl, fun q => ?_, fun x hx => ?_, honly⟩
  · refine (State.seqAt_of_seqs (hc.seqs.trans hu.seqs) q).trans ?_
    exact List.getD_map (d := Sequencer.initial) ..
  · obtain ⟨q, hq, rfl⟩ := List.getElem_of_mem hx
    have := hlpbk q
    rwa [State.portAt, List.getD_eq_getElem _ _ hq] at this

end

/-- Settles O35: each request is a served command, told apart by an epoch that runs, and by the state of its pair or of the block. -/
theorem bypassAndMaintenanceRequests : Obligations.BypassAndMaintenanceRequests := by
  unfold Obligations.BypassAndMaintenanceRequests
  intro m s busy i a b
  have hbusy {op : Nat} (h : s.serves m op = true) (hop : op ≠ 0x13 ∧ op ≠ 0x14) : busy ((s.take (s.reqAt m)).answer (s.reqAt m) 5) :=
    State.served_answered h hop 5
  have htake := s.keeps_take (s.reqAt m)
  refine ⟨fun h hi ha => ⟨fun hb => ?enter, fun hb => ?release⟩, fun h => ?maintEnter, fun h => ?maintLeave⟩
  case enter =>
    refine ⟨_, ronno_served runPortBypass h (pickBypass_reqAt h hb), ?_⟩
    rw [runPortBypass_served hi ha rfl, if_pos (c := (s.argAt m 1).getLsbD 8 = true) hb]
    refine ⟨fun he => ?_, fun he hu => ?_⟩
    · rw [if_pos he]
      exact hbusy h (by decide)
    · rw [if_neg (by rw [he]; decide), if_neg (by rw [hu]; decide)]
      exact State.bypassEntered_spec h hi
  case release =>
    obtain ⟨-, hshape, -⟩ := (s.serves_iff m 0x21).1 h
    refine ⟨_, ronno_served runPortBypass h (pickBypass_reqAt h hb), ?_⟩
    rw [runPortBypass_served hi ha rfl, if_neg (c := (s.argAt m 1).getLsbD 8 = true) (by rw [hb]; decide)]
    refine ⟨fun he => ?_, fun he hu => ?_⟩
    · rw [if_pos he]
      exact hbusy h (by decide)
    rw [if_neg (by rw [he]; decide), if_neg (by rw [hu]; decide)]
    refine ⟨?_, fun hbp hen => ?_, fun hbp htr => ?_⟩
    · split
      · exact State.pairReleased_pairHeld i
      · exact (State.keeps_complete _ _ _ _ _ _ _ .pairHeld (by decide)).trans (State.pairReleased_pairHeld i)
    · obtain ⟨htraining, haon, hta, htb⟩ := State.pairReleased_trains (s := s.take (s.reqAt m)) (s.shaped_ports hshape) hi hbp hen
      rw [if_pos htraining]
      have hr := State.keeps_pairReleased (s := s.take (s.reqAt m)) i
      exact ⟨haon, hta, htb, (congrArg Kolate.held hr.kol :), (htake.andThen hr).mono (by decide)⟩
    · rw [State.pairReleased_stays (by exact hbp), if_neg (by show ¬ s.pairTraining i = true; rw [htr]; decide)]
      exact State.served_completed h (by decide) (State.keeps_withPairHeld i false) (by decide) (by decide) _ _ _ _ _
  case maintEnter =>
    refine ⟨_, ronno_served runMaintEnter h (pickOp_reqAt h), ?_⟩
    rw [runMaintEnter_eq, State.anyEpoch_of_keeps htake, htake.aon]
    refine ⟨fun he => ?_, fun he hp => ?_, fun he hp => ?_⟩
    · rw [if_pos he]
      exact hbusy h (by decide)
    · rw [if_neg (by rw [he]; decide), if_pos hp]
      exact State.served_answered h (by decide) 0x0D
    · rw [if_neg (by rw [he]; decide), if_neg (not_not.2 hp)]
      exact State.maintEntered_spec h
  case maintLeave =>
    refine ⟨_, ronno_served runMaintLeave h (pickOp_reqAt h), ?_⟩
    rw [runMaintLeave_eq, State.anyEpoch_of_keeps htake, htake.aon, htake.boot]
    refine ⟨fun he => ?_, fun he hp => ?_, fun he hp ho hd => ?_⟩
    · rw [if_pos he]
      exact hbusy h (by decide)
    · rw [if_neg (by rw [he]; decide), if_pos hp]
      exact State.served_answered h (by decide) 0x0D
    · rw [if_neg (by rw [he]; decide), if_neg (by simp [hp, ho, hd])]
      exact State.maintEnded_spec h

end Sys2Proof.Machine
end

section
/-! PROOFS. Rows of received link, training and maintenance cells, and what a port hands on (15 R358, R369, R370, R375, R377). -/

namespace Sys2Proof.Machine

variable {s : State}

/-- A reading that no step of a fold changes. -/
theorem State.foldl_reading {α β : Type} (read : State → β) {f : State → α → State} (h : ∀ (s : State) (x : α), read (f s x) = read s)
    (xs : List α) : ∀ s : State, read (xs.foldl f s) = read s := by
  induction xs with
  | nil => exact fun s => rfl
  | cons x xs ih => exact fun s => (ih _).trans (h s x)

/-! ## The rows of received cells -/

section
variable {c : RxCell} {h : CellHdr} {pay : Bytes}

theorem State.openRx_received (hr : s.received c h pay) (t : State) : (t.openRx c).2 = some (h, pay) := by
  obtain ⟨-, b, n, hopen, hparts⟩ := hr
  rw [State.openRx, hopen]
  exact congrArg some hparts

/-- A cell of the row's TYPE acts on the state that `State.afterRx` names. -/
theorem slotRow_received (hr : s.received c h pay) {isType : CellHdr → Bytes → Bool} (ht : isType h pay = true)
    (act : CellHdr → Bytes → State → State) : slotRow c isType act s = .next (act h pay (s.afterRx c)) := by
  have hopen : (s.arrive c.port c.slot).openRx c = (((s.arrive c.port c.slot).openRx c).1, some (h, pay)) :=
    Prod.ext rfl (State.openRx_received hr _)
  unfold slotRow
  rw [if_pos hr.1]
  dsimp only
  rw [hopen]
  exact if_pos ht

/-- On a port whose domain runs no epoch no slot carries a channel. -/
theorem linkRow_received (hr : s.received c h pay) {isType : CellHdr → Bytes → Bool} (ht : isType h pay = true)
    (hchan : (s.afterRx c).chanDom c.port = none) (act : CellHdr → Bytes → State → State) :
    linkRow c isType act s = .next (act h pay (s.afterRx c)) := by
  unfold linkRow
  rw [slotRow_received hr ht, hchan]

theorem State.afterRx_cfg (s : State) (c : RxCell) : (s.afterRx c).cfg = s.cfg := by
  have h : (s.afterRx c).shape = s.shape := by simp [State.afterRx]
  exact congrArg Shape.cfg h

/-- Only a trained port of class O takes its cells through a buffer. -/
theorem cellRow_direct (h : s.buffered c.port = false) (k : CellKind) (direct : Res) : cellRow c k direct s = direct :=
  if_neg (by rw [h]; decide)

theorem State.buffered_of_class {p : Nat} (h : s.cfg.portClass p ≠ 4) : s.buffered p = false := by
  simp [State.buffered, h]

theorem State.slotSeen_ports (p slot : Nat) : (s.slotSeen p slot).ports = s.ports := by
  unfold State.slotSeen
  split
  · split <;> rfl
  · rfl

theorem State.openRx_state (c : RxCell) (p : Nat) : (((s.openRx c).1).portAt p).state = (s.portAt p).state := by
  have hcount (f : Port → Port) (hf : ∀ q, (f q).state = q.state) : ((s.onPort c.port f).portAt p).state = (s.portAt p).state := by
    rw [State.onPort_portAt]
    split
    · exact hf _
    · rfl
  unfold State.openRx
  split
  · dsimp only
    split
    · rfl
    · exact hcount _ fun _ => rfl
  · exact hcount _ fun _ => rfl

theorem State.carries_iff (p : Nat) : s.carries p = true ↔ (s.portAt p).state = .up ∨ (s.portAt p).state = .maintOnly := by
  unfold State.carries Port.trained
  cases (s.portAt p).state <;> simp

/-- On class O a cell is received when it comes, so its port is trained before if it is after. -/
theorem State.buffered_of_untrained (h : (s.afterRx c).carries c.port = false) : s.buffered c.port = false := by
  by_cases hc : s.cfg.portClass c.port = 4
  · have harrive : s.arrive c.port c.slot = s := by simp [State.arrive, State.stamped, hc]
    have hcfg : (s.openRx c).1.cfg = s.cfg := congrArg Shape.cfg (State.shape_openRx s c)
    have hwait : ((s.openRx c).1.recordWait c.port c.wait) = (s.openRx c).1 := by simp [State.recordWait, hcfg, hc]
    have hstate : ((s.afterRx c).portAt c.port).state = (s.portAt c.port).state := by
      rw [State.afterRx, harrive, hwait, State.portAt_of_ports (State.slotSeen_ports _ _), State.openRx_state]
    have hs : s.carries c.port = false := by
      rw [← h, Bool.eq_iff_iff, State.carries_iff, State.carries_iff, hstate]
    simp [State.buffered, hs]
  · exact State.buffered_of_class hc

end

/-- A port that the state lacks reads ABSENT. -/
theorem State.lt_ports_of_state {p : Nat} (h : (s.portAt p).state ≠ .absent) : p < s.ports.length := by
  by_contra hp
  exact h (congrArg Port.state (List.getD_eq_default _ _ (Nat.not_lt.1 hp)))

theorem State.lt_ports_of_carries {p : Nat} (h : s.carries p = true) : p < s.ports.length := by
  refine State.lt_ports_of_state fun ha => ?_
  rw [State.carries_iff, ha] at h
  exact h.elim nofun nofun

/-! ## What a port hands on -/

theorem State.sendMaint_sent (s : State) (p type dst : Nat) (payload : Bytes) : ∃ l, s.sent (s.sendMaint p type dst payload) l := by
  unfold State.sendMaint
  extract_lets q body u
  split
  · exact ⟨_, u.sent_send _⟩
  · exact ⟨[], State.sent_of_coll rfl⟩

/-- A maintenance cell takes the next number of its port; the fields that its port receives under stay. -/
theorem State.sendMaint_ports (p type dst : Nat) (payload : Bytes) : (s.sendMaint p type dst payload).ports =
    s.ports.modify p fun q => { q with mtxSeq := q.mtxSeq + 1, unacked := q.unacked ++
      [(q.mtxSeq, padPayload (BitVec.ofNat 8 type :: leBytes 2 dst ++ payload))] } := by
  unfold State.sendMaint
  extract_lets q body u
  split <;> rfl

theorem State.sendMaint_portAt (p type dst : Nat) (payload : Bytes) (k : Nat) :
    ((s.sendMaint p type dst payload).portAt k).mtxSeq =
        (if p = k ∧ k < s.ports.length then (s.portAt k).mtxSeq + 1 else (s.portAt k).mtxSeq) ∧
      ((s.sendMaint p type dst payload).portAt k).mrxSeq = (s.portAt k).mrxSeq := by
  rw [State.portAt, State.sendMaint_ports, getD_modify]
  split <;> exact ⟨rfl, rfl⟩

/-- The TRAIN_TIME that a port sends (R367). -/
def State.timeCell (s : State) (p : Nat) : TxCell :=
  { port := p, slot := none, hdr := { s.linkHdr 0x09 with seq := (s.portAt p).exchange }
    payload := payloadOf [(0, 8, s.launchTime), (8, 8, ((s.portAt p).lastTRx.getD (0, 0)).1), (16, 8, ((s.portAt p).lastTRx.getD (0, 0)).2),
      (24, 1, s.phi)] }

theorem State.sendTrainTime_sent (s : State) (p : Nat) : s.sent (s.sendTrainTime p) [s.timeCell p] := rfl

theorem State.keeps_sendTrainTime (s : State) (p : Nat) : s.keeps (s.sendTrainTime p) [.ports, .coll] :=
  (s.keeps_onPort _ _).andThen (State.keeps_send _ _)

end Sys2Proof.Machine
end

section
/-! PROOFS. Synchronisation: a SYNC that a port brings, and the target edge (03 R89; 16 R413-R415, R417). -/

namespace Sys2Proof.Machine

variable {s : State}

/-! ## A SYNC goes on -/

/-- What a SYNC leaves of a port's numbers: those it sends under may move, those it receives under not. -/
theorem State.foldl_sendMaint_mtxSeq (payload : State → Bytes) (k : Nat) (l : List Nat) (hl : l.Nodup) : ∀ s : State,
    ((l.foldl (fun s p => s.sendMaint p 0x0C 0xFFFF (payload s)) s).portAt k).mtxSeq =
      if k ∈ l ∧ k < s.ports.length then (s.portAt k).mtxSeq + 1 else (s.portAt k).mtxSeq := by
  induction l with
  | nil => exact fun s => (if_neg fun h => absurd h.1 List.not_mem_nil).symm
  | cons p l ih =>
    intro s
    obtain ⟨hp, hl⟩ := List.nodup_cons.1 hl
    have hlen : (s.sendMaint p 0x0C 0xFFFF (payload s)).ports.length = s.ports.length := by
      rw [State.sendMaint_ports, List.length_modify]
    rw [List.foldl_cons, ih hl, hlen, (State.sendMaint_portAt p _ _ _ k).1]
    by_cases hpk : p = k
    · subst hpk
      simp [hp]
    · simp [hpk, Ne.symm hpk]

/-- The ports on which a SYNC goes on (R413). -/
def State.syncPorts (s : State) : List Nat := (List.range s.cfg.nPort).filter fun p => s.carries p && s.cfg.portClass p != 4

/-- A synchronisation that the chip has learned. -/
def State.syncLearned (s : State) (number target : Nat) : State :=
  s.onColl fun c => { c with syncNum := BitVec.ofNat 16 number, syncSeen := BitVec.ofNat 16 number, syncTarget := some target }

/-- SYNC on a list of ports. -/
def State.syncSent (s : State) (number target : Nat) (l : List Nat) : State :=
  l.foldl (fun s p => s.sendMaint p 0x0C 0xFFFF (s.syncPayload number target)) s

/-- The calibration of UP ports starts anew. -/
def State.recalibrate (s : State) (l : List Nat) : State :=
  l.foldl (fun s p => (s.onPort p fun q => { q with calibRun := 0 }).sendTrainTime p) s

theorem State.spreadSync_eq (number target : Nat) : s.spreadSync number target =
    (let u := (s.syncLearned number target).syncSent number target s.syncPorts
     u.recalibrate (s.syncPorts.filter u.isUp)) := rfl

theorem State.keeps_spreadSync (number target : Nat) : s.keeps (s.spreadSync number target) [.ports, .coll] := by
  rw [State.spreadSync_eq]
  refine (((s.keeps_onColl _).andThen (State.keeps_foldl _ (fun s p => s.keeps_sendMaint p _ _ _) _ _)).andThen
    (State.keeps_foldl (l := [.ports, .coll]) _ (fun s p => ?_) _ _)).mono (by decide)
  exact ((s.keeps_onPort p _).andThen (State.keeps_sendTrainTime _ p)).mono (by decide)

theorem State.spreadSync_sent (number target : Nat) : ∃ l, (s.syncLearned number target).sent (s.spreadSync number target) l := by
  rw [State.spreadSync_eq]
  obtain ⟨l, hl⟩ := State.sent_foldl (fun (s : State) p => s.sendMaint_sent p 0x0C 0xFFFF (s.syncPayload number target)) s.syncPorts
    (s.syncLearned number target)
  obtain ⟨k, hk⟩ := State.sent_foldl (f := fun (s : State) p => (s.onPort p fun q => { q with calibRun := 0 }).sendTrainTime p)
    (fun s p => ⟨_, (s.onPort p fun q => { q with calibRun := 0 }).sendTrainTime_sent p⟩) (s.syncPorts.filter _) _
  exact ⟨l ++ k, hl.trans hk⟩

theorem State.recalibrate_numbers (l : List Nat) (k : Nat) : ((s.recalibrate l).portAt k).mtxSeq = (s.portAt k).mtxSeq ∧
    ((s.recalibrate l).portAt k).mrxSeq = (s.portAt k).mrxSeq := by
  have hstep (read : Port → BitVec 16) (hr : ∀ q e, read { q with exchange := e } = read q) (hc : ∀ q, read { q with calibRun := 0 } = read q) :
      read ((s.recalibrate l).portAt k) = read (s.portAt k) := by
    refine State.foldl_reading (fun s => read (s.portAt k)) (fun s p => ?_) l s
    show read (((s.onPort p _).onPort p _).portAt k) = _
    simp only [State.onPort_portAt]
    split_ifs
    · rw [hr, hc]
    · rw [hr]
    · rw [hc]
    · rfl
  exact ⟨hstep _ (fun _ _ => rfl) fun _ => rfl, hstep _ (fun _ _ => rfl) fun _ => rfl⟩

theorem State.mem_syncPorts (k : Nat) : k ∈ s.syncPorts ↔ k < s.cfg.nPort ∧ s.carries k = true ∧ s.cfg.portClass k ≠ 4 := by
  simp [State.syncPorts]

/-- A SYNC takes the next number on every port on which it goes on, and no number that a port receives under. -/
theorem State.spreadSync_portAt (number target k : Nat) : ((s.spreadSync number target).portAt k).mtxSeq =
      (if k ∈ s.syncPorts then (s.portAt k).mtxSeq + 1 else (s.portAt k).mtxSeq) ∧
    ((s.spreadSync number target).portAt k).mrxSeq = (s.portAt k).mrxSeq := by
  rw [State.spreadSync_eq]
  obtain ⟨hmtx, hmrx⟩ := State.recalibrate_numbers (s := (s.syncLearned number target).syncSent number target s.syncPorts)
    (s.syncPorts.filter ((s.syncLearned number target).syncSent number target s.syncPorts).isUp) k
  refine ⟨hmtx.trans ?_, hmrx.trans ?_⟩
  · refine (State.foldl_sendMaint_mtxSeq (fun s => s.syncPayload number target) k _ (List.nodup_range.filter _) _).trans (if_congr ?_ rfl rfl)
    exact ⟨fun h => h.1, fun h => ⟨h, State.lt_ports_of_carries ((State.mem_syncPorts k).1 h).2.1⟩⟩
  · exact State.foldl_reading (fun s => (s.portAt k).mrxSeq) (fun s p => (State.sendMaint_portAt p _ _ _ k).2) _ _

/-! ## A SYNC that a port brings -/

/-- The number of a SYNC (R413). -/
def syncNumber (pay : Bytes) : BitVec 16 := BitVec.ofNat 16 (payNum pay 8 2)

/-- The target of a SYNC in the chip's own root time. -/
def State.syncTargetAt (s : State) (p : Nat) (pay : Bytes) : Int := (payNum pay 16 8 : Int) + (s.portAt p).clockOffset

/-- How much newer a SYNC is than the last one that was accepted. -/
def State.syncNewer (s : State) (pay : Bytes) : BitVec 16 := syncNumber pay - s.coll.syncNum

/-- A SYNC that comes too late is counted, and its number noted (R414). -/
def State.syncMissed (s : State) (pay : Bytes) : State := s.onColl fun c =>
  { c with syncLate := sat32 c.syncLate
           syncSeen := if (syncNumber pay - s.coll.syncSeen).toNat < 2 ^ 15 then syncNumber pay else c.syncSeen }

theorem State.takeSync_eq {p : Nat} (hc : s.cfg.portClass p ≠ 4) (pay : Bytes) : s.takeSync p pay =
    if s.syncNewer pay = 0 ∨ 2 ^ 15 ≤ (s.syncNewer pay).toNat then s
    else if (s.rootTime : Int) < s.syncTargetAt p pay then s.spreadSync (syncNumber pay).toNat (s.syncTargetAt p pay).toNat
    else (s.syncMissed pay).event 0x0009 p none (syncNumber pay).toNat := by
  unfold State.takeSync
  dsimp only
  simp only [hc, false_or]
  rfl

theorem State.keeps_takeSync {p : Nat} (hc : s.cfg.portClass p ≠ 4) (pay : Bytes) : s.keeps (s.takeSync p pay) [.ports, .coll, .gln] := by
  rw [State.takeSync_eq hc]
  exact State.keeps_ite (s.keeps_refl _) (State.keeps_ite ((State.keeps_spreadSync _ _).mono (by decide))
    (((s.keeps_onColl _).andThen (State.keeps_event _ _ _ _ _)).mono (by decide)))

theorem State.takeSync_mrxSeq {p : Nat} (hc : s.cfg.portClass p ≠ 4) (pay : Bytes) (k : Nat) :
    ((s.takeSync p pay).portAt k).mrxSeq = (s.portAt k).mrxSeq := by
  rw [State.takeSync_eq hc]
  split_ifs
  · rfl
  · exact (State.spreadSync_portAt _ _ k).2
  · rfl

/-- A newer SYNC that lies ahead is accepted and goes on (R414). -/
theorem State.takeSync_ahead {p : Nat} (hc : s.cfg.portClass p ≠ 4) {pay : Bytes} (hn : 0 < (s.syncNewer pay).toNat)
    (hlt : (s.syncNewer pay).toNat < 2 ^ 15) (ht : (s.rootTime : Int) < s.syncTargetAt p pay) :
    let t := s.takeSync p pay
    t.coll.syncNum = syncNumber pay ∧ t.coll.syncSeen = syncNumber pay ∧ t.coll.syncTarget = some (s.syncTargetAt p pay).toNat ∧
      t.coll.syncLate = s.coll.syncLate ∧
      ∀ k, k < s.cfg.nPort → (t.portAt k).mtxSeq =
        if s.carries k = true ∧ s.cfg.portClass k ≠ 4 then (s.portAt k).mtxSeq + 1 else (s.portAt k).mtxSeq := by
  have hnew : ¬ (s.syncNewer pay = 0 ∨ 2 ^ 15 ≤ (s.syncNewer pay).toNat) := by
    rintro (h0 | hle)
    · rw [h0] at hn
      exact absurd hn (by decide)
    · omega
  obtain ⟨l, hl⟩ := State.spreadSync_sent (s := s) (syncNumber pay).toNat (s.syncTargetAt p pay).toNat
  have hnum : BitVec.ofNat 16 (syncNumber pay).toNat = syncNumber pay := BitVec.ofNat_toNat ..
  dsimp only
  rw [State.takeSync_eq hc, if_neg hnew, if_pos ht, hl]
  refine ⟨hnum, hnum, rfl, rfl, fun k hk => (State.spreadSync_portAt _ _ k).1.trans (if_congr ?_ rfl rfl)⟩
  rw [State.mem_syncPorts]
  exact and_iff_right hk

/-- A numbered maintenance cell has been taken (R377). -/
def State.numberTaken (s : State) (p : Nat) : State := s.onPort p fun q => { q with mrxSeq := q.mrxSeq + 1, ackDue := true }

theorem State.numberTaken_portAt (p k : Nat) :
    ((s.numberTaken p).portAt k).state = (s.portAt k).state ∧ ((s.numberTaken p).portAt k).mtxSeq = (s.portAt k).mtxSeq ∧
      ((s.numberTaken p).portAt k).clockOffset = (s.portAt k).clockOffset := by
  rw [State.numberTaken, State.onPort_portAt]
  split <;> exact ⟨rfl, rfl, rfl⟩

theorem State.numberTaken_carries (p k : Nat) : (s.numberTaken p).carries k = s.carries k := by
  rw [Bool.eq_iff_iff, State.carries_iff, State.carries_iff, (State.numberTaken_portAt p k).1]

theorem exec_syncMessage {c : RxCell} {h : CellHdr} {pay : Bytes} (hr : s.received c h pay) (htype : h.type = 0x0C)
    (hcarries : (s.afterRx c).carries c.port = true) (hchan : (s.afterRx c).chanDom c.port = none)
    (hseq : h.seq = ((s.afterRx c).portAt c.port).mrxSeq) (hclass : (s.afterRx c).cfg.portClass c.port ≠ 4)
    (hkind : payByte pay 0 ≠ 2 ∧ payByte pay 0 ≠ 3) :
    exec (.syncMessage c) s = .next (let u := (s.afterRx c).numberTaken c.port; if payByte pay 0 = 1 then u.takeSync c.port pay else u) := by
  have hdirect := cellRow_direct (State.buffered_of_class (by rw [State.afterRx_cfg] at hclass; exact hclass)) .syncMessage (takeSyncMessage c s)
  refine hdirect.trans ((linkRow_received hr ?_ hchan _).trans ?_)
  · simp [htype, hkind]
  · dsimp only
    rw [State.maintIn, if_neg (by rw [hcarries]; decide), if_pos hseq]
    rfl

/-! ## The target edge -/

theorem State.keeps_answerRelease (s : State) (start mbox : Nat) (tag : BitVec 16) : s.keeps (s.answerRelease start mbox tag) [.kol, .mbx] := by
  unfold State.answerRelease
  extract_lets u
  have hu : s.keeps u [.kol] := s.keeps_onKol _
  split
  · exact (hu.andThen (u.keeps_complete _ _ _ _ _ _)).mono (by decide)
  · exact hu.mono (by decide)

theorem State.keeps_postEnds (s : State) : s.keeps s.postEnds [.kol, .mbx, .gln] := by
  unfold State.postEnds
  extract_lets done post ended u
  have hpost (v : State) (e : EpochReq) : v.keeps (post v e) [.mbx, .gln] :=
    State.keeps_ite (v.keeps_refl _) ((((v.keeps_onMbx _ _).andThen (State.keeps_post _ _ _)).andThen (State.keeps_event _ _ _ _ _)).mono (by decide))
  exact ((s.keeps_onKol _).andThen (State.keeps_foldl post hpost _ _)).mono (by decide)

theorem State.keeps_discardRelease (s : State) (start mbox : Nat) (tag : BitVec 16) (which : Nat → Bool) (reason : Nat) :
    s.keeps (s.discardRelease start mbox tag which reason) [.kol, .mbx, .gln] := by
  unfold State.discardRelease
  extract_lets detail u v
  have hv : u.keeps v [.kol, .mbx] := State.keeps_ite (u.keeps_refl _) (u.keeps_answerRelease start mbox tag)
  exact (((s.keeps_onKol _).andThen hv).andThen v.keeps_postEnds).mono (by decide)

/-- No sequencer has a release queued. -/
def State.releasesDropped (s : State) : State :=
  { s with seqs := s.seqs.map fun (q : Sequencer) => { q with runq := q.runq.filter fun y => !y.isRelease } }

theorem State.keeps_releasesDropped : s.keeps s.releasesDropped [.seqs] := by
  intro f hf; cases f <;> first | rfl | exact absurd (by decide) hf

/-- A queued release is discarded at the edge (R415). -/
def State.resyncRelease (s : State) (e : EpochReq) : State := s.discardRelease e.start e.mbox e.tag (fun _ => true) 0x27

theorem State.keeps_resyncRelease (s : State) (e : EpochReq) : s.keeps (s.resyncRelease e) [.kol, .mbx, .gln] :=
  s.keeps_discardRelease e.start e.mbox e.tag (fun _ => true) 0x27

theorem State.discardReleases_eq (s : State) : s.discardReleases =
    (s.kol.epochs.filter fun e => !e.released).foldl State.resyncRelease s.releasesDropped := rfl

/-- Discarded releases leave the run queues; the rest is what Kolate answers. -/
theorem State.keeps_discardReleases (s : State) : s.releasesDropped.keeps s.discardReleases [.kol, .mbx, .gln] := by
  rw [State.discardReleases_eq]
  exact State.keeps_foldl _ State.keeps_resyncRelease _ _

theorem State.keeps_setPad (s : State) (p : Nat) : s.keeps (s.setPad p) [.ports] := State.keeps_ite (s.keeps_refl _) (s.keeps_onPort _ _)

/-- A port at the edge, before it sends. -/
def State.padded (s : State) (p : Nat) : State := (s.setPad p).onPort p fun q =>
  { q with padDue := decide (s.cfg.portClass p ≠ 4), wMin := 0, wMax := 0, wSeen := false, drift := false, calibRun := 0 }

theorem State.keeps_padded (s : State) (p : Nat) : s.keeps (s.padded p) [.ports] := by
  unfold State.padded
  exact ((s.keeps_setPad p).andThen (State.keeps_onPort _ _ _)).mono (by decide)

theorem State.anchorPort_sends (s : State) (p : Nat) : s.anchorPort p = s.padded p ∨ s.anchorPort p = (s.padded p).sendTrainTime p := by
  unfold State.anchorPort
  extract_lets u
  have hu : u = s.padded p := rfl
  rw [hu]
  split
  · exact .inr rfl
  · exact .inl rfl

theorem State.keeps_anchorPort (s : State) (p : Nat) : s.keeps (s.anchorPort p) [.ports, .coll] := by
  rcases s.anchorPort_sends p with h | h <;> rw [h]
  · exact (s.keeps_padded p).mono (by decide)
  · exact ((s.keeps_padded p).andThen (State.keeps_sendTrainTime _ p)).mono (by decide)

theorem State.anchorPort_sent (s : State) (p : Nat) : ∃ l, s.sent (s.anchorPort p) l := by
  have hpad : s.sent (s.padded p) [] := State.sent_of_coll (s.keeps_padded p).coll
  rcases s.anchorPort_sends p with h | h <;> rw [h]
  · exact ⟨_, hpad⟩
  · exact ⟨_, hpad.trans ((s.padded p).sendTrainTime_sent p)⟩

/-! ### The epochs that the edge ends -/

/-- An abort stands where less is left to come. -/
theorem State.aborts.of_less {t u : State} {d reason : Nat} (h : t.aborts d reason) (hd : u.domAt d = t.domAt d)
    (hr : (u.seqAt d).run = (t.seqAt d).run) (ha : ∀ x ∈ u.agenda, x ∈ t.agenda) : u.aborts d reason := by
  obtain ⟨hstate, hreason, hrun, hagenda⟩ := h
  refine ⟨by rw [hd]; exact hstate, by rw [hd]; exact hreason, ?_, fun x hx => ?_⟩
  · rw [hd, hr]
    exact hrun
  · rw [hd]
    exact hagenda x (ha x hx)

/-- An abort leaves the domains and sequencers of other epochs as they are, and brings nothing that was not to come. -/
theorem State.abortEpoch_other {d e : Nat} (hne : e ≠ d) (reason : Nat) : let t := s.abortEpoch e reason none
    t.domAt d = s.domAt d ∧ (t.seqAt d).run = (s.seqAt d).run ∧ ∀ x ∈ t.agenda, x ∈ s.agenda := by
  intro t
  by_cases h : (s.domAt e).state.live = true
  · let u := (s.cutEpoch e).learnAbort e reason none
    have ht : t = ((u.sendAbort e reason (s.abortOrigin none) (s.abortStamp none)).sendCounters e).abortCoupler e :=
      State.abortEpoch_live e reason none h
    have hk := ((State.keeps_sendAbort u e reason (s.abortOrigin none) (s.abortStamp none)).andThen
      (State.keeps_sendCounters _ e)).andThen (State.keeps_abortCoupler _ e)
    rw [ht]
    refine ⟨?_, ?_, fun x hx => ?_⟩
    · refine (State.domAt_of_doms (u := State.abortCoupler _ e) (t := u) ?_ d).trans ?_
      · rw [State.abortCoupler_doms, State.sendCounters_doms, State.sendAbort_doms]
      · show (((s.cutEpoch e).onDom e _).domAt d) = _
        rw [State.onDom_domAt, if_neg fun k => hne k.1, State.cutEpoch, State.onDom_domAt, if_neg fun k => hne k.1]
        rfl
    · rw [State.seqAt_of_seqs hk.seqs]
      exact (State.cutEpoch_run e d).trans (if_neg hne)
    · rw [hk.agenda] at hx
      exact ((State.mem_cutEpoch_agenda e x).1 hx).1
  · have hk := State.keeps_abortEpoch_of_not_live h reason none
    refine ⟨?_, congrArg Sequencer.run (State.seqAt_of_seqs hk.seqs d), fun x hx => by rw [hk.agenda] at hx; exact hx⟩
    show (s.abortEpoch e reason none).domAt d = _
    unfold State.abortEpoch
    dsimp only
    rw [if_neg h]
    split
    · rw [State.onDom_domAt, if_neg fun k => hne k.1]
    · rfl

/-- An abort of a domain without an epoch leaves its state. -/
theorem State.abortEpoch_not_live {d : Nat} (h : ¬ (s.domAt d).state.live = true) (reason : Nat) :
    ((s.abortEpoch d reason none).domAt d).state = (s.domAt d).state := by
  unfold State.abortEpoch
  dsimp only
  rw [if_neg h]
  split
  · rw [State.onDom_domAt]
    split <;> rfl
  · rfl

/-- The epochs of a list of domains abort. -/
def State.abortAll (s : State) (reason : Nat) (l : List Nat) : State := l.foldl (fun s d => s.abortEpoch d reason none) s

theorem State.keeps_abortAll (s : State) (reason : Nat) (l : List Nat) :
    s.keeps (s.abortAll reason l) [.seqs, .coll, .coup, .ports, .cores, .agenda] :=
  State.keeps_foldl _ (fun s d => s.keeps_abortEpoch d reason none) _ _

theorem State.abortEpoch_liveAt {d e : Nat} (hne : e ≠ d) (reason : Nat) (h : s.liveAt d) : (s.abortEpoch e reason none).liveAt d := by
  obtain ⟨hdom, -, -⟩ := State.abortEpoch_other (s := s) hne reason
  have hshape := s.shape_abortEpoch e reason none
  exact ⟨by rw [hdom]; exact h.live, lt_of_lt_of_eq h.seq (congrArg Shape.seqs hshape).symm, lt_of_lt_of_eq h.dom (congrArg Shape.doms hshape).symm⟩

theorem State.abortAll_aborted {d : Nat} (reason : Nat) (l : List Nat) (hl : d ∉ l) : ∀ s : State, s.aborts d reason →
    (s.abortAll reason l).aborts d reason := by
  induction l with
  | nil => exact fun s h => h
  | cons e l ih =>
    rw [List.mem_cons, not_or] at hl
    intro s h
    obtain ⟨hdom, hrun, hagenda⟩ := State.abortEpoch_other (s := s) (Ne.symm hl.1) reason
    exact ih hl.2 _ (h.of_less hdom hrun hagenda)

theorem State.abortAll_aborts {d : Nat} (reason : Nat) (l : List Nat) (hl : l.Nodup) (hd : d ∈ l) : ∀ s : State, s.liveAt d →
    (s.abortAll reason l).aborts d reason := by
  induction l with
  | nil => exact absurd hd List.not_mem_nil
  | cons e l ih =>
    obtain ⟨he, hl⟩ := List.nodup_cons.1 hl
    intro s h
    by_cases hde : d = e
    · subst hde
      exact State.abortAll_aborted reason l he _ (State.aborts_abortEpoch d reason none h)
    · exact ih hl ((List.mem_cons.1 hd).resolve_left hde) _ (State.abortEpoch_liveAt (Ne.symm hde) reason h)

/-- A domain without an epoch stays idle. -/
theorem State.abortAll_idle {d : Nat} (reason : Nat) (l : List Nat) : ∀ s : State, (s.domAt d).state = .idle →
    ((s.abortAll reason l).domAt d).state = .idle := by
  induction l with
  | nil => exact fun s h => h
  | cons e l ih =>
    intro s h
    refine ih _ ?_
    by_cases hed : e = d
    · subst hed
      rw [State.abortEpoch_not_live (by rw [h]; decide)]
      exact h
    · rw [(State.abortEpoch_other (s := s) hed reason).1]
      exact h

/-! ### The edge -/

/-- Rack time restarts (R89). -/
def State.rackRestarted (s : State) : State :=
  let u := s.rebase s.clk.rackTime
  { u with clk := { u.clk with rackTime := 0, anchor := u.clk.localTime, rackSynced := true } }

/-- The domains that the edge meets: those with an epoch, and those that have aborted in its cycle. -/
def State.atEdge (s : State) : List Nat :=
  (List.range s.cfg.nSeq).filter fun d => (s.domAt d).state.live || (s.domAt d).abortTime == s.clk.rackTime

/-- The epochs have aborted with RESYNC, and no target is left. -/
def State.resynced (s : State) : State := (s.rackRestarted.abortAll 0x27 s.atEdge).onColl fun c => { c with syncTarget := none }

/-- The ports anchor their frames. -/
def State.anchored (s : State) : State := (List.range s.cfg.nPort).foldl State.anchorPort s

theorem State.syncEdge_eq (target : Nat) : s.syncEdge target = (s.untilLocal (target / 4)).resynced.anchored.discardReleases := rfl

theorem State.keeps_rackRestarted (s : State) : s.keeps s.rackRestarted [.coup, .coll, .clk] := by
  have hu : s.keeps (s.rebase s.clk.rackTime) [.coup, .coll] := (s.keeps_onCoup _).andThen (State.keeps_onColl _ _)
  have hv : (s.rebase s.clk.rackTime).keeps s.rackRestarted [.clk] := by
    intro f hf; cases f <;> first | rfl | exact absurd (by decide) hf
  exact hu.andThen hv

theorem State.keeps_resynced (s : State) : s.keeps s.resynced [.coup, .coll, .clk, .seqs, .ports, .cores, .agenda] :=
  ((s.keeps_rackRestarted.andThen (State.keeps_abortAll _ _ _)).andThen (State.keeps_onColl _ _)).mono (by decide)

theorem State.keeps_anchored (s : State) : s.keeps s.anchored [.ports, .coll] := State.keeps_foldl _ (fun s p => s.keeps_anchorPort p) _ _

theorem State.rackRestarted_domAt (d : Nat) : (s.rackRestarted.domAt d).state = (s.domAt d).state := by
  show (((s.coll.doms.map _).getD d DomColl.initial)).state = _
  rw [List.getD_eq_getElem?_getD, List.getElem?_map, State.domAt, List.getD_eq_getElem?_getD]
  cases s.coll.doms[d]? <;> rfl

theorem State.resynced_clk : s.resynced.clk = { s.clk with rackTime := 0, anchor := s.clk.localTime, rackSynced := true } :=
  ((State.keeps_abortAll s.rackRestarted 0x27 s.atEdge).clk).trans rfl

/-- A live epoch's domain is met by the edge and has its place in the state. -/
theorem State.rackRestarted_liveAt {d : Nat} (hs : s.shaped = true) (h : (s.domAt d).state.live = true) :
    s.rackRestarted.liveAt d ∧ d ∈ s.atEdge := by
  have hdoms : s.coll.doms.length = s.cfg.nSeq := congrArg Shape.doms (s.shaped_iff.1 hs)
  have hseqs : s.seqs.length = s.cfg.nSeq := congrArg Shape.seqs (s.shaped_iff.1 hs)
  have hd : d < s.coll.doms.length := by
    by_contra hd
    rw [State.domAt, List.getD_eq_default _ _ (Nat.not_lt.1 hd)] at h
    exact absurd h (by decide)
  refine ⟨⟨by rw [State.rackRestarted_domAt]; exact h, lt_of_lt_of_eq hd (hdoms.trans hseqs.symm), ?_⟩, ?_⟩
  · exact lt_of_lt_of_eq hd (List.length_map _).symm
  · exact List.mem_filter.2 ⟨List.mem_range.2 (lt_of_lt_of_eq hd hdoms), by rw [h]; rfl⟩

/-- What follows the aborts leaves what they leave: domains, and the work of runs. -/
theorem State.anchored_rest (s : State) : let t := s.anchored.discardReleases
    t.coll.syncTarget = s.coll.syncTarget ∧ (∀ d, t.domAt d = s.domAt d) ∧ (∀ d, (t.seqAt d).run = (s.seqAt d).run) ∧
      (∀ q ∈ t.seqs, q.runq.any RunEntry.isRelease = false) ∧ s.keeps t [.ports, .coll, .seqs, .kol, .mbx, .gln] := by
  intro t
  obtain ⟨l, hl⟩ := State.sent_foldl State.anchorPort_sent (List.range s.cfg.nPort) s
  have hdrop : s.anchored.keeps s.anchored.releasesDropped [.seqs] := State.keeps_releasesDropped
  have ht : s.anchored.releasesDropped.keeps t [.kol, .mbx, .gln] := s.anchored.keeps_discardReleases
  have hcoll : t.coll = { s.coll with tx := s.coll.tx ++ l } := (ht.coll.trans hdrop.coll).trans hl
  have hseqs : t.seqs = s.seqs.map fun q => { q with runq := q.runq.filter fun y => !y.isRelease } := by
    rw [ht.seqs]
    exact congrArg (List.map _) s.keeps_anchored.seqs
  refine ⟨by rw [hcoll], fun d => State.domAt_of_doms (by rw [hcoll]) d, fun d => ?_, fun q hq => ?_,
    ((s.keeps_anchored.andThen hdrop).andThen ht).mono (by decide)⟩
  · rw [State.seqAt, hseqs, List.getD_eq_getElem?_getD, List.getElem?_map, State.seqAt, List.getD_eq_getElem?_getD]
    cases s.seqs[d]? <;> rfl
  · rw [hseqs] at hq
    obtain ⟨x, -, rfl⟩ := List.mem_map.1 hq
    simp

/-- Settles O55: a SYNC by `State.takeSync_eq`, the edge step by step. That a late SYNC which is newer than any seen sets the number seen, and
that an accepted one goes on on the port that brought it too, are the model's choices (notes/assumptions/85). -/
theorem synchronisationRestartsRackTime : Obligations.SynchronisationRestartsRackTime := by
  refine ⟨fun c h pay s hr => ?sync, fun k s htarget hdiv => ?edge⟩
  case sync =>
    intro u num newer target htype hcarries hchan hseq hclass
    let v := u.numberTaken c.port
    have hv : u.keeps v [.ports] := u.keeps_onPort _ _
    have hmrx : (v.portAt c.port).mrxSeq = h.seq + 1 := by
      rw [hseq]
      show ((u.onPort c.port _).portAt c.port).mrxSeq = _
      rw [State.onPort_portAt, if_pos ⟨rfl, State.lt_ports_of_carries hcarries⟩]
    have htgt : v.syncTargetAt c.port pay = target := congrArg ((payNum pay 16 8 : Int) + ·) (State.numberTaken_portAt c.port c.port).2.2
    refine ⟨fun h1 => ?_, fun h1 => ?_⟩
    · have hk := State.keeps_takeSync (s := v) hclass pay
      refine ⟨v.takeSync c.port pay, ?_, (hv.andThen hk).mono (by decide), (State.takeSync_mrxSeq (s := v) hclass pay _).trans hmrx,
        fun hn hlt ht => ?ahead, fun hn hlt ht => ?late, fun hold => ?old⟩
      · rw [exec_syncMessage hr htype hcarries hchan hseq hclass ⟨by omega, by omega⟩]
        exact congrArg Host.Outcome.next (if_pos h1)
      case ahead =>
        obtain ⟨hnum, hseen, htargets, hlate, hsent⟩ := State.takeSync_ahead (s := v) hclass (pay := pay) hn hlt
          (by rw [htgt, State.rootTime]; push_cast; exact ht)
        refine ⟨hnum, hseen, by rw [← htgt]; exact htargets, hlate, fun k hk => ?_⟩
        rw [hsent k hk, State.numberTaken_carries, (State.numberTaken_portAt c.port k).2.1]
        rfl
      case late =>
        rw [State.takeSync_eq (s := v) hclass, if_neg, if_neg]
        · rfl
        · rw [htgt, State.rootTime]
          push_cast
          exact not_lt.2 ht
        · rintro (h0 | hle)
          · exact absurd (congrArg BitVec.toNat h0) (Nat.pos_iff_ne_zero.1 hn)
          · exact absurd hlt (Nat.not_lt.2 hle)
      case old =>
        rw [State.takeSync_eq (s := v) hclass, if_pos]
        · rfl
        · exact hold.imp_left BitVec.eq_of_toNat_eq
    · rw [exec_syncMessage hr htype hcarries hchan hseq hclass ⟨by omega, by omega⟩]
      exact congrArg Host.Outcome.next (if_neg (by omega))
  case edge =>
    intro u
    refine ⟨fun hq => State.untilLocal_max _ hq hdiv, fun hs => ?_⟩
    have hexec : exec .rackSyncEdge s = .next u.resynced.anchored.discardReleases := by
      show execRackSyncEdge s = _
      unfold execRackSyncEdge
      rw [htarget, ← State.syncEdge_eq]
      exact whenTrue_of hdiv _ _
    obtain ⟨hnone, hdom, hrun, hqueues, hk⟩ := u.resynced.anchored_rest
    refine ⟨_, hexec, hk.clk.trans State.resynced_clk, hnone, fun d hd => ?_, hqueues, fun d hd => ?_,
      (u.keeps_resynced.andThen hk).mono (by decide)⟩
    · obtain ⟨hlive, hmem⟩ := State.rackRestarted_liveAt hs hd
      have h : (u.rackRestarted.abortAll 0x27 u.atEdge).aborts d 0x27 :=
        State.abortAll_aborts 0x27 u.atEdge (List.nodup_range.filter _) hmem _ hlive
      exact State.aborts.of_less (t := u.resynced) h (hdom d) (hrun d) fun x hx => by rwa [hk.agenda] at hx
    · rw [hdom]
      exact State.abortAll_idle 0x27 u.atEdge u.rackRestarted (by rw [State.rackRestarted_domAt]; exact hd)

end Sys2Proof.Machine
end

section
/-! PROOFS. Link training: what a step does to its port and sends on it, the alignment, and the payload of a TRAIN_TIME (15 R363, R367, R369). -/

namespace Sys2Proof.Machine

variable {s : State}

/-! ## What a training step does -/

/-- Cells of these TYPEs, in this order, were sent on a port outside the slots of channels. -/
def State.sentTypes (s t : State) (p : Nat) (ts : List (BitVec 5)) : Prop := ∃ l : List TxCell, s.sent t l ∧
  l.map (fun y => (y.port, y.slot, y.hdr.type)) = ts.map fun k => (p, none, k)

/-- Of all ports one alone moves, to what is given; cells of these TYPEs are sent on it. -/
structure State.trains (s t : State) (p : Nat) (q : Port) (ts : List (BitVec 5)) : Prop where
  keeps : s.keeps t [.ports, .coll]
  others : ∀ k, k ≠ p → t.portAt k = s.portAt k
  port : t.portAt p = q
  count : t.ports.length = s.ports.length
  sent : s.sentTypes t p ts

theorem State.sentTypes.trans {t u : State} {p : Nat} {ts ts' : List (BitVec 5)} (h : s.sentTypes t p ts) (h' : t.sentTypes u p ts') :
    s.sentTypes u p (ts ++ ts') := by
  obtain ⟨l, hl, hm⟩ := h
  obtain ⟨k, hk, hm'⟩ := h'
  exact ⟨l ++ k, hl.trans hk, by rw [List.map_append, List.map_append, hm, hm']⟩

theorem State.trains.trans {t u : State} {p : Nat} {q q' : Port} {ts ts' : List (BitVec 5)} (h : s.trains t p q ts) (h' : t.trains u p q' ts') :
    s.trains u p q' (ts ++ ts') :=
  ⟨h.keeps.trans h'.keeps, fun k hk => (h'.others k hk).trans (h.others k hk), h'.port, h'.count.trans h.count, h.sent.trans h'.sent⟩

theorem State.trains_refl (s : State) (p : Nat) : s.trains s p (s.portAt p) [] :=
  ⟨s.keeps_refl _, fun _ _ => rfl, rfl, rfl, [], State.sent_of_coll rfl, rfl⟩

theorem State.trains_onPort {p : Nat} (hp : p < s.ports.length) (f : Port → Port) : s.trains (s.onPort p f) p (f (s.portAt p)) [] :=
  ⟨(s.keeps_onPort p f).mono (by decide), fun _ hk => State.onPort_portAt_ne hk.symm f, (State.onPort_portAt s p p f).trans (if_pos ⟨rfl, hp⟩),
    List.length_modify .., [], State.sent_of_coll rfl, rfl⟩

theorem State.trains_send (p : Nat) {c : TxCell} (hp : c.port = p) (hs : c.slot = none) : s.trains (s.send c) p (s.portAt p) [c.hdr.type] :=
  ⟨(s.keeps_send c).mono (by decide), fun _ _ => rfl, rfl, rfl, [c], s.sent_send c, by rw [List.map_singleton, hp, hs]; rfl⟩

theorem State.trains_sendTrainId (s : State) (p : Nat) (ack : Bool) : s.trains (s.sendTrainId p ack) p (s.portAt p) [8] :=
  State.trains_send p rfl rfl

theorem State.trains_sendTrainDone (s : State) (p : Nat) : s.trains (s.sendTrainDone p) p (s.portAt p) [10] :=
  State.trains_send p rfl rfl

theorem State.trains_sendTrainTime {p : Nat} (hp : p < s.ports.length) :
    s.trains (s.sendTrainTime p) p { s.portAt p with exchange := (s.portAt p).exchange + 1 } [9] := by
  have hport := State.trains_onPort hp fun q => { q with exchange := q.exchange + 1 }
  have hsend := State.trains_send (s := s.onPort p fun q => { q with exchange := q.exchange + 1 }) (c := s.timeCell p) p rfl rfl
  rw [hport.port] at hsend
  exact hport.trans hsend

theorem State.inStep_iff (p k : Nat) : s.inStep p k = true ↔
    p < s.cfg.nPort ∧ (s.portAt p).state = .training ∧ (s.portAt p).phyEn = true ∧ (s.portAt p).step = k := by
  simp [State.inStep, and_assoc]

theorem State.lt_ports_of_inStep {p k : Nat} (h : s.inStep p k = true) : p < s.ports.length := by
  obtain ⟨-, hstate, -⟩ := (State.inStep_iff p k).1 h
  exact State.lt_ports_of_state (by rw [hstate]; decide)

/-- A port is in one step. -/
theorem State.not_inStep {p j k : Nat} (h : s.inStep p k = true) (hne : j ≠ k) : ¬ s.inStep p j = true := by
  rw [State.inStep_iff] at h ⊢
  exact fun h' => hne (h'.2.2.2.symm.trans h.2.2.2)

theorem State.carries_of_inStep {p k : Nat} (h : s.inStep p k = true) : s.carries p = false := by
  obtain ⟨-, hstate, -⟩ := (State.inStep_iff p k).1 h
  rw [← Bool.not_eq_true, State.carries_iff, hstate]
  exact fun h => h.elim nofun nofun

/-- A port that has moved is in the step that it shows. -/
theorem State.trains.inStep {t : State} {p : Nat} {q : Port} {ts : List (BitVec 5)} (h : s.trains t p q ts) {j k : Nat} (hs : s.inStep p j = true)
    (hstate : q.state = (s.portAt p).state) (hphy : q.phyEn = (s.portAt p).phyEn) (hstep : q.step = k) : t.inStep p k = true := by
  obtain ⟨hlt, htr, hen, -⟩ := (State.inStep_iff p j).1 hs
  rw [State.inStep_iff, h.port, h.keeps.cfg]
  exact ⟨hlt, hstate.trans htr, hphy.trans hen, hstep⟩

theorem State.trains.lt {t : State} {p : Nat} {q : Port} {ts : List (BitVec 5)} (h : s.trains t p q ts) {k : Nat} (hk : k < s.ports.length) :
    k < t.ports.length := by
  rw [h.count]
  exact hk

/-! ## Steps 1 to 4 -/

/-- Eight equal counts below 16 align, and nothing else does (R363). -/
theorem alignCount_eq_some_iff (counts : List Nat) (n : Nat) : alignCount counts = some n ↔ n < 16 ∧ counts = List.replicate 8 n := by
  unfold alignCount
  cases counts with
  | nil => simp
  | cons a l =>
    rw [List.eq_replicate_iff]
    simp only [Option.ite_none_right_eq_some, Option.some.injEq, List.all_eq_true, beq_iff_eq, List.mem_cons, forall_eq_or_imp]
    constructor
    · rintro ⟨⟨hlen, hlt, hall⟩, rfl⟩
      exact ⟨hlt, hlen, rfl, hall⟩
    · rintro ⟨hlt, hlen, rfl, hall⟩
      exact ⟨⟨hlen, hlt, hall⟩, rfl⟩

theorem Port.align_skewed (q : Port) (counts : List Nat) {skew : Nat} (h : 8 < skew) :
    q.align counts skew = { q with alignRun := 0, alignLast := none, failReason := 3 } := if_pos h

theorem Port.align_counted (q : Port) {counts : List Nat} {skew n : Nat} (h : skew ≤ 8) (hn : n < 16) (hc : counts = List.replicate 8 n) :
    let run := if q.alignLast = some ((n + 15) % 16) then q.alignRun + 1 else 1
    q.align counts skew = { q with alignRun := run, alignLast := some n, failReason := 0, step := if 64 ≤ run then 3 else 2 } := by
  unfold Port.align
  rw [if_neg (Nat.not_lt.2 h), (alignCount_eq_some_iff counts n).2 ⟨hn, hc⟩]

theorem Port.align_lost (q : Port) {counts : List Nat} {skew : Nat} (h : skew ≤ 8) (hc : ∀ n, n < 16 → counts ≠ List.replicate 8 n) :
    q.align counts skew = { q with alignRun := 0, alignLast := none, failReason := 0 } := by
  have hnone : alignCount counts = none := by
    cases hcount : alignCount counts with
    | none => rfl
    | some n =>
      obtain ⟨hn, heq⟩ := (alignCount_eq_some_iff counts n).1 hcount
      exact absurd heq (hc n hn)
  unfold Port.align
  rw [if_neg (Nat.not_lt.2 h), hnone]

/-- A good cell in step 3 counts, and the 1,024th ends the step with a TRAIN_ID (R363). -/
theorem State.goodCell_trains {p : Nat} (h : s.inStep p 3 = true) : let q := s.portAt p
    (q.idleRun < 1023 → s.trains (s.goodCell p) p { q with idleRun := q.idleRun + 1 } []) ∧
      (1023 ≤ q.idleRun → s.trains (s.goodCell p) p { q with idleRun := q.idleRun + 1, step := 4 } [8]) := by
  have hp := State.lt_ports_of_inStep h
  intro q
  let u := s.onPort p fun q => { q with idleRun := q.idleRun + 1 }
  have hu : s.trains u p { q with idleRun := q.idleRun + 1 } [] := State.trains_onPort hp _
  have hgood : s.goodCell p = if 1024 ≤ (u.portAt p).idleRun
      then (u.onPort p fun q => { q with step := 4 }).sendTrainId p (u.portAt p).partner.isSome else u := if_pos h
  rw [hu.port] at hgood
  refine ⟨fun hlt => ?_, fun hge => ?_⟩
  · rw [hgood, if_neg (by dsimp only; omega)]
    exact hu
  · rw [hgood, if_pos (by dsimp only; omega)]
    have hstep := State.trains_onPort (hu.lt hp) fun q => { q with step := 4 }
    have hsend := (u.onPort p fun q => { q with step := 4 }).trains_sendTrainId p ({ q with idleRun := q.idleRun + 1 } : Port).partner.isSome
    rw [hstep.port, hu.port] at hsend
    exact (hu.trans hstep).trans hsend

/-- A port with a partner's identity. -/
def Port.keeping (q : Port) (x : PartnerId) : Port :=
  { q with partner := some x, partnerAcked := x.ack, neighPort := x.port.setWidth 6, neighLogical := x.logical }

theorem State.gotTrainId_step4 {p : Nat} (h : s.inStep p 4 = true) (x : PartnerId) : s.gotTrainId p x =
    if x.cls.toNat ≠ s.strap p then s.trainFail p 5
    else
      let u := (s.keepPartner p x).sendTrainId p true
      if x.ack then (u.onPort p fun q => { q with step := 5, calibRun := 0 }).sendTrainTime p else u := by
  have htrained : ¬ (s.portAt p).trained = true := by
    have hc : (s.portAt p).trained = false := State.carries_of_inStep h
    rw [hc]
    decide
  unfold State.gotTrainId
  dsimp only
  rw [if_neg htrained, if_neg (State.not_inStep h (by decide)), if_pos h]

/-- In step 4 the identity of a partner of the port's class is kept and answered; one with ACK begins step 5 (R365). -/
theorem State.gotTrainId_trains {p : Nat} (h : s.inStep p 4 = true) {x : PartnerId} (hx : x.cls.toNat = s.strap p) : let q := s.portAt p
    (x.ack = false → s.trains (s.gotTrainId p x) p (q.keeping x) [8]) ∧
      (x.ack = true → s.trains (s.gotTrainId p x) p { q.keeping x with step := 5, calibRun := 0, exchange := q.exchange + 1 } [8, 9]) := by
  have hp := State.lt_ports_of_inStep h
  intro q
  let u := (s.keepPartner p x).sendTrainId p true
  have hkeep : s.trains (s.keepPartner p x) p (q.keeping x) [] := State.trains_onPort hp _
  have hu : s.trains u p (q.keeping x) [8] := by
    have hsend := (s.keepPartner p x).trains_sendTrainId p true
    rw [hkeep.port] at hsend
    exact hkeep.trans hsend
  rw [State.gotTrainId_step4 h, if_neg (not_not.2 hx)]
  refine ⟨fun ha => ?_, fun ha => ?_⟩
  · rw [if_neg (by rw [ha]; decide)]
    exact hu
  · rw [if_pos ha]
    have hstep := State.trains_onPort (hu.lt hp) fun q => { q with step := 5, calibRun := 0 }
    have htime := State.trains_sendTrainTime (hstep.lt (hu.lt hp))
    rw [hstep.port, hu.port] at htime
    exact (hu.trans hstep).trans htime

/-! ## TRAIN_TIME -/

/-- A number placed behind the bytes that are already there. -/
theorem place_next (o n k m v : Nat) {xs : Bytes} (ho : xs.length = o) (hk : k = n + m) :
    (xs ++ List.replicate k (0 : Byte)).take o ++ leBytes n v ++ (xs ++ List.replicate k (0 : Byte)).drop (o + n) =
      (xs ++ leBytes n v) ++ List.replicate m 0 := by
  subst ho hk
  rw [List.take_left, List.drop_append, List.drop_replicate, Nat.add_sub_cancel_left, Nat.add_sub_cancel_left]
  rw [List.drop_eq_nil_of_le (Nat.le_add_right _ _), List.nil_append]

/-- The payload of a TRAIN_TIME, field by field (R367). -/
theorem timePayload_eq (a b c d : Nat) : payloadOf [(0, 8, a), (8, 8, b), (16, 8, c), (24, 1, d)] =
    [] ++ leBytes 8 a ++ leBytes 8 b ++ leBytes 8 c ++ leBytes 1 d ++ List.replicate 199 0 := by
  unfold payloadOf
  simp only [List.foldl_cons, List.foldl_nil]
  rw [show List.replicate 224 (0 : Byte) = [] ++ List.replicate 224 0 from rfl, place_next 0 8 224 216 a rfl rfl,
    place_next 8 8 216 208 b (by simp) rfl, place_next 16 8 208 200 c (by simp) rfl, place_next 24 1 200 199 d (by simp) rfl]

/-- A number that stands in a payload is read back. -/
theorem payNum_of_split {p xs rest : Bytes} {i n v : Nat} (h : p = xs ++ leBytes n v ++ rest) (hi : xs.length = i) : payNum p i n = v % 256 ^ n := by
  subst hi
  rw [payNum, h, List.append_assoc, List.drop_left, List.take_left' (leBytes_length n v), leNat_leBytes]

theorem payByte_eq_payNum (p : Bytes) (i : Nat) : payByte p i = payNum p i 1 := by
  rw [payByte, payNum, List.take_one, List.head?_drop, List.getD_eq_getElem?_getD]
  cases p[i]? <;> simp [leNat]

theorem payNum_lt (p : Bytes) (i : Nat) : payNum p i 8 < 2 ^ 64 := by
  have hlen : ((p.drop i).take 8).length ≤ 8 := List.length_take_le ..
  exact (leNat_lt _).trans_le (Nat.pow_le_pow_right (by decide : 256 > 0) hlen)

/-- What a TRAIN_TIME carries. -/
theorem timePayload_reads (a b c d : Nat) : let p := payloadOf [(0, 8, a), (8, 8, b), (16, 8, c), (24, 1, d)]
    payNum p 0 8 = a % 2 ^ 64 ∧ payNum p 8 8 = b % 2 ^ 64 ∧ payNum p 16 8 = c % 2 ^ 64 ∧ payByte p 24 = d % 256 := by
  intro p
  have h : p = _ := timePayload_eq a b c d
  refine ⟨?_, ?_, ?_, ?_⟩
  · exact payNum_of_split (xs := []) (rest := leBytes 8 b ++ leBytes 8 c ++ leBytes 1 d ++ List.replicate 199 0) (by rw [h]; simp) rfl
  · exact payNum_of_split (xs := leBytes 8 a) (rest := leBytes 8 c ++ leBytes 1 d ++ List.replicate 199 0) (by rw [h]; simp) (by simp)
  · exact payNum_of_split (xs := leBytes 8 a ++ leBytes 8 b) (rest := leBytes 1 d ++ List.replicate 199 0) (by rw [h]; simp) (by simp)
  · rw [payByte_eq_payNum]
    exact payNum_of_split (xs := leBytes 8 a ++ leBytes 8 b ++ leBytes 8 c) (rest := List.replicate 199 0) (by rw [h]; simp) (by simp)

end Sys2Proof.Machine
end

section
/-! PROOFS. Link training: calibration, the end of training, and the rows (15 R363, R365-R369). -/

namespace Sys2Proof.Machine

variable {s : State}

/-! ## Calibration (R367, R369) -/

/-- The padding that latency and phase ask for (R369). -/
def padFor (c : Cfg) (p l phi : Nat) : Nat := ((4 * (c.portBudget p : Int) + 44 - (l + phi : Nat)) / 5).toNat

/-- A port that is padded anew; class O is not padded. -/
def Port.repadded (q : Port) (c : Cfg) (p : Nat) : Port := if c.portClass p = 4 then q else { q with pad := padFor c p q.lIn q.partnerPhi }

theorem State.trains_setPad {p : Nat} (hp : p < s.ports.length) : s.trains (s.setPad p) p ((s.portAt p).repadded s.cfg p) [] := by
  unfold State.setPad Port.repadded
  split
  · exact s.trains_refl p
  · exact State.trains_onPort hp _

/-- A port that has received a TRAIN_TIME (R367). -/
def Port.timed (q : Port) (tTx tRx phi : Nat) : Port := { q with lastTRx := some (tTx, tRx), partnerPhi := phi }

/-- The state that has received a TRAIN_TIME: the first one after an edge pads the port. -/
def State.timed (s : State) (p tTx tRx phi : Nat) : State :=
  let u := s.onPort p fun q => q.timed tTx tRx phi
  if (u.portAt p).padDue then (u.setPad p).onPort p fun q => { q with padDue := false } else u

/-- A port as a TRAIN_TIME leaves it. -/
def Port.padTimed (q : Port) (c : Cfg) (p tTx tRx phi : Nat) : Port :=
  { q with lastTRx := some (tTx, tRx), partnerPhi := phi, padDue := false
           pad := if q.padDue = true ∧ c.portClass p ≠ 4 then padFor c p q.lIn phi else q.pad }

theorem State.timed_trains {p : Nat} (hp : p < s.ports.length) (tTx tRx phi : Nat) :
    s.trains (s.timed p tTx tRx phi) p ((s.portAt p).padTimed s.cfg p tTx tRx phi) [] := by
  let u := s.onPort p fun q => q.timed tTx tRx phi
  have hu : s.trains u p ((s.portAt p).timed tTx tRx phi) [] := State.trains_onPort hp _
  have htimed : s.timed p tTx tRx phi = if (u.portAt p).padDue then (u.setPad p).onPort p fun q => { q with padDue := false } else u := rfl
  rw [htimed, hu.port, Port.padTimed]
  cases hdue : (s.portAt p).padDue with
  | true =>
    have hpad := State.trains_setPad (hu.lt hp)
    have hset := State.trains_onPort (hpad.lt (hu.lt hp)) fun q => { q with padDue := false }
    rw [hpad.port, hu.port] at hset
    rw [if_pos (by exact hdue)]
    have h := (hu.trans hpad).trans hset
    have hcfg : u.cfg = s.cfg := hu.keeps.cfg
    rw [hcfg, Port.repadded] at h
    by_cases hc : s.cfg.portClass p = 4
    · rw [if_pos hc] at h
      rw [if_neg fun k => k.2 hc]
      exact h
    · rw [if_neg hc] at h
      rw [if_pos ⟨rfl, hc⟩]
      exact h
  | false =>
    rw [if_neg (by show ¬ (s.portAt p).padDue = true; rw [hdue]; decide), if_neg fun k => absurd k.1 (by decide), ← hdue]
    exact hu

/-- The exchanges that a port has counted with the same result. -/
def Port.counted (q : Port) (k : Calib) : Nat := if 0 < q.calibRun ∧ q.calibL = k.lIn.toNat ∧ q.calibLOut = k.lOut.toNat then q.calibRun + 1 else 1

/-- A port that has heard a TRAIN_TIME and answered it. -/
def Port.heard (q : Port) (c : Cfg) (p tTx tRx phi : Nat) : Port :=
  { q with lastTRx := some (tTx, tRx), partnerPhi := phi, exchange := q.exchange + 1, padDue := false
           pad := if q.padDue = true ∧ c.portClass p ≠ 4 then padFor c p q.lIn phi else q.pad }

/-- A port that has counted an exchange. -/
def Port.withCount (q : Port) (k : Calib) (n : Nat) : Port := { q with calibL := k.lIn.toNat, calibLOut := k.lOut.toNat, calibRun := n }

/-- A port that has answered a TRAIN_TIME. -/
def Port.answered (q : Port) : Port := { q with exchange := q.exchange + 1 }

theorem Port.padTimed_answered (q : Port) (c : Cfg) (p tTx tRx phi : Nat) :
    (q.padTimed c p tTx tRx phi).answered = q.heard c p tTx tRx phi := rfl

theorem Port.padTimed_withCount_answered (q : Port) (c : Cfg) (p tTx tRx phi : Nat) (k : Calib) (n : Nat) :
    ((q.padTimed c p tTx tRx phi).withCount k n).answered = (q.heard c p tTx tRx phi).withCount k n := rfl

theorem Port.padTimed_counted (q : Port) (c : Cfg) (p tTx tRx phi : Nat) (k : Calib) :
    (q.padTimed c p tTx tRx phi).counted k = q.counted k := rfl

theorem State.countCalib_trains {p : Nat} (hp : p < s.ports.length) (k : Calib) : s.trains (s.countCalib p k) p
    ((s.portAt p).withCount k ((s.portAt p).counted k)) [] := by
  have hrun : (s.portAt p).counted k =
      if decide (0 < (s.portAt p).calibRun ∧ (s.portAt p).calibL = k.lIn.toNat ∧ (s.portAt p).calibLOut = k.lOut.toNat)
      then (s.portAt p).calibRun + 1 else 1 := by
    simp only [Port.counted, decide_eq_true_eq]
  rw [hrun]
  exact State.trains_onPort hp _

/-- A port that keeps a calibration and goes on to step 6. -/
def Port.calibrated (q : Port) (c : Cfg) (p : Nat) (k : Calib) (ready : Bool) : Port :=
  { ({ q with lIn := k.lIn.toNat, lOut := k.lOut.toNat, clockOffset := k.offset, frameOff := (k.offset / 64 % 5).toNat } : Port).repadded c p with
    step := 6, unchecked := ready }

theorem State.calibrated_trains {p : Nat} (hp : p < s.ports.length) (k : Calib) :
    s.trains (s.calibrated p k) p ((s.portAt p).calibrated s.cfg p k s.boot.ready) [10] := by
  have hkeep : s.trains (s.keepCalib p k) p
    { s.portAt p with lIn := k.lIn.toNat, lOut := k.lOut.toNat, clockOffset := k.offset, frameOff := (k.offset / 64 % 5).toNat } [] :=
    State.trains_onPort hp _
  have hpad := State.trains_setPad (hkeep.lt hp)
  have hstep := State.trains_onPort (hpad.lt (hkeep.lt hp)) fun q => { q with step := 6, unchecked := s.boot.ready }
  have hdone := (((s.keepCalib p k).setPad p).onPort p fun q => { q with step := 6, unchecked := s.boot.ready }).trains_sendTrainDone p
  rw [hstep.port, hpad.port, hkeep.port] at hdone
  exact ((hkeep.trans hpad).trans hstep).trans hdone

/-- A round trip in step 5 that is no fault: counted, and the sixteenth in a row ends the step (R367). -/
theorem State.gotTrip_step5 {p : Nat} (h : s.inStep p 5 = true) {k : Calib} (hk : s.calibFault p k = none) :
    let q := s.portAt p
    let n := q.counted k
    (n ≠ 16 → s.trains (s.gotTrip p k) p (q.withCount k n) []) ∧
      (n = 16 → s.trains (s.gotTrip p k) p ((q.withCount k n).calibrated s.cfg p k s.boot.ready) [10]) := by
  have hp := State.lt_ports_of_inStep h
  intro q n
  have hcount : s.trains (s.countCalib p k) p (q.withCount k n) [] := State.countCalib_trains hp k
  have htrip : s.gotTrip p k = if n = 16
      then (if (s.countCalib p k).inStep p 5 then (s.countCalib p k).calibrated p k else (s.countCalib p k).recalibrated p k)
      else s.countCalib p k := by
    unfold State.gotTrip
    rw [hk]
    dsimp only
    rw [hcount.port]
    rfl
  rw [htrip]
  refine ⟨fun hn => ?_, fun hn => ?_⟩
  · rw [if_neg hn]
    exact hcount
  · obtain ⟨-, -, -, hstep⟩ := (State.inStep_iff p 5).1 h
    rw [if_pos hn, if_pos (hcount.inStep h rfl rfl hstep)]
    have hcal := State.calibrated_trains (hcount.lt hp) k
    rw [hcount.port, hcount.keeps.cfg, hcount.keeps.boot] at hcal
    exact hcount.trans hcal

/-! ## TRAIN_TIME in step 5 -/

/-- What the times of a TRAIN_TIME say of the link (R367, R376). -/
def State.tripOf (s : State) (p tRx : Nat) (pay : Bytes) : Calib :=
  let dOut := (payNum pay 16 8 : Int) - payNum pay 8 8
  let dIn := (tRx : Int) - payNum pay 0 8
  if s.cfg.portClass p = 4 then Calib.ofRound dOut dIn else Calib.ofTrip dOut dIn

/-- A TRAIN_TIME that names an echo is a round trip. -/
def State.tripped (s : State) (p tRx : Nat) (pay : Bytes) : State :=
  if s.calibrates p ∧ (payNum pay 8 8 ≠ 0 ∨ payNum pay 16 8 ≠ 0) then s.gotTrip p (s.tripOf p tRx pay) else s

theorem State.gotTrainTime_eq (p tRx : Nat) (pay : Bytes) : s.gotTrainTime p tRx pay =
    (let u := ((s.untilLocal (tRx / 4)).timed p (payNum pay 0 8) tRx (payByte pay 24)).tripped p tRx pay
     if u.answersTime p then u.sendTrainTime p else u) := rfl

/-- A TRAIN_TIME is answered with the times of the last one received. -/
theorem State.timeCell_reads {p tTx tRx : Nat} (hlast : (s.portAt p).lastTRx = some (tTx, tRx)) : let y := s.timeCell p
    payNum y.payload 0 8 = s.launchTime % 2 ^ 64 ∧ payNum y.payload 8 8 = tTx % 2 ^ 64 ∧ payNum y.payload 16 8 = tRx % 2 ^ 64 ∧
      payByte y.payload 24 = s.phi := by
  intro y
  obtain ⟨h0, h8, h16, h24⟩ := timePayload_reads s.launchTime ((s.portAt p).lastTRx.getD (0, 0)).1 ((s.portAt p).lastTRx.getD (0, 0)).2 s.phi
  rw [hlast] at h0 h8 h16 h24
  have hphi : s.phi < 256 := lt_trans (Nat.mod_lt _ (by decide)) (by decide : 10 < 256)
  have hy : y.payload = payloadOf [(0, 8, s.launchTime), (8, 8, tTx), (16, 8, tRx), (24, 1, s.phi)] := by
    show payloadOf _ = _
    rw [hlast]
    rfl
  rw [hy]
  exact ⟨h0, h8, h16, h24.trans (Nat.mod_eq_of_lt hphi)⟩

/-- Cells of these TYPEs were sent on a port, and the last of them carries the launch time and the two times given (R367). -/
def State.sendsTime (s t : State) (p tTx tRx : Nat) (ts : List (BitVec 5)) : Prop := ∃ l y,
  t.coll = { s.coll with tx := s.coll.tx ++ (l ++ [y]) } ∧
    (l ++ [y]).map (fun y => (y.port, y.slot, y.hdr.type)) = ts.map (fun k => (p, none, k)) ∧
    payNum y.payload 0 8 = s.launchTime % 2 ^ 64 ∧ payNum y.payload 8 8 = tTx ∧ payNum y.payload 16 8 = tRx % 2 ^ 64 ∧ payByte y.payload 24 = s.phi

/-- The answer to a TRAIN_TIME, on a state that has moved from another: the port counts the exchange, and the last cell is the answer. -/
theorem State.trains.answer {t : State} {p tTx tRx : Nat} {q : Port} {ts : List (BitVec 5)} (h : s.trains t p q ts) (hp : p < s.ports.length)
    (hlast : q.lastTRx = some (tTx, tRx)) (htx : tTx < 2 ^ 64) :
    s.trains (t.sendTrainTime p) p q.answered (ts ++ [9]) ∧ s.sendsTime (t.sendTrainTime p) p tTx tRx (ts ++ [9]) := by
  have htime := State.trains_sendTrainTime (h.lt hp)
  rw [h.port] at htime
  obtain ⟨l, hl, hm⟩ := h.sent
  have hreads := State.timeCell_reads (s := t) (p := p) (by rw [h.port]; exact hlast)
  have hclk : t.clk = s.clk := h.keeps.clk
  rw [State.launchTime, State.rootTime, State.phi, hclk, Nat.mod_eq_of_lt htx] at hreads
  exact ⟨h.trans htime, l, t.timeCell p, hl.trans (t.sendTrainTime_sent p), by rw [List.map_append, hm, List.map_append]; rfl, hreads⟩

/-- In steps 5 and 6 a TRAIN_TIME is answered. -/
theorem State.answersTime_of_inStep {p k : Nat} (h : s.inStep p k = true) (hk : k = 5 ∨ k = 6) : s.answersTime p = true := by
  rcases hk with rfl | rfl <;> simp [State.answersTime, h]

/-- What a calibration that is kept gives a port (R367, R369). -/
theorem Port.calibrated_spec (q : Port) (c : Cfg) (p : Nat) (k : Calib) (ready : Bool) : let x := q.calibrated c p k ready
    x.step = 6 ∧ x.lIn = k.lIn.toNat ∧ x.lOut = k.lOut.toNat ∧ (c.portClass p ≠ 4 → x.pad = padFor c p k.lIn.toNat q.partnerPhi) ∧
      x.clockOffset = k.offset ∧ x.unchecked = ready ∧ x.state = q.state ∧ x.phyEn = q.phyEn ∧ x.lastTRx = q.lastTRx := by
  unfold Port.calibrated Port.repadded
  split
  next hc => exact ⟨rfl, rfl, rfl, fun h => absurd hc h, rfl, rfl, rfl, rfl, rfl⟩
  next => exact ⟨rfl, rfl, rfl, fun _ => rfl, rfl, rfl, rfl, rfl, rfl⟩

theorem State.calibFault_of_cfg {t : State} (h : t.cfg = s.cfg) (p : Nat) (k : Calib) : t.calibFault p k = s.calibFault p k := by
  unfold State.calibFault
  rw [h]

section
variable {p tRx : Nat} {pay : Bytes}

/-- A TRAIN_TIME in step 5, once its time has come: what it leaves is heard, then counted where it is a round trip, and answered. -/
theorem State.gotTrainTime_answered {u : State} {q : Port} {ts : List (BitVec 5)} {k : Nat} (h : (s.untilLocal (tRx / 4)).inStep p 5 = true)
    (hu : ((s.untilLocal (tRx / 4)).timed p (payNum pay 0 8) tRx (payByte pay 24)).tripped p tRx pay = u)
    (hq : (s.untilLocal (tRx / 4)).trains u p q ts) (hk : u.inStep p k = true) (hk' : k = 5 ∨ k = 6)
    (hlast : q.lastTRx = some (payNum pay 0 8, tRx)) : let w := s.untilLocal (tRx / 4)
    let t := s.gotTrainTime p tRx pay
    w.trains t p q.answered (ts ++ [9]) ∧ w.sendsTime t p (payNum pay 0 8) tRx (ts ++ [9]) := by
  intro w t
  have ht : t = u.sendTrainTime p := by
    show s.gotTrainTime p tRx pay = _
    rw [State.gotTrainTime_eq, hu]
    exact if_pos (State.answersTime_of_inStep hk hk')
  rw [ht]
  exact hq.answer (State.lt_ports_of_inStep h) hlast (payNum_lt pay 0)

/-- A TRAIN_TIME without an echo is heard and answered. -/
theorem State.gotTrainTime_heard (h : (s.untilLocal (tRx / 4)).inStep p 5 = true) (h8 : payNum pay 8 8 = 0) (h16 : payNum pay 16 8 = 0) :
    let w := s.untilLocal (tRx / 4)
    let t := s.gotTrainTime p tRx pay
    w.trains t p ((w.portAt p).heard w.cfg p (payNum pay 0 8) tRx (payByte pay 24)) [9] ∧ w.sendsTime t p (payNum pay 0 8) tRx [9] := by
  intro w t
  let q := (w.portAt p).padTimed w.cfg p (payNum pay 0 8) tRx (payByte pay 24)
  obtain ⟨-, -, -, hstep⟩ := (State.inStep_iff p 5).1 h
  have hv : w.trains (w.timed p (payNum pay 0 8) tRx (payByte pay 24)) p q [] := State.timed_trains (State.lt_ports_of_inStep h) _ _ _
  have hnone : (w.timed p (payNum pay 0 8) tRx (payByte pay 24)).tripped p tRx pay = w.timed p (payNum pay 0 8) tRx (payByte pay 24) :=
    if_neg fun k => k.2.elim (fun n => n h8) fun n => n h16
  rw [← Port.padTimed_answered]
  exact State.gotTrainTime_answered h hnone hv (hv.inStep h rfl rfl hstep) (.inl rfl) rfl

/-- A TRAIN_TIME with an echo is a round trip: the sixteenth with the same result ends step 5 (R367). -/
theorem State.gotTrainTime_trip (h : (s.untilLocal (tRx / 4)).inStep p 5 = true) (hecho : payNum pay 8 8 ≠ 0 ∨ payNum pay 16 8 ≠ 0)
    (hk : (s.untilLocal (tRx / 4)).calibFault p ((s.untilLocal (tRx / 4)).tripOf p tRx pay) = none) :
    let w := s.untilLocal (tRx / 4)
    let t := s.gotTrainTime p tRx pay
    let k := w.tripOf p tRx pay
    let n := (w.portAt p).counted k
    (n ≠ 16 → w.trains t p (((w.portAt p).heard w.cfg p (payNum pay 0 8) tRx (payByte pay 24)).withCount k n) [9] ∧
        w.sendsTime t p (payNum pay 0 8) tRx [9]) ∧
      (n = 16 → ∃ y, w.trains t p y [10, 9] ∧ w.sendsTime t p (payNum pay 0 8) tRx [10, 9] ∧ y.step = 6 ∧ y.lIn = k.lIn.toNat ∧
        y.lOut = k.lOut.toNat ∧ (w.cfg.portClass p ≠ 4 → y.pad = padFor w.cfg p k.lIn.toNat (payByte pay 24)) ∧ y.clockOffset = k.offset ∧
        y.unchecked = w.boot.ready) := by
  intro w t k n
  let q := (w.portAt p).padTimed w.cfg p (payNum pay 0 8) tRx (payByte pay 24)
  obtain ⟨-, -, -, hstep⟩ := (State.inStep_iff p 5).1 h
  let v := w.timed p (payNum pay 0 8) tRx (payByte pay 24)
  have hv : w.trains v p q [] := State.timed_trains (State.lt_ports_of_inStep h) _ _ _
  have hv5 : v.inStep p 5 = true := hv.inStep h rfl rfl hstep
  have hkv : v.tripOf p tRx pay = k := by
    unfold k State.tripOf
    rw [hv.keeps.cfg]
  have hvk : v.tripped p tRx pay = v.gotTrip p k := by
    rw [← hkv]
    exact if_pos ⟨by simp [State.calibrates, hv5], hecho⟩
  obtain ⟨hcount, hend⟩ := State.gotTrip_step5 hv5 (k := k) (by rw [State.calibFault_of_cfg hv.keeps.cfg]; exact hk)
  rw [hv.port, Port.padTimed_counted, hv.keeps.cfg, hv.keeps.boot] at hend
  rw [hv.port, Port.padTimed_counted] at hcount
  refine ⟨fun hn => ?_, fun hn => ?_⟩
  · have htrip := hv.trans (hcount hn)
    rw [← Port.padTimed_withCount_answered]
    exact State.gotTrainTime_answered h hvk htrip (htrip.inStep h rfl rfl hstep) (.inl rfl) rfl
  · have htrip := hv.trans (hend hn)
    obtain ⟨h6, hin, hout, hpad, hoff, hunch, hstate, hphy, hlast⟩ := (q.withCount k n).calibrated_spec w.cfg p k w.boot.ready
    obtain ⟨ht, hsends⟩ := State.gotTrainTime_answered h hvk htrip (htrip.inStep h hstate hphy h6) (.inr rfl) hlast
    exact ⟨_, ht, hsends, h6, hin, hout, hpad, hoff, hunch⟩

end

/-! ## TRAIN_DONE -/

theorem State.gotTrainDone_step6 {p : Nat} (h : s.inStep p 6 = true) (code : Nat) : s.gotTrainDone p code =
    if code = 3 ∨ code = 4 then
      let u := if code = 3 ∧ (s.upState p).1 = .up then s.onPort p fun q => { q with unchecked := true } else s
      ((u.settlePort p).onPort p fun q => { q with trainedAt := u.clk.localTime, calibRun := 0 }).trainingEnded
    else s.trainFail p 4 := if_pos h

/-- A port that training gives a state. -/
theorem State.settled_spec {p : Nat} (hp : p < s.ports.length) {st : PortState} {r : Nat} (hup : s.upState p = (st, some r)) :
    let v := (s.settlePort p).onPort p fun q => { q with trainedAt := s.clk.localTime, calibRun := 0 }
    s.keeps v [.ports, .gln] ∧ (∀ k, k ≠ p → v.portAt k = s.portAt k) ∧
      v.portAt p = { s.portAt p with state := st, reason := BitVec.ofNat 8 r, trainedAt := s.clk.localTime, calibRun := 0 } := by
  have hsettle : s.settlePort p = s.setPort p st r := by
    unfold State.settlePort
    rw [hup]
  rw [hsettle]
  refine ⟨((s.keeps_setPort p st r).andThen (State.keeps_onPort _ _ _)).mono (by decide), fun k hk => ?_, ?_⟩
  · rw [State.onPort_portAt_ne hk.symm, State.setPort_portAt_ne hk.symm]
  · rw [State.onPort_portAt, if_pos ⟨rfl, by rw [State.setPort_ports, List.length_modify]; exact hp⟩, State.setPort_portAt, if_pos ⟨rfl, hp⟩]

/-- A port that could be UP, but for a wiring check that has not been made, is MAINT_ONLY as UNCHECKED (R366). -/
theorem State.upState_unchecked {p : Nat} (hp : p < s.ports.length) (h : s.upState p = (.up, some 0)) :
    (s.onPort p fun q => { q with unchecked := true }).upState p = (.maintOnly, some 0x12) := by
  have hport : (s.onPort p fun q => { q with unchecked := true }).portAt p = { s.portAt p with unchecked := true } :=
    (State.onPort_portAt s p p _).trans (if_pos ⟨rfl, hp⟩)
  unfold State.upState at h ⊢
  rw [hport]
  dsimp only at h ⊢
  cases hpart : (s.portAt p).partner with
  | none =>
    rw [hpart] at h
    simp at h
  | some x =>
    rw [hpart] at h
    dsimp only at h ⊢
    by_cases hver : (!s.versionsMatch x) = true
    · rw [if_pos hver] at h
      simp at h
    by_cases hsched : (s.noSched || x.noSched) = true
    · rw [if_neg hver, if_pos hsched] at h
      simp at h
    exact (if_neg (by exact hver)).trans ((if_neg (by exact hsched)).trans (if_pos rfl))

/-! ## The rows -/

theorem exec_alignCell {p skew : Nat} (counts : List Nat) (h : s.inStep p 2 = true) :
    exec (.alignCell p counts skew) s = whenTrue (s.receives p) s (s.onPort p fun q => q.align counts skew) := by
  show whenTrue (s.inStep p 2 && s.receives p) s _ = _
  rw [h, Bool.true_and]

section
variable {c : RxCell} {h : CellHdr} {pay : Bytes}

theorem State.chanDom_of_trains {t : State} {p : Nat} {q : Port} {ts : List (BitVec 5)} (h : s.trains t p q ts) (i : Nat) :
    t.chanDom i = s.chanDom i := by
  obtain ⟨l, hl, -⟩ := h.sent
  have hdom (d : Nat) : t.domAt d = s.domAt d := State.domAt_of_doms (by rw [hl]) d
  have hwords (d : Nat) : t.wordsOf d = s.wordsOf d := by rw [State.wordsOf, State.partAt, h.keeps.parts]; rfl
  unfold State.chanDom State.portDomain
  simp only [hdom, hwords, h.keeps.cfg]

theorem exec_idleCell (hr : s.received c h pay) (ht : h.type = 0) (hchan : (s.afterRx c).chanDom c.port = none)
    (h3 : (s.afterRx c).inStep c.port 3 = true) : exec (.idleCell c) s = .next ((s.afterRx c).goodCell c.port) := by
  have hgood : ((s.afterRx c).goodCell c.port).chanDom c.port = none := by
    obtain ⟨hfew, hmany⟩ := State.goodCell_trains h3
    rcases Nat.lt_or_ge ((s.afterRx c).portAt c.port).idleRun 1023 with hlt | hge
    · rw [State.chanDom_of_trains (hfew hlt), hchan]
    · rw [State.chanDom_of_trains (hmany hge), hchan]
  refine (cellRow_direct (State.buffered_of_untrained (State.carries_of_inStep h3)) .idle _).trans ((slotRow_received hr ?_ _).trans ?_)
  · simp [ht]
  · dsimp only
    rw [hgood]

theorem exec_trainId (hr : s.received c h pay) (ht : h.type = 8) (hchan : (s.afterRx c).chanDom c.port = none)
    (hun : (s.afterRx c).carries c.port = false) :
    exec (.trainId c) s = .next ((s.afterRx c).gotTrainId c.port (PartnerId.ofPayload pay)) :=
  (cellRow_direct (State.buffered_of_untrained hun) .trainId _).trans (linkRow_received hr (by simp [ht]) hchan _)

theorem exec_trainTime (hr : s.received c h pay) (ht : h.type = 9) (hchan : (s.afterRx c).chanDom c.port = none) (tRx : Nat) :
    exec (.trainTime c tRx) s = .next ((s.afterRx c).gotTrainTime c.port tRx pay) :=
  linkRow_received (isType := fun h _ => h.type.toNat == 9) hr (by simp [ht]) hchan fun _ pay s => s.gotTrainTime c.port tRx pay

theorem exec_trainDone (hr : s.received c h pay) (ht : h.type = 10) (hchan : (s.afterRx c).chanDom c.port = none) :
    exec (.trainDone c) s = .next ((s.afterRx c).gotTrainDone c.port (payByte pay 0)) :=
  linkRow_received (isType := fun h _ => h.type.toNat == 10) hr (by simp [ht]) hchan fun _ pay s => s.gotTrainDone c.port (payByte pay 0)

end

/-- A port whose training fails is down with the reason (R363). -/
theorem State.trainFail_lost {p k : Nat} (h : s.inStep p k = true) (hv : s.strapValid p = true) (reason : Nat) : let v := s.pairLost p reason
    s.trainFail p reason = v.trainingEnded ∧ (v.portAt p).state = .down ∧ (v.portAt p).reason = BitVec.ofNat 8 reason ∧
      (v.portAt p).phyEn = false ∧ s.keeps v [.ports, .gln, .aon] := by
  obtain ⟨hstate, hreason, hphy, -⟩ := State.pairLost_down (State.lt_ports_of_inStep h) hv reason
  exact ⟨rfl, hstate, hreason, hphy, s.keeps_pairLost p reason⟩

/-- Settles O48: each step is the row's own function on a port that is in the step. That the state in a TRAIN_DONE is the code of PORT_STATUS, and that
a partner which is MAINT_ONLY leaves this end UNCHECKED, are the model's choices (notes/assumptions/52, 55). -/
theorem trainingFollowsItsSteps : Obligations.TrainingFollowsItsSteps := by
  refine ⟨fun p s h => whenTrue_of h _ _, fun p counts skew s h => ⟨fun hrx => ?_, fun hrx => ?_⟩, fun c h pay tRx s hr => ?cells⟩
  · rw [exec_alignCell counts h, hrx]
    rfl
  · intro q
    have ht := State.trains_onPort (State.lt_ports_of_inStep h) fun q => q.align counts skew
    refine ⟨_, (exec_alignCell counts h).trans (whenTrue_of hrx _ _), s.keeps_onPort _ _, ht.others, fun hskew => ?_, fun n hskew hn hc => ?_,
      fun hskew hc => ?_⟩
    · rw [ht.port, Port.align_skewed _ _ hskew]
    · rw [ht.port, Port.align_counted _ hskew hn hc]
    · rw [ht.port, Port.align_lost _ hskew hc]
  case cells =>
    intro u q x kept sent only lost hchan
    have htrained {t : State} {y : Port} {ts : List (BitVec 5)} (h : u.trains t c.port y ts) : t.portAt c.port = y ∧ sent t ts := ⟨h.port, h.sent⟩
    refine ⟨fun ht h3 => ?idle, fun ht h4 => ?id, fun ht => ?time, fun ht h6 => ?done⟩
    case idle =>
      obtain ⟨hfew, hmany⟩ := State.goodCell_trains h3
      have hmoves : ∃ y ts, u.trains (u.goodCell c.port) c.port y ts :=
        (Nat.lt_or_ge q.idleRun 1023).elim (fun hlt => ⟨_, _, hfew hlt⟩) fun hge => ⟨_, _, hmany hge⟩
      obtain ⟨y, ts, hy⟩ := hmoves
      exact ⟨_, exec_idleCell hr ht hchan h3, hy.keeps, hy.others, fun hlt => htrained (hfew hlt), fun hge => htrained (hmany hge)⟩
    case id =>
      have hexec := exec_trainId hr ht hchan (State.carries_of_inStep h4)
      refine ⟨fun hx hv => ?_, fun hx => ?_⟩
      · obtain ⟨hfail, hrest⟩ := State.trainFail_lost h4 hv 5
        refine ⟨_, ?_, hrest⟩
        rw [hexec, State.gotTrainId_step4 h4, if_pos hx, hfail]
      · obtain ⟨hno, hack⟩ := State.gotTrainId_trains h4 (x := x) hx
        have hmoves : ∃ y ts, u.trains (u.gotTrainId c.port x) c.port y ts := by
          cases ha : x.ack with
          | false => exact ⟨_, _, hno ha⟩
          | true => exact ⟨_, _, hack ha⟩
        obtain ⟨y, ts, hy⟩ := hmoves
        exact ⟨_, hexec, hy.keeps, hy.others, fun ha => htrained (hno ha), fun ha => htrained (hack ha)⟩
    case time =>
      intro w h5 z tTx echo rx phi dOut dIn padFor k n heard others sends
      have hexec := exec_trainTime hr ht hchan tRx
      refine ⟨fun h8 h16 => ?_, fun hecho hk => ?_⟩
      · obtain ⟨hh, hsends⟩ := State.gotTrainTime_heard h5 h8 h16
        exact ⟨_, hexec, ⟨hh.keeps, hh.others⟩, hh.port, hsends⟩
      · obtain ⟨hcount, hend⟩ := State.gotTrainTime_trip h5 hecho hk
        have hmoves : ∃ y ts, w.trains (u.gotTrainTime c.port tRx pay) c.port y ts := by
          by_cases hn : n = 16
          · obtain ⟨y, hy, -⟩ := hend hn
            exact ⟨_, _, hy⟩
          · exact ⟨_, _, (hcount hn).1⟩
        obtain ⟨y, ts, hy⟩ := hmoves
        refine ⟨_, hexec, ⟨hy.keeps, hy.others⟩, fun hn => ?_, fun hn => ?_⟩
        · obtain ⟨hc, hsends⟩ := hcount hn
          exact ⟨hc.port, hsends⟩
        · obtain ⟨x, hx, hsends, hstep, hin, hout, hpad, hoff, hunch⟩ := hend hn
          rw [hx.port]
          exact ⟨hstep, hin, hout, hpad, hoff, hunch, hsends⟩
    case done =>
      have hexec := exec_trainDone hr ht hchan
      have hp := State.lt_ports_of_inStep h6
      rw [State.gotTrainDone_step6 h6] at hexec
      refine ⟨fun st r hup hcode => ?_, fun hup hcode => ?_, fun h3 h4 hv => ?_⟩
      · rw [if_pos (hcode.symm.imp_left And.left), if_neg (by
          rw [hup]
          rintro ⟨h3, hst⟩
          exact hcode.elim (fun h4 => by omega) fun k => k.2 hst)] at hexec
        obtain ⟨hk, honly, hport⟩ := State.settled_spec hp hup
        exact ⟨_, hexec, hk, honly, hport⟩
      · rw [if_pos (.inl hcode), if_pos ⟨hcode, by rw [hup]⟩] at hexec
        have hun := State.trains_onPort hp fun q => { q with unchecked := true }
        obtain ⟨hk, honly, hport⟩ := State.settled_spec (hun.lt hp) (State.upState_unchecked hp hup)
        refine ⟨_, hexec, ((u.keeps_onPort _ _).andThen hk).mono (by decide), fun i hi => (honly i hi).trans (hun.others i hi), ?_, ?_⟩
        · rw [hport]
        · rw [hport]
          rfl
      · obtain ⟨hfail, hrest⟩ := State.trainFail_lost h6 hv 4
        rw [if_neg (by rintro (k | k); exacts [h3 k, h4 k]), hfail] at hexec
        exact ⟨_, hexec, hrest⟩

end Sys2Proof.Machine
end

section
/-! PROOFS. The step on a waiting command, and the window traps of the control core (04 R112, R116, R128; 18 R444). -/

namespace Sys2Proof.Machine

/-- Settles O1: a step on a queue that is not empty is its front command on the rest. -/
theorem stepRunsTheFrontCommand : Obligations.StepRunsTheFrontCommand := by
  unfold Obligations.StepRunsTheFrontCommand
  intro c rest s h
  rw [step, h]

variable {s : State}

/-! ## A halt inside a trap -/

theorem State.dropQueues_inTrap (h : s.kol.holding = []) : s.dropQueues.kol.inTrap = s.kol.inTrap := by
  rw [State.dropQueues_of_idle h]

/-- The halt of a block that serves leaves the core in the window in which it stopped. -/
theorem State.boundaryFatal_inTrap {rack reason : Nat} (hp : s.aon.power.serves = true) (hr : s.kol.records rack reason) :
    (s.dropQueues.boundaryHaltAt 7).takeBoundaryHalt.kol.inTrap = s.kol.inTrap := by
  let u := s.dropQueues.boundaryHaltAt 7
  have hu : u.kol.inTrap = s.kol.inTrap := State.dropQueues_inTrap hr.holding
  have haon : u.aon.power = s.aon.power := (congrArg Aon.power s.keeps_dropQueues.aon :)
  by_cases he : u.epochLeft = true
  · exact (congrArg (fun t : State => t.kol.inTrap) (State.takeBoundaryHalt_waits he)).trans hu
  · have hpending : u.aon.boundaryHalt.getLsbD 6 = true := by
      show (s.dropQueues.aon.boundaryHalt ||| 0x40).getLsbD 6 = true
      simp
    let v := (u.latchFatal 7 none).onAon fun a => { a with boundaryHalt := 0 }
    have hv : v.kol = u.kol := (u.keeps_latchFatal 7 none).kol
    have hrecords : v.enterHalted.kol.records rack reason := by
      refine State.enterHalted_records ?_
      rw [hv]
      exact State.dropQueues_records hr
    rw [State.takeBoundaryHalt_fatal hpending (Bool.eq_false_iff.2 he) (by rw [haon]; exact hp), State.dropQueues_inTrap hrecords.holding]
    exact (congrArg Kolate.inTrap hv).trans hu

/-- A halt for one of the reasons of R128 that strike in W7 leaves the core there, whatever the block does. -/
theorem State.firmwareHalt_inTrap (s : State) {reason : Nat} (hlt : reason < 2 ^ 32) (h : haltsInTrap reason = true) :
    (s.firmwareHalt reason).kol.inTrap = true := by
  have hr : (s.recordFatal reason).kol.inTrap = true := by
    rw [State.recordFatal_eq]
    exact (congrArg _ h).trans (Bool.or_true _)
  have hpower := (s.keeps_recordFatal reason).aon
  rw [State.firmwareHalt_eq]
  split
  · rw [(State.keeps_startFail _ 7 none).kol]
    exact hr
  · split
    next hp => exact (State.boundaryFatal_inTrap (by rw [hpower]; exact hp) (s.recordFatal_records hlt)).trans hr
    next => exact hr

theorem exec_windowOverflowTrap_inTrap (h : s.kol.executes = true) (ht : s.kol.inTrap = true) :
    exec .windowOverflowTrap s = .next (s.firmwareHalt 1) := by
  show execWindowOverflowTrap s = _
  unfold execWindowOverflowTrap
  rw [if_pos h, if_pos ht]

/-- The spill area is full (R128). -/
theorem exec_windowOverflowTrap_full (h : s.kol.executes = true) (ht : s.kol.inTrap = false) (hl : 32 ≤ s.kol.spill.length) :
    exec .windowOverflowTrap s = .next (s.firmwareHalt 2) := by
  show execWindowOverflowTrap s = _
  unfold execWindowOverflowTrap
  rw [if_pos h, ht, if_neg Bool.false_ne_true, if_pos (by exact hl)]

theorem exec_windowUnderflowTrap_inTrap (h : s.kol.executes = true) (ht : s.kol.inTrap = true) :
    exec .windowUnderflowTrap s = .next (s.firmwareHalt 1) := by
  show execWindowUnderflowTrap s = _
  unfold execWindowUnderflowTrap
  rw [if_pos h, if_pos ht]

/-- Settles O38: a trap with room moves one window; one without room, or in W7, is a firmware halt with its reason. -/
theorem windowTrapsSpillAndRefill : Obligations.WindowTrapsSpillAndRefill := by
  unfold Obligations.WindowTrapsSpillAndRefill
  intro s h
  have hdouble := s.firmwareHalt_spec (reason := 1) (by decide)
  have hfull := s.firmwareHalt_spec (reason := 2) (by decide)
  refine ⟨fun ht hl => ?spills, fun l w ht hw => ?refills, fun ht hl => ?exhausted, fun ht => ?inTrap⟩
  case spills => exact ⟨_, exec_windowOverflowTrap_spills h ht hl, s.keeps_windowTrap _, rfl⟩
  case refills =>
    refine ⟨_, exec_windowUnderflowTrap_fills h ht (by rw [hw, List.getLast?_concat]), s.keeps_windowTrap _, ?_⟩
    have hdrop : s.kol.spill.dropLast = l := by rw [hw, List.dropLast_concat]
    show ({ s.kol with spill := s.kol.spill.dropLast, windows := _, cwp := _, live := _, trapCause := _ } : Kolate) = _
    rw [hdrop]
    rfl
  case exhausted =>
    exact ⟨_, exec_windowOverflowTrap_full h ht hl, hfull.records.halted, s.firmwareHalt_inTrap (by decide) rfl, hfull.records.why⟩
  case inTrap =>
    exact ⟨⟨_, exec_windowOverflowTrap_inTrap h ht, hdouble.records.halted, hdouble.records.why⟩,
      _, exec_windowUnderflowTrap_inTrap h ht, hdouble.records.halted, hdouble.records.why⟩

end Sys2Proof.Machine
end

section
/-! PROOFS. Every request that Kolate takes: its mailbox, and its completion whatever its command has left. ECHO, STATUS, MBX_CONFIG and opcodes
that the table does not list (04 R111-R119). -/

namespace Sys2Proof.Machine

variable {s : State} {m : Nat}

/-! ## Taking and completing (R112-R117) -/

/-- Mailbox m offers the request that Kolate takes next: both work, and nothing is held. -/
structure State.offers (s : State) (m : Nat) : Prop where
  lt : m < s.mbx.length
  mem : (s.mbxAt m).mem.wf = true
  overrun : (s.mbxAt m).overrun = false
  resetBusy : (s.mbxAt m).resetBusy = false
  works : s.kol.works = true
  held : s.kol.held = none
  cleaning : s.kol.cleaning = none
  waiting : ∀ r ∈ s.kol.waiting, r.mbox ≠ m

theorem State.memWf_mbxAt (h : s.memWf = true) (hm : m < s.mbx.length) : (s.mbxAt m).mem.wf = true := by
  simp only [State.memWf, Bool.and_eq_true, List.all_eq_true] at h
  refine h.2 _ ?_
  rw [State.mbxAt, List.getD_eq_getElem _ _ hm]
  exact List.getElem_mem hm

theorem State.shaped_mbx (h : s.shaped = true) : s.mbx.length = 16 := by
  simp only [State.shaped, decide_eq_true_eq] at h
  exact h.1

theorem State.offers_of_next (hmem : s.memWf = true) (hshape : s.shaped = true) (hfree : s.kolateFree = true) (hnext : s.nextMbx = some m) :
    s.offers m := by
  obtain ⟨hm, htake, hwait⟩ := State.nextMbx_spec hnext
  have hlen : m < s.mbx.length := by rw [State.shaped_mbx hshape]; exact hm
  simp only [Mailbox.takeable, Bool.and_eq_true, Bool.not_eq_true'] at htake
  simp only [State.kolateFree, Bool.and_eq_true, Bool.not_eq_true', Option.isNone_iff_eq_none] at hfree
  obtain ⟨⟨⟨hover, hreset⟩, -⟩, -⟩ := htake
  obtain ⟨⟨⟨⟨⟨⟨hrun, hhalt⟩, -⟩, hheld⟩, hclean⟩, -⟩, -⟩ := hfree
  exact ⟨hlen, State.memWf_mbxAt hmem hlen, hover, hreset, by simp [Kolate.works, hrun, hhalt], hheld, hclean, hwait⟩

theorem State.serves_offers {op : Nat} (h : s.serves m op = true) : s.offers m := by
  obtain ⟨hmem, hshape, hfree, hnext, -⟩ := (s.serves_iff m op).1 h
  exact State.offers_of_next hmem hshape hfree hnext

/-- The control core with a request taken. -/
def Kolate.took (k : Kolate) (r : Req) (now : Nat) : Kolate := { k with turn := (r.mbox + 1) % 16, held := some r, wdogSince := now }

theorem State.take_kol (s : State) (r : Req) : (s.take r).kol = s.kol.took r s.clk.localTime := rfl

/-- A completion with room in the ring, and the request let go. -/
def State.posted (s : State) (r : Req) (code detail : Nat) (r1 r2 r3 : Word) : State :=
  (s.onMbx r.mbox fun b => b.store (cplEntry r.tag r.opcode.toNat code detail r1 r2 r3)).onKol fun k => k.letGo r

/-- A request is completed in its mailbox, of which its command has changed at most the ring size. -/
theorem State.offers.posted_completed (h : s.offers m) {u : State} {n : Nat} (hlen : m < u.mbx.length)
    (hbox : u.mbxAt m = { s.mbxAt m with reqHead := (s.mbxAt m).reqHead + 1, entries := n })
    (hkol : u.kol = s.kol.took (s.reqAt m) s.clk.localTime) (code detail : Nat) (r1 r2 r3 : Word) :
    let t := u.posted (s.reqAt m) code detail r1 r2 r3
    s.completed t m code detail r1 r2 r3 ∧ (t.mbxAt m).entries = n ∧ (∀ k, k ≠ m → t.mbxAt k = u.mbxAt k) ∧
      t.kol = { s.kol with turn := (m + 1) % 16, wdogSince := s.clk.localTime } := by
  intro t
  let b : Mailbox := { s.mbxAt m with reqHead := (s.mbxAt m).reqHead + 1, entries := n }
  let e := cplEntry (s.reqAt m).tag (s.reqAt m).opcode.toNat code detail r1 r2 r3
  have ht : t.mbxAt m = b.store e := by
    rw [← show u.mbxAt m = b from hbox]
    exact (u.onMbx_mbxAt m m _).trans (if_pos ⟨rfl, hlen⟩)
  obtain ⟨-, -, -, -, hentries, -, -, -, -, -, -, h0, h1, h2, h3⟩ := b.store_spec e h.mem
  refine ⟨?_, by rw [ht, hentries], fun k hk => (u.onMbx_mbxAt m k _).trans (if_neg fun hc => hk hc.1.symm), ?_⟩
  · have hslot : 0xC00 + 32 * ((s.mbxAt m).cplTail.toNat % max (b.store e).entries 1) = b.slot := by rw [hentries]; rfl
    have hstore : b.store e = { s.mbxAt m with
        reqHead := (s.mbxAt m).reqHead + 1, cplTail := (s.mbxAt m).cplTail + 1, entries := (b.store e).entries, mem := (b.store e).mem } := by
      rw [Mailbox.store_eq]
    simp only [State.completed, ht]
    rw [hslot]
    exact ⟨hstore, h0, h1, h2, h3, b.store_mem_outside e h.mem⟩
  · show u.kol.letGo (s.reqAt m) = _
    rw [hkol]
    refine (Kolate.letGo_held (k := { s.kol with turn := (m + 1) % 16, wdogSince := s.clk.localTime }) h.cleaning fun hc => h.waiting _ hc rfl).trans ?_
    rw [← h.held]

/-- The answer to a request of one completion, whose command has left its mailbox but for the ring size. -/
theorem State.offers.complete_posted (h : s.offers m) {u : State} {n : Nat} (hone : (s.reqAt m).twice = false)
    (hbox : u.mbxAt m = { s.mbxAt m with reqHead := (s.mbxAt m).reqHead + 1, entries := n })
    (hkol : u.kol = s.kol.took (s.reqAt m) s.clk.localTime) (code detail : Nat) (r1 r2 r3 : Word) :
    u.complete (s.reqAt m) code detail r1 r2 r3 = u.posted (s.reqAt m) code detail r1 r2 r3 := by
  have hnot : ¬ ((s.reqAt m).opcode = 0x13 ∨ (s.reqAt m).opcode = 0x14) := by simpa [Req.twice] using hone
  exact u.complete_eq _ _ _ _ _ _ (fun hc => absurd hc hnot) (by rw [hkol]; exact h.works)
    (by rw [show (s.reqAt m).mbox = m from rfl, hbox]; exact h.overrun) (by rw [show (s.reqAt m).mbox = m from rfl, hbox]; exact h.resetBusy)

/-- A request of one completion that is answered with a code alone changes nothing else. -/
theorem State.offers.answered (h : s.offers m) (hone : (s.reqAt m).twice = false) (code : Nat) :
    s.completed ((s.take (s.reqAt m)).answer (s.reqAt m) code) m code 0 0 0 0 ∧
      s.onlyAnswered ((s.take (s.reqAt m)).answer (s.reqAt m) code) m [] := by
  have hlen : m < (s.take (s.reqAt m)).mbx.length := by simpa [State.take] using h.lt
  have hbox := State.take_mbxAt h.lt hone
  obtain ⟨hc, -, hothers, hk⟩ := h.posted_completed hlen hbox (s.take_kol _) code 0 0 0 0
  rw [← h.complete_posted hone hbox (s.take_kol _)] at hc hothers hk
  exact ⟨hc, fun k hkm => (hothers k hkm).trans (s.take_mbxAt_other hkm), hk,
    (s.keeps_take _).trans (State.keeps_complete _ _ _ _ _ _ _)⟩

/-- The requests of one completion. -/
theorem State.reqAt_twice {op : Nat} (h : s.serves m op = true) (hop : op ≠ 0x13 ∧ op ≠ 0x14) : (s.reqAt m).twice = false := by
  obtain ⟨-, -, -, -, hopc, -⟩ := (s.serves_iff m op).1 h
  obtain ⟨h13, h14⟩ := hop
  simp only [Req.twice, Bool.or_eq_false_iff, beq_eq_false_iff_ne]
  exact ⟨fun h => h13 (by rw [← hopc, h]; rfl), fun h => h14 (by rw [← hopc, h]; rfl)⟩

/-! ## MBX_CONFIG (R111) -/

/-- Is mailbox k at rest while the request of mailbox m is held? -/
def State.atRest (s : State) (m k : Nat) : Prop :=
  (s.mbxAt k).reqTail = (if k = m then (s.mbxAt k).reqHead + 1 else (s.mbxAt k).reqHead) ∧ (s.mbxAt k).cplTail = (s.mbxAt k).cplHead ∧
    (s.mbxAt k).reserved = 0

theorem State.take_atRest (h : s.offers m) (hone : (s.reqAt m).twice = false) (k : Nat) :
    let b := (s.take (s.reqAt m)).mbxAt k
    (b.reqTail = b.reqHead ∧ b.cplTail = b.cplHead ∧ b.reserved = 0) ↔ s.atRest m k := by
  by_cases hk : k = m
  · subst hk
    rw [State.take_mbxAt h.lt hone, State.atRest, if_pos rfl]
  · rw [State.take_mbxAt_other s hk, State.atRest, if_neg hk]

theorem runMbxConfig_eq {r : Req} {k n : Nat} (s : State) (hk : field (r.arg 1) 0 4 = k) (hn : field (r.arg 1) 16 6 = n) :
    runMbxConfig r s =
      if n = 0 ∨ 32 < n then s.answer r rBadSize
      else if ¬ ((s.mbxAt k).reqTail = (s.mbxAt k).reqHead ∧ (s.mbxAt k).cplTail = (s.mbxAt k).cplHead ∧ (s.mbxAt k).reserved = 0) then
        s.answer r rBusy
      else (s.onMbx k fun b => { b with entries := n }).answer r rOk := by
  subst hk hn
  unfold runMbxConfig
  simp only [not_and_or, ne_eq]

/-- A mailbox takes a ring size, its own request's or another. -/
theorem State.offers.resized (h : s.offers m) (hone : (s.reqAt m).twice = false) {k n : Nat} (hk : k < s.mbx.length) :
    let t := ((s.take (s.reqAt m)).onMbx k fun b => { b with entries := n }).answer (s.reqAt m) 0
    (t.mbxAt k).entries = n ∧ s.completed t m 0 0 0 0 0 ∧ (∀ j, j ≠ m → j ≠ k → t.mbxAt j = s.mbxAt j) ∧
      (k ≠ m → t.mbxAt k = { s.mbxAt k with entries := n }) ∧ s.keeps t [.mbx, .kol] := by
  intro t
  let v := s.take (s.reqAt m)
  let u := v.onMbx k fun b => { b with entries := n }
  have hvlen : v.mbx.length = s.mbx.length := List.length_modify ..
  have hulen : u.mbx.length = s.mbx.length := (List.length_modify ..).trans hvlen
  have hvm : v.mbxAt m = { s.mbxAt m with reqHead := (s.mbxAt m).reqHead + 1 } := State.take_mbxAt h.lt hone
  have huk : u.mbxAt k = { v.mbxAt k with entries := n } := (v.onMbx_mbxAt k k _).trans (if_pos ⟨rfl, by omega⟩)
  have hother : ∀ j, j ≠ k → u.mbxAt j = v.mbxAt j := fun j hj => (v.onMbx_mbxAt k j _).trans (if_neg fun hc => hj hc.1.symm)
  obtain ⟨size, hbox, hsize⟩ : ∃ size, u.mbxAt m = { s.mbxAt m with reqHead := (s.mbxAt m).reqHead + 1, entries := size } ∧ (k = m → size = n) := by
    by_cases hkm : k = m
    · subst hkm
      exact ⟨n, by rw [huk, hvm], fun _ => rfl⟩
    · exact ⟨_, (hother m (Ne.symm hkm)).trans hvm, fun h => absurd h hkm⟩
  obtain ⟨hc, hentries, hrest, -⟩ := h.posted_completed (by rw [hulen]; exact h.lt) hbox rfl 0 0 0 0 0
  rw [← h.complete_posted hone hbox rfl] at hc hentries hrest
  have htk : k ≠ m → t.mbxAt k = { s.mbxAt k with entries := n } := fun hkm => by
    rw [← s.take_mbxAt_other hkm]
    exact (hrest k hkm).trans huk
  refine ⟨?_, hc, fun j hjm hjk => (hrest j hjm).trans ((hother j hjk).trans (s.take_mbxAt_other hjm)), htk, ?_⟩
  · by_cases hkm : k = m
    · rw [← hsize hkm, ← hentries, hkm]
      rfl
    · rw [htk hkm]
  · exact ((s.keeps_take _).trans ((State.keeps_onMbx _ _ _).mono (by decide))).trans (State.keeps_complete _ _ _ _ _ _ _)

/-! ## Opcodes that the table does not list (R117, R119) -/

theorem exec_badOpcode (hfree : s.kolateFree = true) (hnext : s.nextMbx = some m) (hp : s.aon.power ≠ .halted)
    (hop : opcodes.contains (s.reqAt m).opcode.toNat = false) :
    exec (.badOpcode m) s = .next ((s.take (s.reqAt m)).answer (s.reqAt m) rBadOpcode) := by
  have hcheck : (s.take (s.reqAt m)).commonCheck (s.reqAt m) = rBadOpcode := by
    unfold State.commonCheck
    rw [if_neg fun hc => hp hc.1, hop, if_pos (by rfl)]
  show execBadOpcode m s = _
  unfold State.reqAt at hcheck hop ⊢
  simp only [execBadOpcode, ronno, hfree, hnext, hop, hcheck, beq_self_eq_true, Bool.and_self, Bool.not_false, if_true]
  rfl

theorem Req.twice_of_unlisted {r : Req} (h : opcodes.contains r.opcode.toNat = false) : r.twice = false := by
  simp only [Req.twice, Bool.or_eq_false_iff, beq_eq_false_iff_ne]
  exact ⟨fun hc => absurd h (by rw [hc]; decide), fun hc => absurd h (by rw [hc]; decide)⟩

/-- Settles O27: ECHO and STATUS answer with their results; MBX_CONFIG checks the size and then the mailbox's rest; the common checks answer an
opcode that the table does not list. -/
theorem simpleRequestsComplete : Obligations.SimpleRequestsComplete := by
  unfold Obligations.SimpleRequestsComplete
  intro m s
  refine ⟨fun h => ?echo, fun h => ?status, fun h => ?config, fun hmem hshape hfree hnext hp hop => ?unlisted⟩
  case echo =>
    exact ⟨_, ronno_served runEcho h (pickOp_reqAt h), State.served_completed h (by decide) (State.keeps_refl _ _) (by decide) (by decide) _ _ _ _ _⟩
  case status =>
    exact ⟨_, ronno_served runStatus h (pickOp_reqAt h), State.served_completed h (by decide) (State.keeps_refl _ _) (by decide) (by decide) _ _ _ _ _⟩
  case config =>
    intro k n b head rest
    have ho := State.serves_offers h
    have hone := State.reqAt_twice h (by decide)
    obtain ⟨-, hshape, -⟩ := (s.serves_iff m 3).1 h
    have hk : k < s.mbx.length := by
      rw [State.shaped_mbx hshape]
      exact Nat.mod_lt _ (by decide)
    have hrest : _ ↔ rest := State.take_atRest ho hone k
    refine ⟨_, ronno_served runMbxConfig h (pickOp_reqAt h), ?_⟩
    rw [runMbxConfig_eq (k := k) (n := n) _ rfl rfl]
    refine ⟨fun hn => ?_, fun h1 h2 hr => ?_, fun h1 h2 hr => ?_⟩
    · rw [if_pos hn]
      exact ho.answered hone _
    · rw [if_neg (by omega), if_pos (mt hrest.1 hr)]
      exact ho.answered hone _
    · rw [if_neg (by omega), if_neg (not_not.2 (hrest.2 hr))]
      exact ho.resized hone hk
  case unlisted =>
    exact ⟨_, exec_badOpcode hfree hnext hp hop, (State.offers_of_next hmem hshape hfree hnext).answered (Req.twice_of_unlisted hop) 1⟩

end Sys2Proof.Machine
end

section
/-! PROOFS. Requests that name a sequencer: their check, and what an answer leaves of one that changes that sequencer alone. BREAK_SET (04 R119;
07 R213, R214). -/

namespace Sys2Proof.Machine

variable {s : State} {m : Nat}

/-! ## The sequencer of a request (R119) -/

/-- A sequencer that may be named passes its check. -/
theorem State.seqCheck_named {q : Nat} (hq : q < s.cfg.nSeq) (hmay : s.mayName m q = true) (hlocked : s.unlocked 2 = false) :
    (s.take (s.reqAt m)).seqCheck (s.reqAt m) q = 0 := by
  have hany := issuer_permitted hmay
  rw [← s.take_issuer (s.reqAt m)] at hany
  have hlocked' : (s.take (s.reqAt m)).unlocked 2 = false := hlocked
  rw [State.seqCheck, if_neg (by exact Nat.not_le.2 hq), if_neg, hlocked', if_neg Bool.false_ne_true]
  simpa [bne] using hany

theorem State.shaped_seqs (h : s.shaped = true) : s.seqs.length = s.cfg.nSeq := by
  simp only [State.shaped, decide_eq_true_eq] at h
  exact h.2.1

/-- The sequencers after an answer. -/
theorem State.complete_seqAt (s : State) (r : Req) (code detail : Nat) (r1 r2 r3 : Word) (k : Nat) :
    (s.complete r code detail r1 r2 r3).seqAt k = s.seqAt k :=
  State.seqAt_of_seqs (s.keeps_complete r code detail r1 r2 r3).seqs k

/-- A change of one sequencer, seen through what keeps the others. -/
theorem State.onSeq_seqAt_other {q k : Nat} (f : Sequencer → Sequencer) (h : k ≠ q) : (s.onSeq q f).seqAt k = s.seqAt k :=
  (s.onSeq_seqAt q k f).trans (if_neg fun hc => h hc.1.symm)

theorem State.onSeq_seqAt_self {q : Nat} (f : Sequencer → Sequencer) (h : q < s.seqs.length) : (s.onSeq q f).seqAt q = f (s.seqAt q) :=
  (s.onSeq_seqAt q q f).trans (if_pos ⟨rfl, h⟩)

/-- A request that changes one sequencer and is answered. -/
theorem State.served_onSeq {op q : Nat} (h : s.serves m op = true) (hop : op ≠ 0x13 ∧ op ≠ 0x14) (hq : q < s.cfg.nSeq)
    (f : Sequencer → Sequencer) (code detail : Nat) (r1 r2 r3 : Word) :
    let t := ((s.take (s.reqAt m)).onSeq q f).complete (s.reqAt m) code detail r1 r2 r3
    s.completed t m code detail r1 r2 r3 ∧ s.onlyAnswered t m [.seqs] ∧ t.seqAt q = f (s.seqAt q) ∧ ∀ k, k ≠ q → t.seqAt k = s.seqAt k := by
  intro t
  obtain ⟨-, hshape, -⟩ := (s.serves_iff m op).1 h
  obtain ⟨hc, ha⟩ := State.served_completed h hop (State.keeps_onSeq _ q f) (by decide) (by decide) code detail r1 r2 r3
  exact ⟨hc, ha, (State.complete_seqAt _ _ _ _ _ _ _ q).trans (State.onSeq_seqAt_self f (by rw [← State.shaped_seqs hshape] at hq; exact hq)),
    fun k hk => (State.complete_seqAt _ _ _ _ _ _ _ k).trans (State.onSeq_seqAt_other f hk)⟩

/-! ## BREAK_SET (R213, R214) -/

theorem runBreakSet_eq {r : Req} {q kind v snap : Nat} (s : State) (hq : field (r.arg 1) 0 3 = q) (hk : field (r.arg 1) 8 2 = kind)
    (hv : field (r.arg 2) 0 24 = v) (hs : field (r.arg 3) 0 12 = snap) :
    runBreakSet r s =
      if s.aon.power ≠ .maintenance then s.answer r rWrongState
      else if kind = 3 ∨ (kind = 2 ∧ 128 ≤ v) then s.answer r rBadArg
      else if s.seqCheck r q ≠ 0 then s.answer r (s.seqCheck r q)
      else if kind ≠ 0 ∧ (snap % 8 ≠ 0 ∨ 0xF00 < snap) then s.answer r rBadRange
      else (s.onSeq q fun x => { x with brk := if kind = 0 then none else some ⟨kind == 2, v, snap⟩ }).answer r rOk := by
  subst hq hk hv hs
  rfl

/-- Each kind of BREAK_SET has its row, the reserved kind that which clears. -/
theorem exec_breakSet {kind : Nat} (h : s.serves m 0x24 = true) (hk : field (s.argAt m 1) 8 2 = kind) :
    exec (if kind = 1 then .breakCount m else if kind = 2 then .breakTag m else .breakClear m) s =
      .next (runBreakSet (s.reqAt m) (s.take (s.reqAt m))) := by
  obtain ⟨-, -, -, -, hop, -⟩ := (s.serves_iff m _).1 h
  have hpick {kinds : List Nat} (hin : kind ∈ kinds) : pickBreak kinds s (s.reqAt m) = true := by
    have hkind : field ((s.reqAt m).arg 1) 8 2 = kind := hk
    simp only [pickBreak, hop, hkind, beq_self_eq_true, Bool.true_and, List.contains_iff_mem]
    exact hin
  have hlt : kind < 4 := by
    rw [← hk]
    exact field_lt ..
  split_ifs with h1 h2
  · exact ronno_served runBreakSet h (hpick (by simp [h1]))
  · exact ronno_served runBreakSet h (hpick (by simp [h2]))
  · exact ronno_served runBreakSet h (hpick (by simp; omega))

/-- Settles O36: the state is checked first, then kind and tag, then the sequencer and the snapshot area. -/
theorem breaksArePlacedInMaintenance : Obligations.BreaksArePlacedInMaintenance := by
  unfold Obligations.BreaksArePlacedInMaintenance
  intro m s h q kind v snap row
  have answered (code : Nat) := State.served_answered h (by decide) code
  refine ⟨_, exec_breakSet h rfl, ?_⟩
  rw [runBreakSet_eq (q := q) (kind := kind) (v := v) (snap := snap) _ rfl rfl rfl rfl]
  refine ⟨fun hp => ?_, fun hp hbad => ?_, fun hp h3 h2 hq hmay hlocked => ?_⟩
  · rw [if_pos (by exact hp)]
    exact answered _
  · rw [if_neg (by exact not_not.2 hp), if_pos hbad]
    exact answered _
  · rw [if_neg (by exact not_not.2 hp), if_neg (by omega), if_neg (not_not.2 (State.seqCheck_named hq hmay hlocked))]
    refine ⟨fun hk hsnap => ?_, fun hok => ?_⟩
    · rw [if_pos ⟨hk, hsnap⟩]
      exact answered _
    · rw [if_neg (by omega)]
      obtain ⟨hc, ha, hself, hothers⟩ :=
        State.served_onSeq h (by decide) hq (fun x => { x with brk := if kind = 0 then none else some ⟨kind == 2, v, snap⟩ }) 0 0 0 0 0
      exact ⟨hc, ha, hself, hothers⟩

end Sys2Proof.Machine
end

section
/-! PROOFS. EXPERT_UNLOCK and EXPERT_LOCK (04 R119, R126; 07 R190; 16 R420). -/

namespace Sys2Proof.Machine

variable {s : State} {m : Nat}

theorem State.keeps.win {t : State} {l : List Field} (h : s.keeps t l) (hl : Field.win ∉ l := by decide) : t.win = s.win := h .win hl

/-! ## EXPERT_UNLOCK -/

theorem mem_insertNat (l : List Nat) (x k : Nat) : k ∈ insertNat l x ↔ k = x ∨ k ∈ l := by
  induction l with
  | nil => simp [insertNat]
  | cons y l ih =>
    unfold insertNat
    split_ifs with hlt heq
    · exact List.mem_cons
    · subst heq
      simp
    · simp only [List.mem_cons, ih]
      exact or_left_comm

theorem State.keeps_dropSessions (s : State) : s.keeps s.dropSessions [.seqs] := by
  intro g h
  cases g <;> first | rfl | exact absurd (by decide) h

theorem State.dropSessions_session : ∀ q ∈ s.dropSessions.seqs, q.session = none := by
  intro q hq
  obtain ⟨x, -, rfl⟩ := List.mem_map.1 hq
  cases hs : x.session <;> simp [hs]

/-- The state in which EXPERT_UNLOCK has opened window id, which was locked. -/
def State.withWindow (s : State) (id : Nat) : State :=
  (if id = 2 then s.dropSessions else s).onWin fun w => { w with unlocked := insertNat w.unlocked id }

theorem runExpertUnlock_eq {r : Req} {id : Nat} (s : State) (hid : field (r.arg 1) 0 16 = id) : runExpertUnlock r s =
    if hasExpert id = false then s.answer r rBadArg
    else if s.unlocked id then s.answer r rOk
    else (s.withWindow id).answer r rOk := by
  subst hid
  simp only [runExpertUnlock, State.withWindow, Bool.not_eq_true']

theorem State.keeps_withWindow (s : State) (id : Nat) : s.keeps (s.withWindow id) [.win, .seqs] :=
  ((State.keeps_ite s.keeps_dropSessions (s.keeps_refl _)).andThen (State.keeps_onWin _ _)).mono (by decide)

theorem State.withWindow_win (s : State) (id : Nat) : (s.withWindow id).win = { s.win with unlocked := insertNat s.win.unlocked id } := by
  unfold State.withWindow
  split_ifs <;> rfl

theorem hasExpert_eq_false (id : Nat) : hasExpert id = false ↔ id < 2 ∨ 11 < id := by
  simp only [hasExpert, decide_eq_false_iff_not]
  omega

/-! ## EXPERT_LOCK -/

/-- At relock a job's check changes at most the domains and COLL_ERR. -/
theorem State.keeps_recheckJob (s : State) (d : Nat) : s.keeps (s.recheckJob d) [.coll, .win] := by
  unfold State.recheckJob
  split
  · exact s.keeps_refl _
  · split_ifs
    · exact s.keeps_refl _
    · exact (s.keeps_onDom _ _).andThen (State.keeps_onWin _ _)

theorem State.recheckJob_unlocked (s : State) (d : Nat) : (s.recheckJob d).win.unlocked = s.win.unlocked := by
  unfold State.recheckJob
  split
  · rfl
  · split_ifs <;> rfl

theorem State.foldl_recheckJob_unlocked (ds : List Nat) : ∀ s : State, (ds.foldl State.recheckJob s).win.unlocked = s.win.unlocked := by
  induction ds with
  | nil => exact fun _ => rfl
  | cons d ds ih => exact fun s => (ih _).trans (s.recheckJob_unlocked d)

/-- The state in which EXPERT_LOCK has closed window id, which was open. -/
def State.withoutWindow (s : State) (id : Nat) : State :=
  let u := s.onWin fun w => { w with unlocked := w.unlocked.filter (· != id) }
  (if id = 10 then (List.range u.cfg.nSeq).foldl State.recheckJob u else u).refreshFps

theorem runExpertLock_eq {r : Req} {id : Nat} (s : State) (hid : field (r.arg 1) 0 16 = id) : runExpertLock r s =
    if hasExpert id = false then s.answer r rBadArg
    else if s.unlocked id then (s.withoutWindow id).complete r rOk 0 ((s.withoutWindow id).domAt 0).fingerprint 0 0
    else s.complete r rOk 0 (s.domAt 0).fingerprint 0 0 := by
  subst hid
  simp only [runExpertLock, State.withoutWindow, Bool.not_eq_true']
  split_ifs <;> rfl

theorem State.keeps_withoutWindow (s : State) (id : Nat) : s.keeps (s.withoutWindow id) [.win, .coll] := by
  unfold State.withoutWindow
  refine (((s.keeps_onWin _).andThen (State.keeps_ite (State.keeps_foldl _ State.keeps_recheckJob _ _) (State.keeps_refl _ _))).andThen
    (State.refreshFps_spec _).2).mono (by decide)

theorem State.withoutWindow_unlocked (s : State) (id : Nat) : (s.withoutWindow id).win.unlocked = s.win.unlocked.filter (· != id) := by
  refine (congrArg Windows.unlocked (State.refreshFps_spec _).2.win).trans ?_
  split_ifs
  · rw [State.foldl_recheckJob_unlocked]
    rfl
  · rfl

theorem State.withoutWindow_win (s : State) {id : Nat} (h : id ≠ 10) :
    (s.withoutWindow id).win = { s.win with unlocked := s.win.unlocked.filter (· != id) } := by
  refine (State.refreshFps_spec _).2.win.trans ?_
  rw [if_neg h]
  rfl

/-! ## What the answers leave -/

theorem Windows.eq_with_unlocked {w w' : Windows} {l : List Nat} (h : w = { w' with unlocked := l }) : w = { w' with unlocked := w.unlocked } := by
  subst h
  rfl

theorem State.mem_unlocked_of_win {t : State} {w : Windows} (h : t.win = w) (k : Nat) : k ∈ t.win.unlocked ↔ k ∈ w.unlocked := by rw [h]

/-- What an answer leaves of the windows, where the command has changed only them, sequencers and domains. -/
theorem State.served_win {op : Nat} {u : State} {l : List Field} (h : s.serves m op = true) (hop : op ≠ 0x13 ∧ op ≠ 0x14)
    (hk : (s.take (s.reqAt m)).keeps u l) (hmbx : Field.mbx ∉ l) (hkol : Field.kol ∉ l) (w : Word) :
    let t := u.complete (s.reqAt m) rOk 0 w 0 0
    s.completed t m rOk 0 w 0 0 ∧ s.onlyAnswered t m l ∧ t.win = u.win ∧ t.seqs = u.seqs ∧ t.coll = u.coll := by
  have hdone := u.keeps_complete (s.reqAt m) rOk 0 w 0 0
  obtain ⟨hc, ha⟩ := State.served_completed h hop hk hmbx hkol rOk 0 w 0 0
  exact ⟨hc, ha, hdone.win, hdone.seqs, hdone.coll⟩

theorem State.onlyAnswered.mono {t : State} {l k : List Field} (h : s.onlyAnswered t m l) (hs : ∀ f, f ∈ l → f ∈ k) : s.onlyAnswered t m k := by
  obtain ⟨hothers, hkol, hkeeps⟩ := h
  exact ⟨hothers, hkol, hkeeps.mono fun f hf => List.mem_append.2 ((List.mem_append.1 hf).imp_right (hs f))⟩

/-- Settles O28: a window is opened by inserting its number and closed by filtering it out; only relocking the COLLECTIVES window checks jobs
again, and an answer changes neither windows nor sequencers nor domains. -/
theorem expertWindowsUnlockAndLock : Obligations.ExpertWindowsUnlockAndLock := by
  unfold Obligations.ExpertWindowsUnlockAndLock
  intro m s id
  refine ⟨fun h => ⟨_, ronno_served runExpertUnlock h (pickOp_reqAt h), ?unlock⟩,
    fun h => ⟨_, ronno_served runExpertLock h (pickOp_reqAt h), ?lock⟩⟩
  case unlock =>
    rw [runExpertUnlock_eq (id := id) _ rfl]
    refine ⟨fun hbad => ?_, fun hlo hhi => ?_⟩
    · rw [if_pos ((hasExpert_eq_false id).2 hbad)]
      exact State.served_answered h (by decide) _
    rw [if_neg (by rw [hasExpert_eq_false]; omega)]
    by_cases hopen : s.unlocked id = true
    · rw [if_pos (by exact hopen)]
      obtain ⟨hc, ha, hwin, hseqs, -⟩ := State.served_win h (by decide) (State.keeps_refl _ []) (by decide) (by decide) 0
      have hin : id ∈ s.win.unlocked := List.contains_iff_mem.1 hopen
      refine ⟨hc, ha.mono (by decide), fun k => ?_, Windows.eq_with_unlocked hwin, fun _ => hseqs, fun h2 hlocked => ?_⟩
      · exact (State.mem_unlocked_of_win hwin k).trans ⟨Or.inr, fun hk => hk.elim (fun he => he ▸ hin) fun hk => hk⟩
      · rw [h2, hlocked] at hopen
        exact absurd hopen Bool.false_ne_true
    · rw [if_neg (by exact hopen)]
      obtain ⟨hc, ha, hsame, hseqs, -⟩ := State.served_win h (by decide) (State.keeps_withWindow _ id) (by decide) (by decide) 0
      have hwin := hsame.trans (State.withWindow_win _ id)
      refine ⟨hc, ha, fun k => (State.mem_unlocked_of_win hwin k).trans (mem_insertNat ..), Windows.eq_with_unlocked hwin,
        fun h2 => hseqs.trans ?_, fun h2 _ => hseqs ▸ ?_⟩
      · rw [State.withWindow, if_neg h2]
        rfl
      · rw [State.withWindow, if_pos h2]
        exact State.dropSessions_session
  case lock =>
    rw [runExpertLock_eq (id := id) _ rfl]
    refine ⟨fun hbad => ?_, fun hlo hhi => ?_⟩
    · rw [if_pos ((hasExpert_eq_false id).2 hbad)]
      exact State.served_answered h (by decide) _
    rw [if_neg (by rw [hasExpert_eq_false]; omega)]
    have print {u : State} {t : State} (hcoll : t.coll = u.coll) : (t.domAt 0).fingerprint = (u.domAt 0).fingerprint :=
      congrArg DomColl.fingerprint (State.domAt_of_doms (congrArg Coll.doms hcoll) 0)
    by_cases hopen : s.unlocked id = true
    · rw [if_pos (by exact hopen)]
      obtain ⟨hc, ha, hwin, -, hcoll⟩ := State.served_win h (by decide) (State.keeps_withoutWindow _ id) (by decide) (by decide)
        (((s.take (s.reqAt m)).withoutWindow id).domAt 0).fingerprint
      refine ⟨by rw [print hcoll]; exact hc, ha, fun k => (State.mem_unlocked_of_win hwin k).trans ?_,
        fun h10 => Windows.eq_with_unlocked (hwin.trans (State.withoutWindow_win _ h10)), fun hlocked => absurd (hlocked.symm.trans hopen) Bool.false_ne_true⟩
      rw [State.withoutWindow_unlocked, List.mem_filter, bne_iff_ne, and_comm]
      rfl
    · rw [if_neg (by exact hopen)]
      obtain ⟨hc, ha, hwin, -, hcoll⟩ := State.served_win h (by decide) (State.keeps_refl _ []) (by decide) (by decide)
        ((s.take (s.reqAt m)).domAt 0).fingerprint
      refine ⟨by rw [print hcoll]; exact hc, ha.mono (by decide), fun k => (State.mem_unlocked_of_win hwin k).trans ?_,
        fun _ => Windows.eq_with_unlocked hwin, fun _ => ⟨hcoll, hwin⟩⟩
      exact ⟨fun hk => ⟨fun he => hopen (List.contains_iff_mem.2 (he ▸ hk)), hk⟩, fun hk => hk.2⟩

end Sys2Proof.Machine
end

section
/-! PROOFS. Load sessions: PROG_BEGIN, PROG_CHUNK and PROG_COMMIT (04 R119, R120; 07 R188, R189, R206). -/

namespace Sys2Proof.Machine

variable {s : State} {m : Nat}

/-- What a PROG_COMMIT does to its sequencer, and the completion that answers it, for a session of n bytes with a verdict. -/
def State.commitSession (s : State) (r : Req) (q n : Nat) (v : Verdict) : State :=
  let bank := 1 - (s.seqAt q).activeBank
  match v.reject with
  | some f => (s.onSeq q fun y => { y with session := none, load := .empty, imgLen := y.imgLen.set bank 0 }).complete r rVerifyFail
      (f.code + f.idx % 65536 * 65536) 0 0 (word f.off)
  | none => (s.onSeq q fun y =>
      { y with session := none, load := .armed, armedAt := s.clk.rackTime, imgLen := y.imgLen.set bank n }).complete r rOk 0
      (word v.bundles) (word v.length) v.warn

/-- A request on a sequencer that may be named. -/
theorem runProgBegin_named {r : Req} {q n : Nat} (s : State) (hq : field (r.arg 1) 0 3 = q) (hn : field (r.arg 2) 0 18 = n)
    (hcheck : s.seqCheck r q = 0) : runProgBegin r s =
      if n % 4 ≠ 0 ∨ n = 0 ∨ s.cfg.segBytes < n then s.answer r rBadSize
      else if (s.seqAt q).session.isSome then s.answer r rBusy
      else (s.onSeq q fun x =>
        { x with load := .loading, session := some { len := n, present := [] }, imgLen := x.imgLen.set (1 - x.activeBank) 0 }).answer r rOk := by
  subst hq hn
  simp only [runProgBegin, hcheck, ne_eq, not_true, if_false]

theorem runProgChunk_none {r : Req} {q : Nat} (s : State) (hq : field (r.arg 1) 0 3 = q) (hcheck : s.seqCheck r q = 0)
    (hargs : ¬ (field (r.arg 2) 0 18 % 4 ≠ 0 ∨ field (r.arg 3) 0 12 % 8 ≠ 0 ∨ field (r.arg 3) 16 13 % 4 ≠ 0 ∨ field (r.arg 3) 16 13 < 4 ∨
      4096 < field (r.arg 3) 16 13)) (hx : (s.seqAt q).session = none) : runProgChunk r s = s.answer r rNoSession := by
  subst hq
  unfold runProgChunk
  dsimp only
  rw [if_neg hargs, hcheck, if_neg (not_not.2 rfl), hx]

/-- The bytes of a chunk stand in the load bank's segment, and its session has them. -/
def State.withChunk (s : State) (q off : Nat) (x : Session) (bs : Bytes) : State :=
  ({ s with cmdMem := s.cmdMem.writeBytes (s.segAddr q (1 - (s.seqAt q).activeBank) + off) bs } : State).onSeq q fun y =>
    { y with session := some { x with present := x.present.writeBytes off (List.replicate bs.length 1) } }

theorem runProgChunk_some {r : Req} {q off src n : Nat} {x : Session} (s : State) (hq : field (r.arg 1) 0 3 = q) (hoff : field (r.arg 2) 0 18 = off)
    (hsrc : field (r.arg 3) 0 12 = src) (hn : field (r.arg 3) 16 13 = n) (hcheck : s.seqCheck r q = 0)
    (hargs : ¬ (off % 4 ≠ 0 ∨ src % 8 ≠ 0 ∨ n % 4 ≠ 0 ∨ n < 4 ∨ 4096 < n)) (hx : (s.seqAt q).session = some x) : runProgChunk r s =
      if 0x1000 < src + n ∨ x.len < off + n then s.answer r rBadRange
      else (s.withChunk q off x (s.dataBytes r.mbox src n)).answer r rOk := by
  subst hq hoff hsrc hn
  unfold runProgChunk
  dsimp only
  rw [if_neg hargs, hcheck, if_neg (not_not.2 rfl), hx]
  simp only [State.withChunk, State.dataBytes, Mem.readBytes_length]

theorem runProgCommit_none {r : Req} {q : Nat} (s : State) (hq : field (r.arg 1) 0 3 = q) (hcheck : s.seqCheck r q = 0)
    (hx : (s.seqAt q).session = none) : runProgCommit r s = s.answer r rNoSession := by
  subst hq
  unfold runProgCommit
  dsimp only
  rw [hcheck, if_neg (not_not.2 rfl), hx]

theorem runProgCommit_some {r : Req} {q : Nat} {x : Session} {v : Verdict} (s : State) (hq : field (r.arg 1) 0 3 = q) (hcheck : s.seqCheck r q = 0)
    (hx : (s.seqAt q).session = some x) (hv : verify (s.env q (s.partAt q).words ((s.domAt q).nextJob) 0) s.coll.logicalId.toNat
      (s.cmdMem.readBytes (s.segAddr q (1 - (s.seqAt q).activeBank)) x.len) = v) : runProgCommit r s =
      if (x.present.filter fun c => c.1 < x.len).length < x.len then s.answer r rIncomplete else s.commitSession r q x.len v := by
  subst hq hv
  unfold runProgCommit State.commitSession
  dsimp only
  rewrite [hcheck, if_neg (not_not.2 rfl), hx]
  rfl

theorem State.keeps_withCmdMem (s : State) (c : Mem) : s.keeps { s with cmdMem := c } [.cmdMem] := by
  intro g h
  cases g <;> first | rfl | exact absurd (by decide) h

/-- A chunk changes its sequencer's session and the bytes that it names. -/
theorem State.served_chunk {q off : Nat} {x : Session} {bs : Bytes} (h : s.serves m 0x11 = true) (hq : q < s.cfg.nSeq) :
    let t := ((s.take (s.reqAt m)).withChunk q off x bs).answer (s.reqAt m) rOk
    let a := s.segAddr q (1 - (s.seqAt q).activeBank) + off
    s.completed t m 0 0 0 0 0 ∧ s.onlyAnswered t m [.seqs, .cmdMem] ∧ (∀ k, k ≠ q → t.seqAt k = s.seqAt k) ∧
      t.cmdMem.readBytes a bs.length = bs ∧ (∀ b, b < a ∨ a + bs.length ≤ b → t.cmdMem.read b = s.cmdMem.read b) ∧
      t.seqAt q = { s.seqAt q with session := some { x with present := x.present.writeBytes off (List.replicate bs.length 1) } } := by
  intro t a
  obtain ⟨hwf, hshape, -⟩ := (s.serves_iff m _).1 h
  have hmem : s.cmdMem.wf = true := by
    simp only [State.memWf, Bool.and_eq_true, and_assoc] at hwf
    exact hwf.1
  have hlen : q < s.seqs.length := by rw [State.shaped_seqs hshape]; exact hq
  let v : State := { s.take (s.reqAt m) with cmdMem := s.cmdMem.writeBytes a bs }
  obtain ⟨hc, ha⟩ := State.served_completed h (by decide) ((State.keeps_withCmdMem _ _).andThen (v.keeps_onSeq q _)) (by decide) (by decide)
    rOk 0 0 0 0
  have ht : t.cmdMem = s.cmdMem.writeBytes a bs := State.keeps_complete _ _ _ _ _ _ _ .cmdMem (by decide)
  obtain ⟨hread, hrest⟩ := Mem.copy_spec hmem a bs
  exact ⟨hc, ha.mono (by decide), fun k hk => (State.complete_seqAt _ _ _ _ _ _ _ k).trans (v.onSeq_seqAt_other _ hk), by rw [ht]; exact hread,
    by rw [ht]; exact hrest, (State.complete_seqAt _ _ _ _ _ _ _ q).trans (v.onSeq_seqAt_self _ hlen)⟩

/-- Settles O29: the checks in their order, and the one sequencer that each request changes; a chunk also writes its segment. -/
theorem programsAreLoadedAndVerified : Obligations.ProgramsAreLoadedAndVerified := by
  unfold Obligations.ProgramsAreLoadedAndVerified
  intro m s q mine x bank others refused
  refine ⟨fun h hmine => ?begin, fun h hmine => ?chunk, fun h hmine => ?commit⟩ <;> obtain ⟨hq, hmay, hlocked⟩ := hmine <;>
    have hcheck := State.seqCheck_named hq hmay hlocked
  case begin =>
    intro n
    refine ⟨_, ronno_served runProgBegin h (pickOp_reqAt h), ?_⟩
    rw [runProgBegin_named (q := q) (n := n) _ rfl rfl hcheck]
    refine ⟨fun hbad => ?_, fun h4 hlo hhi hopen => ?_, fun h4 hlo hhi hnone => ?_⟩
    · rw [if_pos (by exact hbad)]
      exact State.served_answered h (by decide) _
    · rw [if_neg (by rintro (hb | hb | hb) <;> [exact hb h4; omega; exact absurd hhi (Nat.not_le.2 hb)]), if_pos (by exact hopen)]
      exact State.served_answered h (by decide) _
    · rw [if_neg (by rintro (hb | hb | hb) <;> [exact hb h4; omega; exact absurd hhi (Nat.not_le.2 hb)]),
        if_neg (by rw [show ((s.take (s.reqAt m)).seqAt q).session = none from hnone]; exact Bool.false_ne_true)]
      obtain ⟨hc, ha, hself, hothers⟩ := State.served_onSeq h (by decide) hq (fun x =>
        { x with load := .loading, session := some { len := n, present := [] }, imgLen := x.imgLen.set (1 - x.activeBank) 0 }) 0 0 0 0 0
      exact ⟨hc, ha, hothers, hself⟩
  case chunk =>
    intro off src n hoff hsrc hn hlo hhi
    have hargs : ¬ (off % 4 ≠ 0 ∨ src % 8 ≠ 0 ∨ n % 4 ≠ 0 ∨ n < 4 ∨ 4096 < n) := by omega
    refine ⟨_, ronno_served runProgChunk h (pickOp_reqAt h), fun hx => ?_, fun y hx hbad => ?_, fun y hx hfit hlen => ?_⟩
    · rw [runProgChunk_none (q := q) _ rfl hcheck hargs hx]
      exact State.served_answered h (by decide) _
    · rw [runProgChunk_some (q := q) (off := off) (src := src) (n := n) _ rfl rfl rfl rfl hcheck hargs hx, if_pos hbad]
      exact State.served_answered h (by decide) _
    · rw [runProgChunk_some (q := q) (off := off) (src := src) (n := n) _ rfl rfl rfl rfl hcheck hargs hx, if_neg (by omega), State.take_dataBytes]
      have hbytes : (s.dataBytes m src n).length = n := Mem.readBytes_length ..
      have hdone := State.served_chunk (off := off) (x := y) (bs := s.dataBytes m src n) h hq
      rw [hbytes] at hdone
      exact hdone
  case commit =>
    refine ⟨_, ronno_served runProgCommit h (pickOp_reqAt h), fun hx => ?_, fun y hx => ?_⟩
    · rw [runProgCommit_none (q := q) _ rfl hcheck hx]
      exact State.served_answered h (by decide) _
    · intro got ws v
      rw [runProgCommit_some (q := q) (v := v) _ rfl hcheck hx rfl]
      refine ⟨fun hless => ?_, fun hall f hf => ?_, fun hall hnone => ?_⟩
      · rw [if_pos (by exact hless)]
        exact State.served_answered h (by decide) _
      · rw [if_neg (by exact Nat.not_lt.2 hall), State.commitSession, hf]
        obtain ⟨hc, ha, hself, hothers⟩ := State.served_onSeq h (by decide) hq (fun y =>
          { y with session := none, load := .empty, imgLen := y.imgLen.set bank 0 }) 9 (f.code + f.idx % 65536 * 65536) 0 0 (word f.off)
        exact ⟨hc, ha, hothers, hself⟩
      · rw [if_neg (by exact Nat.not_lt.2 hall), State.commitSession, hnone]
        obtain ⟨hc, ha, hself, hothers⟩ := State.served_onSeq h (by decide) hq (fun z =>
          { z with session := none, load := .armed, armedAt := s.clk.rackTime, imgLen := z.imgLen.set bank y.len }) 0 0 (word v.bundles)
          (word v.length) v.warn
        exact ⟨hc, ha, hothers, hself⟩

end Sys2Proof.Machine
end

section
/-! PROOFS. CMD_DATA and TBL_DATA (07 R190; 10 R271; 18 R453, R454). -/

namespace Sys2Proof.Machine

variable {s : State}

/-! ## The selectors -/

theorem regionOf_cmdData : regionOf 0x110008 = .expert 2 8 := regionOf_expert (by decide) (by decide)

theorem regionOf_tblData : regionOf 0x130008 = .expert 4 8 := regionOf_expert (by decide) (by decide)

/-- The selector of CMD_DATA one word on, in the same bank. -/
def nextCmdSel (sel : Word) : Word := word ((field sel 3 15 + 1) % 32768 * 8 + field sel 24 1 * 2 ^ 24)

/-- The selector of TBL_DATA one word on, in the same table. -/
def nextTblSel (sel : Word) : Word := word (field sel 0 5 + (field sel 8 9 + 1) % 320 * 256)

theorem State.advanceSel_cmd (s : State) : s.advanceSel 0x110008 = s.onWin fun x => { x with cmdSel := nextCmdSel s.win.cmdSel } := by
  simp only [State.advanceSel, regionOf_cmdData, State.onWin, nextCmdSel]

theorem State.advanceSel_tbl (s : State) : s.advanceSel 0x130008 = s.onWin fun x => { x with tblSel := nextTblSel s.win.tblSel } := by
  simp only [State.advanceSel, regionOf_tblData, State.onWin, nextTblSel]

theorem field_nextCmdSel (sel : Word) : field (nextCmdSel sel) 3 15 = (if field sel 3 15 = 32767 then 0 else field sel 3 15 + 1) ∧
    field (nextCmdSel sel) 24 1 = field sel 24 1 := by
  have hw := field_lt sel 3 15
  have hbank := field_lt sel 24 1
  rw [nextCmdSel, field_word, field_word]
  generalize field sel 3 15 = w at *
  generalize field sel 24 1 = bank at *
  constructor
  · split_ifs <;> omega
  · omega

theorem field_nextTblSel (sel : Word) :
    (field sel 8 9 < 320 → field (nextTblSel sel) 8 9 = if field sel 8 9 = 319 then 0 else field sel 8 9 + 1) ∧
      field (nextTblSel sel) 0 5 = field sel 0 5 := by
  have htable := field_lt sel 0 5
  rw [nextTblSel, field_word, field_word]
  generalize field sel 8 9 = x at *
  generalize field sel 0 5 = i at *
  constructor
  · intro hx
    split_ifs <;> omega
  · omega

/-! ## Reads -/

/-- A granted read of a register of this die that belongs to no record. -/
theorem State.regRead_granted {src : BitVec 4} {a : Nat} (h : s.grants src false a = true) (hdie : s.otherDie a = false)
    (hlive : s.livePc a = false) (hrec : recordAt a = none) :
    portRequest s (s.regRead src.toNat a) = .next ((s.advanceSel a).respond rspOk (s.viewWord src.toNat a)) := by
  obtain ⟨hup, hcode⟩ := (s.grants_iff src false a).1 h
  simp [portRequest, whenTrue, State.regRead, State.fillShadow, hup, hcode, hdie, hlive, hrec]

theorem State.otherDie_cmdData (s : State) : s.otherDie 0x110008 = false := bne_self_eq_false s.boot.straps.dieId.toNat

theorem State.otherDie_tblData (s : State) : s.otherDie 0x130008 = false := bne_self_eq_false s.boot.straps.dieId.toNat

theorem exec_cmdDataRead (src : BitVec 4) (h : s.grants src false 0x110008 = true) :
    exec (.cmdDataRead src) s = .next ((s.advanceSel 0x110008).respond rspOk (s.cmdMem.read64 s.cmdAddr)) :=
  State.regRead_granted h s.otherDie_cmdData rfl rfl

theorem exec_tblDataRead (src : BitVec 4) (h : s.grants src false 0x130008 = true) :
    exec (.tblDataRead src) s = .next ((s.advanceSel 0x130008).respond rspOk (s.tables.read64 s.tblAddr)) :=
  State.regRead_granted h s.otherDie_tblData rfl rfl

/-! ## Writes -/

/-- The word that CMD_DATA names lies in a sequencer's segment. -/
theorem segment_lt (c : Cfg) {w : Nat} (hw : w < 32768) : w * 8 / c.segBytes < c.nSeq := by
  unfold Cfg.segBytes Cfg.nSeq
  split <;> omega

/-- The state in which a word of a load bank is written, which is empty then. -/
def State.withCmdWord (s : State) (q bank : Nat) (data : Word) : State :=
  ({ s with cmdMem := s.cmdMem.write64 s.cmdAddr data } : State).onSeq q fun x =>
    { x with load := .empty, session := none, imgLen := x.imgLen.set bank 0 }

theorem State.keeps_withCmdWord (s : State) (q bank : Nat) (data : Word) : s.keeps (s.withCmdWord q bank data) [.cmdMem, .seqs] :=
  (s.keeps_withCmdMem _).andThen (State.keeps_onSeq _ q _)

theorem State.writeReg_cmdData {q bank : Nat} (s : State) (data : Word) (hq : field s.win.cmdSel 3 15 * 8 / s.cfg.segBytes = q)
    (hbank : field s.win.cmdSel 24 1 = bank) : s.writeReg 0x110008 data =
      if (s.seqAt q).activeBank % 2 = bank then (rspDenied, s.onWin fun w => { w with seqErr := w.seqErr ||| 1 })
      else (rspOk, (s.withCmdWord q bank data).advanceSel 0x110008) := by
  subst hq hbank
  rfl

theorem State.writeReg_tblData (s : State) (data : Word) : s.writeReg 0x130008 data =
    if s.tableInUse (field s.win.tblSel 0 5) then (rspDenied, s.onWin fun w => { w with feErr := w.feErr ||| 1 })
    else (rspOk, ({ s with tables := s.tables.write64 s.tblAddr data } : State).advanceSel 0x130008) := rfl

theorem State.cmdMem_wf (h : s.memWf = true) : s.cmdMem.wf = true := by
  simp only [State.memWf, Bool.and_eq_true, and_assoc] at h
  exact h.1

theorem State.tables_wf (h : s.memWf = true) : s.tables.wf = true := by
  simp only [State.memWf, Bool.and_eq_true, and_assoc] at h
  exact h.2.1

/-- Settles O22: the two windows' registers, by what the selectors hold after one step on and what a write stores. -/
theorem windowDataPortsAdvance : Obligations.WindowDataPortsAdvance := by
  unfold Obligations.WindowDataPortsAdvance
  intro src data s hmem hshape bank w q x i cmdNext tblNext
  obtain ⟨hword, hsame⟩ := field_nextCmdSel s.win.cmdSel
  obtain ⟨hentry, htable⟩ := field_nextTblSel s.win.tblSel
  have hcmd {t : State} (ht : t.win = { s.win with cmdSel := nextCmdSel s.win.cmdSel }) : cmdNext t := by
    simp only [cmdNext, ht]
    exact ⟨hword, hsame, trivial⟩
  have htbl {t : State} (ht : t.win = { s.win with tblSel := nextTblSel s.win.tblSel }) : tblNext t := by
    simp only [tblNext, ht]
    exact ⟨hentry, htable, trivial⟩
  have hcmdAddr : 262144 * bank + 8 * w = s.cmdAddr := by rw [State.cmdAddr, Nat.mul_comm, Nat.mul_comm 8]
  have htblAddr : 2560 * i + 8 * x = s.tblAddr := by rw [State.tblAddr, Nat.mul_comm, Nat.mul_comm 8]
  rw [hcmdAddr, htblAddr]
  refine ⟨fun h => ⟨_, exec_cmdDataRead src h, ?cmdRead⟩, fun h => ⟨_, exec_tblDataRead src h, ?tblRead⟩, fun h => ?cmdWrite, fun h => ?tblWrite⟩
  case cmdRead =>
    have hk := s.keeps_advanceSel 0x110008
    exact ⟨State.answered_respond_of_keeps hk (by decide) _ _, hcmd (congrArg State.win (State.advanceSel_cmd _)), State.keeps_respond_of_keeps hk _ _⟩
  case tblRead =>
    have hk := s.keeps_advanceSel 0x130008
    exact ⟨State.answered_respond_of_keeps hk (by decide) _ _, htbl (congrArg State.win (State.advanceSel_tbl _)), State.keeps_respond_of_keeps hk _ _⟩
  case cmdWrite =>
    have hw := s.writeReg_cmdData (q := q) (bank := bank) data rfl rfl
    by_cases hactive : (s.seqAt q).activeBank % 2 = bank
    · rw [if_pos hactive] at hw
      obtain ⟨he, ha, hk⟩ := State.regWrite_gives h hw (s.keeps_onWin _) (by decide)
      exact ⟨_, he, fun _ => ⟨ha, rfl, hk⟩, fun hc => absurd hactive hc⟩
    · rw [if_neg hactive] at hw
      obtain ⟨he, ha, hk⟩ := State.regWrite_gives h hw ((s.keeps_withCmdWord q bank data).andThen (State.keeps_advanceSel _ _)) (by decide)
      have hq : q < s.seqs.length := by
        rw [State.shaped_seqs hshape]
        exact segment_lt s.cfg (field_lt ..)
      exact ⟨_, he, fun hc => absurd hc hactive, fun _ => ⟨ha, hcmd (congrArg State.win (State.advanceSel_cmd _)),
        Mem.stored_write64 (State.cmdMem_wf hmem) _ _,
        State.onSeq_seqAt_self (s := { s with cmdMem := s.cmdMem.write64 s.cmdAddr data }) _ hq,
        fun k hk => State.onSeq_seqAt_other (s := { s with cmdMem := s.cmdMem.write64 s.cmdAddr data }) _ hk, hk.mono (by decide)⟩⟩
  case tblWrite =>
    have hw := s.writeReg_tblData data
    by_cases hused : s.tableInUse i = true
    · rw [if_pos hused] at hw
      obtain ⟨he, ha, hk⟩ := State.regWrite_gives h hw (s.keeps_onWin _) (by decide)
      exact ⟨_, he, fun _ => ⟨ha, rfl, hk⟩, fun hc => absurd (hc.symm.trans hused) Bool.false_ne_true⟩
    · rw [if_neg hused] at hw
      obtain ⟨he, ha, hk⟩ := State.regWrite_gives h hw ((State.keeps_withTables s _).andThen (State.keeps_advanceSel _ _)) (by decide)
      exact ⟨_, he, fun hc => absurd hc hused, fun _ => ⟨ha, htbl (congrArg State.win (State.advanceSel_tbl _)),
        Mem.stored_write64 (State.tables_wf hmem) _ _, hk.mono (by decide)⟩⟩

end Sys2Proof.Machine
end

section
/-! PROOFS. EPOCH_RUN and RUN_PREFIX: the refusals, which release the reserved slot, the queued releases, and the stall (04 R114, R121, R122,
R129; 07 R187, R192, R195). -/

namespace Sys2Proof.Machine

variable {s : State} {m : Nat}

/-! ## A request of two completions that is refused (R114) -/

/-- Taking a request of two completions reserves the second one's slot. -/
theorem State.take_mbxAt_twice (hm : m < s.mbx.length) (ht : (s.reqAt m).twice = true) :
    (s.take (s.reqAt m)).mbxAt m = { s.mbxAt m with reqHead := (s.mbxAt m).reqHead + 1, reserved := (s.mbxAt m).reserved + 1 } := by
  show ((s.onMbx (s.reqAt m).mbox _).mbxAt m) = _
  rw [State.onMbx_mbxAt, show (s.reqAt m).mbox = m from rfl, if_pos ⟨rfl, hm⟩, ht]
  rfl

/-- The slot reserved for a second completion is free again. -/
def State.unreserved (s : State) (m : Nat) : State := s.onMbx m fun b => { b with reserved := b.reserved - 1 }

theorem State.posted_resetBusy (r : Req) (code detail : Nat) (r1 r2 r3 : Word) :
    ((s.posted r code detail r1 r2 r3).mbxAt r.mbox).resetBusy = (s.mbxAt r.mbox).resetBusy := by
  show ((s.onMbx r.mbox _).mbxAt r.mbox).resetBusy = _
  rw [State.onMbx_mbxAt]
  split_ifs <;> rfl

/-- A refusal of a request of two completions frees the slot that was reserved for the second. -/
theorem State.complete_refused {r : Req} {code detail : Nat} {r1 r2 r3 : Word} (ht : r.twice = true) (hcode : code ≠ 0)
    (hworks : s.kol.works = true) (hover : ((s.unreserved r.mbox).mbxAt r.mbox).overrun = false)
    (hreset : ((s.unreserved r.mbox).mbxAt r.mbox).resetBusy = false) :
    s.complete r code detail r1 r2 r3 = (s.unreserved r.mbox).posted r code detail r1 r2 r3 := by
  have htwice : (r.opcode = 0x13 ∨ r.opcode = 0x14) ∧ code ≠ 0 := ⟨by simpa [Req.twice] using ht, hcode⟩
  have hpost : (s.unreserved r.mbox).post r.mbox (cplEntry r.tag r.opcode.toNat code detail r1 r2 r3) =
      (s.unreserved r.mbox).onMbx r.mbox fun b => b.store (cplEntry r.tag r.opcode.toNat code detail r1 r2 r3) := by
    have hworks' : (s.unreserved r.mbox).kol.works = true := hworks
    rw [State.post, if_neg (by simp [hworks', hover])]
  have hbusy : (((s.unreserved r.mbox).posted r code detail r1 r2 r3).mbxAt r.mbox).resetBusy = false := by
    rw [State.posted_resetBusy, hreset]
  unfold State.complete
  dsimp only
  rw [if_pos htwice, show (s.onMbx r.mbox _) = s.unreserved r.mbox from rfl, hpost]
  exact if_neg (by rw [show (((s.unreserved r.mbox).onMbx _ _).onKol _) = (s.unreserved r.mbox).posted r code detail r1 r2 r3 from rfl, hbusy]; simp)

/-- A refused request of two completions changes nothing but its mailbox's ring. -/
theorem State.offers.refused (h : s.offers m) (ht : (s.reqAt m).twice = true) {code : Nat} (hcode : code ≠ 0) :
    s.completed ((s.take (s.reqAt m)).answer (s.reqAt m) code) m code 0 0 0 0 ∧
      s.onlyAnswered ((s.take (s.reqAt m)).answer (s.reqAt m) code) m [] := by
  let v := s.take (s.reqAt m)
  have hlen : m < v.mbx.length := by simpa [v, State.take] using h.lt
  have hbox : (v.unreserved m).mbxAt m = { s.mbxAt m with reqHead := (s.mbxAt m).reqHead + 1, entries := (s.mbxAt m).entries } := by
    refine (v.onMbx_mbxAt m m _).trans ((if_pos ⟨rfl, hlen⟩).trans ?_)
    rw [State.take_mbxAt_twice h.lt ht]
    rfl
  have hother (k : Nat) (hk : k ≠ m) : (v.unreserved m).mbxAt k = s.mbxAt k :=
    ((v.onMbx_mbxAt m k _).trans (if_neg fun hc => hk hc.1.symm)).trans (s.take_mbxAt_other hk)
  have heq : v.answer (s.reqAt m) code = (v.unreserved m).posted (s.reqAt m) code 0 0 0 0 :=
    State.complete_refused ht hcode h.works (by rw [show (s.reqAt m).mbox = m from rfl, hbox]; exact h.overrun)
      (by rw [show (s.reqAt m).mbox = m from rfl, hbox]; exact h.resetBusy)
  obtain ⟨hc, -, hothers, hkol⟩ := h.posted_completed (by simpa [State.unreserved] using hlen) hbox rfl code 0 0 0 0
  rw [← heq] at hc hothers hkol
  exact ⟨hc, fun k hk => (hothers k hk).trans (hother k hk), hkol, (s.keeps_take _).trans (State.keeps_complete _ _ _ _ _ _ _)⟩

/-! ## The named sequencers -/

theorem mem_seqsOf {mask n q : Nat} (hmask : mask < 2 ^ n) (hn : n ≤ 8) : q ∈ seqsOf mask ↔ mask.testBit q = true := by
  simp only [seqsOf, List.mem_filter, List.mem_range, and_iff_right_iff_imp]
  intro hbit
  by_contra hq
  rw [Nat.testBit_lt_two_pow (lt_of_lt_of_le hmask (Nat.pow_le_pow_right (by decide) (by omega)))] at hbit
  exact absurd hbit Bool.false_ne_true

theorem lt_of_testBit {mask n q : Nat} (hmask : mask < 2 ^ n) (hbit : mask.testBit q = true) : q < n := by
  by_contra hq
  rw [Nat.testBit_lt_two_pow (lt_of_lt_of_le hmask (Nat.pow_le_pow_right (by decide) (by omega)))] at hbit
  exact absurd hbit Bool.false_ne_true

theorem seqsOf_nodup (mask : Nat) : (seqsOf mask).Nodup := List.nodup_range.filter _

/-- One change of each sequencer of a list without repetitions. -/
theorem State.foldl_onSeq_seqAt (f : Sequencer → Sequencer) : ∀ (qs : List Nat) (s : State), qs.Nodup → (∀ q ∈ qs, q < s.seqs.length) →
    ∀ k, (qs.foldl (fun s q => s.onSeq q f) s).seqAt k = if k ∈ qs then f (s.seqAt k) else s.seqAt k
  | [], _, _, _, _ => (if_neg List.not_mem_nil).symm
  | q :: qs, s, hnd, hlt, k => by
    obtain ⟨hq, hqs⟩ := List.nodup_cons.1 hnd
    have ih := State.foldl_onSeq_seqAt f qs (s.onSeq q f) hqs (fun p hp => by simpa using hlt p (List.mem_cons_of_mem _ hp)) k
    rw [List.foldl_cons, ih]
    by_cases hk : k = q
    · subst hk
      rw [if_neg hq, if_pos List.mem_cons_self, State.onSeq_seqAt_self f (hlt k List.mem_cons_self)]
    · rw [State.onSeq_seqAt_other f hk]
      simp only [List.mem_cons, hk, false_or]

/-! ## Queueing a release (R187, R192), and the stall (R129) -/

/-- A sequencer to whose run queue a release is added: an armed bank is swapped in first. -/
def Sequencer.withRelease (x : Sequencer) (r : Req) (stopAt : Option Nat) (snap : Nat) : Sequencer :=
  let y := if x.load = .armed then x.swapBanks else x
  { y with runq := y.runq ++ [.release (r.arg 2).toNat ((r.arg 1 >>> 8).setWidth 8) stopAt snap r.mbox r.tag] }

/-- The control core once a request waits for its release. -/
def Kolate.withEpoch (k : Kolate) (r : Req) (mask : Nat) : Kolate :=
  { k with held := none, waiting := k.waiting ++ [r]
           epochs := k.epochs ++ [⟨r.mbox, r.tag, (r.arg 2).toNat, (r.arg 1 >>> 8).setWidth 8, false, false,
             (seqsOf mask).map fun q => ⟨q, false, false, 0, 0⟩⟩] }

theorem State.queueEpoch_room {r : Req} {mask : Nat} {stopAt : Option Nat} {snap : Nat} (hlen : s.seqs.length = s.cfg.nSeq) (hmask : mask < 2 ^ s.cfg.nSeq)
    (hroom : ∀ q, mask.testBit q = true → (s.seqAt q).runq.length < 8) :
    let t := s.queueEpoch r mask (r.arg 2).toNat stopAt snap
    (∀ q, t.seqAt q = if mask.testBit q then (s.seqAt q).withRelease r stopAt snap else s.seqAt q) ∧ t.kol = s.kol.withEpoch r mask ∧
      s.keeps t [.kol, .seqs] := by
  have hmem (q : Nat) := mem_seqsOf (q := q) hmask (nSeq_le s.cfg)
  have hany : (seqsOf mask).any (fun q => decide (8 ≤ (s.seqAt q).runq.length)) = false := by
    simp only [List.any_eq_false, hmem, decide_eq_true_eq, Nat.not_le]
    exact hroom
  let u := (seqsOf mask).foldl (fun s q => s.onSeq q fun x => x.withRelease r stopAt snap) s
  have hu : s.keeps u [.seqs] := State.keeps_foldl _ (fun s q => s.keeps_onSeq q _) _ _
  have heq : s.queueEpoch r mask (r.arg 2).toNat stopAt snap = u.onKol fun k => k.withEpoch r mask := by
    unfold State.queueEpoch
    dsimp only
    rw [hany, if_neg Bool.false_ne_true]
    rfl
  intro t
  rw [show t = _ from heq]
  refine ⟨fun q => ?_, congrArg (fun k : Kolate => k.withEpoch r mask) hu.kol, (hu.andThen (u.keeps_onKol _)).mono (by decide)⟩
  have hq := State.foldl_onSeq_seqAt (fun x => x.withRelease r stopAt snap) (seqsOf mask) s (seqsOf_nodup mask)
    (fun q hq => by rw [hlen]; exact lt_of_testBit hmask ((hmem q).1 hq)) q
  simp only [hmem] at hq
  exact hq

theorem State.queueEpoch_full {r : Req} {mask start : Nat} {stopAt : Option Nat} {snap : Nat} (hmask : mask < 2 ^ s.cfg.nSeq)
    (hfull : ∃ q, mask.testBit q = true ∧ 8 ≤ (s.seqAt q).runq.length) : s.queueEpoch r mask start stopAt snap = s.stall := by
  obtain ⟨q, hbit, hlong⟩ := hfull
  have hany : (seqsOf mask).any (fun q => decide (8 ≤ (s.seqAt q).runq.length)) = true :=
    List.any_eq_true.2 ⟨q, (mem_seqsOf hmask (nSeq_le s.cfg)).2 hbit, decide_eq_true hlong⟩
  rw [State.queueEpoch, hany, if_pos rfl]

/-! ## The checks of R121 -/

/-- Has a sequencer cores, a live domain, and a program to run? -/
def State.armedFor (s : State) (q : Nat) : Prop :=
  partPens (s.partAt q).words ≠ 0 ∧ (s.partAt q).live = true ∧ ((s.seqAt q).load = .armed ∨ (s.seqAt q).imgLen.getD (s.seqAt q).activeBank 0 ≠ 0)

/-- A mask that may be named passes its check. -/
theorem State.maskCheck_named {mask : Nat} (hmask : mask < 2 ^ s.cfg.nSeq) (hmay : (s.issuer (s.reqAt m)).all (fun d => mask == 2 ^ d || mask == 0) = true)
    (hlocked : s.unlocked 2 = false) : (s.take (s.reqAt m)).maskCheck (s.reqAt m) mask = 0 := by
  have hlocked' : (s.take (s.reqAt m)).unlocked 2 = false := hlocked
  rw [State.maskCheck, if_neg (by exact Nat.not_le.2 hmask), if_neg, hlocked', if_neg Bool.false_ne_true]
  rw [s.take_issuer]
  cases hi : s.issuer (s.reqAt m) with
  | none => simp
  | some d =>
    rw [hi] at hmay
    simp only [Option.all_some, Bool.or_eq_true, beq_iff_eq] at hmay
    rcases hmay with hmay | hmay <;> simp [hmay]

/-- What R121 asks of the named sequencers comes down to armed programs and the notice. -/
theorem State.runCheck_free {mask start : Nat} (hmask : mask < 2 ^ s.cfg.nSeq) (hne : mask ≠ 0) (hgrid : start % s.cfg.nSlice = 0)
    (hsync : s.clk.rackSynced = true) (hidle : ∀ q, mask.testBit q = true → (s.seqAt q).busy = false) :
    ((∃ q, mask.testBit q = true ∧ ¬ s.armedFor q) → s.runCheck mask start = rNotArmed) ∧
      ((∀ q, mask.testBit q = true → s.armedFor q) → s.runCheck mask start = if start < s.clk.rackTime + 16000 then rLate else 0) := by
  have hmem (q : Nat) := mem_seqsOf (q := q) hmask (nSeq_le s.cfg)
  have hbusy : (seqsOf mask).any (fun q => (s.seqAt q).busy) = false := by
    simp only [List.any_eq_false, hmem]
    exact fun q hq => by rw [hidle q hq]; exact Bool.false_ne_true
  have hunarmed (q : Nat) : (partPens (s.partAt q).words = 0 || !(s.partAt q).live ||
      ((s.seqAt q).load != .armed && (s.seqAt q).imgLen.getD (s.seqAt q).activeBank 0 == 0)) = true ↔ ¬ s.armedFor q := by
    simp only [State.armedFor, Bool.or_eq_true, Bool.and_eq_true, decide_eq_true_eq, Bool.not_eq_true', bne_iff_ne, beq_iff_eq, not_and_or, not_or,
      not_not, Bool.not_eq_true, or_assoc, ne_eq]
  unfold State.runCheck
  dsimp only
  rw [if_neg (by simp [hne, hgrid]), hsync, Bool.not_true, if_neg Bool.false_ne_true, hbusy, if_neg Bool.false_ne_true]
  refine ⟨fun ⟨q, hbit, hq⟩ => if_pos (List.any_eq_true.2 ⟨q, (hmem q).2 hbit, (hunarmed q).2 hq⟩), fun hall => if_neg ?_⟩
  simp only [List.any_eq_true, hmem, hunarmed, not_exists, not_and, not_not]
  exact hall

/-! ## EPOCH_RUN and RUN_PREFIX -/

/-- What an accepted request of mask and start goes on to: the checks of R121, and the queued releases. -/
def State.runOrQueue (s : State) (r : Req) (mask : Nat) (stopAt : Option Nat) (snap : Nat) : State :=
  if s.runCheck mask (r.arg 2).toNat ≠ 0 then s.answer r (s.runCheck mask (r.arg 2).toNat) else s.queueEpoch r mask (r.arg 2).toNat stopAt snap

theorem State.runOrQueue_refused {r : Req} {mask code : Nat} {stopAt : Option Nat} {snap : Nat} (h : s.runCheck mask (r.arg 2).toNat = code)
    (hcode : code ≠ 0) : s.runOrQueue r mask stopAt snap = s.answer r code := by
  rw [State.runOrQueue, h, if_pos hcode]

theorem State.runOrQueue_accepted {r : Req} {mask : Nat} {stopAt : Option Nat} {snap : Nat} (h : s.runCheck mask (r.arg 2).toNat = 0) :
    s.runOrQueue r mask stopAt snap = s.queueEpoch r mask (r.arg 2).toNat stopAt snap := by
  rw [State.runOrQueue, h, if_neg (not_not.2 rfl)]

theorem State.mbxAt_of_mbx {t : State} (h : t.mbx = s.mbx) (k : Nat) : t.mbxAt k = s.mbxAt k := by
  unfold State.mbxAt
  rw [h]

theorem runEpochRun_named {r : Req} {mask : Nat} (s : State) (hm : field (r.arg 1) 0 8 = mask) (hcheck : s.maskCheck r mask = 0)
    (hhalt : s.aon.boundaryHalt = 0) : runEpochRun r s = s.runOrQueue r mask none 0 := by
  subst hm
  simp only [runEpochRun, hcheck, hhalt, ne_eq, not_true, if_false, State.runOrQueue, State.queueRun]

theorem runRunPrefix_named {r : Req} {mask snap : Nat} (s : State) (hm : field (r.arg 1) 0 8 = mask) (hs : field (r.arg 4) 0 12 = snap)
    (hcheck : s.maskCheck r mask = 0) (hhalt : s.aon.boundaryHalt = 0) (h8 : snap % 8 = 0) (hfit : snap + 256 * (seqsOf mask).length ≤ 0x1000) :
    runRunPrefix r s = s.runOrQueue r mask (some (field (r.arg 3) 0 32)) snap := by
  subst hm hs
  unfold runRunPrefix
  dsimp only
  rw [hcheck, if_neg (not_not.2 rfl), if_neg (by omega), if_neg (not_not.2 hhalt)]
  rfl

/-- A row whose request is served takes it, for no request is held. -/
theorem ronnoEntry_served {op : Nat} {pick : State → Req → Bool} (run add : Req → State → State) (h : s.serves m op = true)
    (hp : pick s (s.reqAt m) = true) : ronnoEntry m pick run add s = .next (run (s.reqAt m) (s.take (s.reqAt m))) := by
  rw [ronnoEntry, (State.serves_offers h).held]
  exact ronno_served run h hp

/-- A row whose request is held goes on with it, once the stall has ended. -/
theorem ronnoEntry_held {r : Req} {pick : State → Req → Bool} (run add : Req → State → State) (hheld : s.kol.held = some r)
    (hworks : s.kol.works = true) (hstall : s.kol.stalled = false) (hp : pick s r = true) :
    ronnoEntry r.mbox pick run add s = .next (add r s) := by
  rw [ronnoEntry, hheld]
  exact whenTrue_of (by simp [hworks, hstall, hp]) _ _

/-- Settles O30: the checks of R121 on the named sequencers, then one release for each of them, or the stall where a run queue is full. -/
theorem epochRequestsQueueReleases : Obligations.EpochRequestsQueueReleases := by
  unfold Obligations.EpochRequestsQueueReleases
  intro queued
  refine ⟨?served, ?held⟩
  case served =>
    intro m s mask start named free armed took cases
    have main {op : Nat} (h : s.serves m op = true) (ht : (s.reqAt m).twice = true) (hfree : free) (stopAt : Option Nat) (snap : Nat) :
        cases ((s.take (s.reqAt m)).runOrQueue (s.reqAt m) mask stopAt snap) stopAt snap := by
      obtain ⟨hne, hmask, hmay, hlocked, hhalt, hgrid, hsync, hidle⟩ := hfree
      have ho := State.serves_offers h
      obtain ⟨-, hshape, -⟩ := (s.serves_iff m op).1 h
      obtain ⟨hnot, hall⟩ := State.runCheck_free (s := s.take (s.reqAt m)) hmask hne hgrid hsync hidle
      have kept {t : State} {l : List Field} (hk : (s.take (s.reqAt m)).keeps t l) (hl : ∀ f ∈ l, f ∈ [Field.kol, .seqs]) : took t := by
        have hbox (k : Nat) : t.mbxAt k = (s.take (s.reqAt m)).mbxAt k :=
          State.mbxAt_of_mbx (hk.mbx fun hc => absurd (hl _ hc) (by decide)) k
        refine ⟨(hbox m).trans (State.take_mbxAt_twice ho.lt ht), fun k hkm => (hbox k).trans (s.take_mbxAt_other hkm), ?_⟩
        exact ((s.keeps_take _).andThen hk).mono fun f hf => (List.mem_append.1 hf).elim
          (fun h => List.mem_append_left [Field.seqs] h) fun h => List.mem_cons_of_mem Field.mbx (hl f h)
      refine ⟨fun hbad => ?_, fun harm hlate => ?_, fun harm htime hroom => ?_, fun harm htime hfull => ?_⟩
      · rw [State.runOrQueue_refused (r := s.reqAt m) (hnot hbad) (by decide)]
        exact ho.refused ht (by decide)
      · rw [State.runOrQueue_refused (r := s.reqAt m) ((hall harm).trans (if_pos hlate)) (by decide)]
        exact ho.refused ht (by decide)
      · rw [State.runOrQueue_accepted (r := s.reqAt m) ((hall harm).trans (if_neg (Nat.not_lt.2 htime)))]
        obtain ⟨hseq, hkol, hk⟩ := State.queueEpoch_room (s := s.take (s.reqAt m)) (r := s.reqAt m) (stopAt := stopAt) (snap := snap)
          (State.shaped_seqs (s := s) hshape) hmask hroom
        exact ⟨⟨hseq, by rw [hkol]; rfl, by rw [hkol]; rfl, by rw [hkol]; rfl⟩, kept hk fun f hf => hf⟩
      · rw [State.runOrQueue_accepted (r := s.reqAt m) ((hall harm).trans (if_neg (Nat.not_lt.2 htime))),
          State.queueEpoch_full (s := s.take (s.reqAt m)) hmask hfull]
        exact ⟨rfl, rfl, rfl, rfl, kept (State.keeps_onKol _ _) (by decide)⟩
    have named' (hmay : (s.issuer (s.reqAt m)).all (fun d => mask == 2 ^ d) = true) :
        (s.issuer (s.reqAt m)).all (fun d => mask == 2 ^ d || mask == 0) = true := by
      cases hi : s.issuer (s.reqAt m) with
      | none => rfl
      | some d =>
        rw [hi] at hmay
        exact Bool.or_eq_true_iff.2 (.inl hmay)
    have twice {op : Nat} (h : s.serves m op = true) (hop : op = 0x13 ∨ op = 0x14) : (s.reqAt m).twice = true := by
      obtain ⟨-, -, -, -, hopc, -⟩ := (s.serves_iff m op).1 h
      simp only [Req.twice, Bool.or_eq_true, beq_iff_eq]
      exact hop.imp (fun h => BitVec.eq_of_toNat_eq (hopc.trans h)) fun h => BitVec.eq_of_toNat_eq (hopc.trans h)
    refine ⟨fun h hfree => ?_, fun h hfree => ?_⟩
    · refine ⟨_, ronnoEntry_served runEpochRun (fun r s => s.queueRun r) h (pickOp_reqAt h), ?_⟩
      obtain ⟨hne, hmask, hmay, hlocked, hhalt, hrest⟩ := id hfree
      rw [runEpochRun_named (mask := mask) _ rfl (State.maskCheck_named hmask (named' hmay) hlocked) hhalt]
      exact main h (twice h (.inl rfl)) hfree none 0
    · intro snap h8 hfit
      refine ⟨_, ronnoEntry_served runRunPrefix (fun r s => s.queuePrefix r) h (pickOp_reqAt h), ?_⟩
      obtain ⟨hne, hmask, hmay, hlocked, hhalt, hrest⟩ := id hfree
      rw [runRunPrefix_named (mask := mask) (snap := snap) _ rfl rfl (State.maskCheck_named hmask (named' hmay) hlocked) hhalt h8 hfit]
      exact main h (twice h (.inr rfl)) hfree _ snap
  case held =>
    intro r s hheld hworks hstall hshape hmask hroom
    have main (stopAt : Option Nat) (snap : Nat) : queued s (s.queueEpoch r (field (r.arg 1) 0 8) (r.arg 2).toNat stopAt snap) r stopAt snap ∧
        s.keeps (s.queueEpoch r (field (r.arg 1) 0 8) (r.arg 2).toNat stopAt snap) [.kol, .seqs] := by
      obtain ⟨hseq, hkol, hk⟩ := State.queueEpoch_room (r := r) (stopAt := stopAt) (snap := snap) (State.shaped_seqs hshape) hmask hroom
      exact ⟨⟨hseq, by rw [hkol]; rfl, by rw [hkol]; rfl, by rw [hkol]; rfl⟩, hk⟩
    refine ⟨fun hop => ⟨_, ronnoEntry_held runEpochRun (fun r s => s.queueRun r) hheld hworks hstall (pick := pickOp 0x13) ?_, main _ _⟩,
      fun hop => ⟨_, ronnoEntry_held runRunPrefix (fun r s => s.queuePrefix r) hheld hworks hstall (pick := pickOp 0x14) ?_, main _ _⟩⟩ <;>
      simp [pickOp, hop]

end Sys2Proof.Machine
end

section
/-! PROOFS. The control core's records of requests that wait for their releases: what answers do to them (07 R187). The release of an epoch
(04 R116, R129; 05 R136; 06 R182; 07 R187, R211; 16 R387, R402). -/

namespace Sys2Proof.Machine

variable {s : State}

/-! ## The records of requests -/

/-- A request's record later on: it is the same request's, and no part that has ended is open again. -/
def EpochReq.later (e e' : EpochReq) : Prop :=
  e'.mbox = e.mbox ∧ e'.tag = e.tag ∧ e'.start = e.start ∧ ∀ p' ∈ e'.parts, ∃ p ∈ e.parts, p'.seq = p.seq ∧ (p.done = true → p'.done = true)

theorem EpochReq.later_refl (e : EpochReq) : EpochReq.later e e := ⟨rfl, rfl, rfl, fun p hp => ⟨p, hp, rfl, id⟩⟩

theorem EpochReq.later_trans {e f g : EpochReq} (h : EpochReq.later e f) (k : EpochReq.later f g) : EpochReq.later e g := by
  obtain ⟨hm, ht, hs, hp⟩ := h
  obtain ⟨km, kt, ks, kp⟩ := k
  refine ⟨km.trans hm, kt.trans ht, ks.trans hs, fun z hz => ?_⟩
  obtain ⟨y, hy, hyseq, hydone⟩ := kp z hz
  obtain ⟨x, hx, hxseq, hxdone⟩ := hp y hy
  exact ⟨x, hx, hyseq.trans hxseq, fun hd => hydone (hxdone hd)⟩

/-- Parts that change one by one, and of which none is opened again. -/
theorem EpochReq.later_map_parts (e : EpochReq) (f : EpochPart → EpochPart) (hf : ∀ p, (f p).seq = p.seq ∧ (p.done = true → (f p).done = true)) :
    EpochReq.later e { e with parts := e.parts.map f } := by
  refine ⟨rfl, rfl, rfl, fun p' hp' => ?_⟩
  obtain ⟨p, hp, rfl⟩ := List.mem_map.1 hp'
  exact ⟨p, hp, hf p⟩

/-- The control core has gone on with its records of requests, and with nothing else. -/
structure Kolate.goesOn (k k' : Kolate) : Prop where
  later : ∀ e' ∈ k'.epochs, ∃ e ∈ k.epochs, EpochReq.later e e'
  rest : k' = { k with epochs := k'.epochs }

theorem Kolate.goesOn_refl (k : Kolate) : Kolate.goesOn k k := ⟨fun e he => ⟨e, he, EpochReq.later_refl e⟩, rfl⟩

theorem Kolate.goesOn.trans {j k l : Kolate} (h : Kolate.goesOn j k) (h' : Kolate.goesOn k l) : Kolate.goesOn j l := by
  refine ⟨fun e he => ?_, by rw [h'.rest, h.rest]⟩
  obtain ⟨f, hf, hlater⟩ := h'.later e he
  obtain ⟨g, hg, hlater'⟩ := h.later f hf
  exact ⟨g, hg, EpochReq.later_trans hlater' hlater⟩

theorem Kolate.goesOn_map (k : Kolate) {f : EpochReq → EpochReq} (hf : ∀ e, EpochReq.later e (f e)) :
    Kolate.goesOn k { k with epochs := k.epochs.map f } := by
  refine ⟨fun e' he' => ?_, rfl⟩
  obtain ⟨e, he, rfl⟩ := List.mem_map.1 he'
  exact ⟨e, he, hf e⟩

theorem Kolate.goesOn_filter (k : Kolate) (p : EpochReq → Bool) : Kolate.goesOn k { k with epochs := k.epochs.filter p } :=
  ⟨fun e he => ⟨e, List.mem_of_mem_filter he, EpochReq.later_refl e⟩, rfl⟩

theorem Kolate.goesOn.waiting {k k' : Kolate} (h : Kolate.goesOn k k') : k'.waiting = k.waiting := by rw [h.rest]

theorem Kolate.goesOn.stalled {k k' : Kolate} (h : Kolate.goesOn k k') : k'.stalled = k.stalled := by rw [h.rest]

/-! ## Answers and their records -/

/-- A mailbox reset that ends mutes the requests of its mailbox. -/
theorem State.finishReset_kol (s : State) (m : Nat) : Kolate.goesOn s.kol (s.finishReset m).kol := by
  refine Kolate.goesOn_map s.kol fun e => ?_
  split_ifs
  · exact ⟨rfl, rfl, rfl, fun p hp => ⟨p, hp, rfl, id⟩⟩
  · exact EpochReq.later_refl e

/-- A completion lets its request go, and may end a mailbox reset. -/
theorem State.complete_kol (s : State) (r : Req) (code detail : Nat) (r1 r2 r3 : Word) :
    Kolate.goesOn (s.kol.letGo r) (s.complete r code detail r1 r2 r3).kol := by
  unfold State.complete
  extract_lets twice u v w
  have hv : v.kol = s.kol := by
    refine (State.keeps_post u r.mbox _).kol.trans ?_
    simp only [u]
    split_ifs <;> rfl
  have hw : w.kol = s.kol.letGo r := congrArg (fun k => Kolate.letGo k r) hv
  rw [← hw]
  split_ifs
  · exact w.finishReset_kol _
  · exact Kolate.goesOn_refl _

theorem State.postEnds_kol (s : State) : Kolate.goesOn s.kol s.postEnds.kol := by
  unfold State.postEnds
  extract_lets done post ended u
  have hpost (v : State) (e : EpochReq) : v.keeps (post v e) [.mbx, .gln] :=
    State.keeps_ite (v.keeps_refl _) ((((v.keeps_onMbx _ _).andThen (State.keeps_post _ _ _)).andThen (State.keeps_event _ _ _ _ _)).mono (by decide))
  rw [(State.keeps_foldl post hpost ended u).kol]
  exact s.kol.goesOn_filter _

theorem State.endPart_kol (s : State) (q : Nat) (r : Run) (aborted : Bool) (detail time : Nat) :
    Kolate.goesOn s.kol (s.endPart q r aborted detail time).kol := by
  unfold State.endPart
  extract_lets upd
  refine (Kolate.goesOn_map s.kol (f := upd) fun e => ?_).trans
    (State.postEnds_kol (s.onKol fun k => { k with epochs := k.epochs.map upd }))
  simp only [upd]
  split_ifs
  · refine EpochReq.later_map_parts e _ fun p => ?_
    split_ifs
    · exact ⟨rfl, fun _ => rfl⟩
    · exact ⟨rfl, id⟩
  · exact EpochReq.later_refl e

/-- The request that waits for a release of its mailbox and tag. -/
def State.waitsFor (s : State) (mbox : Nat) (tag : BitVec 16) : Option Req := s.kol.waiting.find? fun r => r.mbox == mbox && r.tag == tag

/-- The answer of a release: the stall ends, and the request waits no longer. -/
theorem State.answerRelease_kol (s : State) (start mbox : Nat) (tag : BitVec 16) :
    let t := s.answerRelease start mbox tag
    t.kol.stalled = false ∧ (∀ w, s.waitsFor mbox tag = some w → t.kol.waiting = s.kol.waiting.erase w) ∧
      ∀ e' ∈ t.kol.epochs, ∃ e ∈ s.kol.epochs, EpochReq.later e e' := by
  intro t
  let k : Kolate := { s.kol with
    stalled := false
    epochs := s.kol.epochs.map fun e => if e.mbox = mbox ∧ e.tag = tag ∧ e.start = start then { e with released := true } else e }
  have hk : ∀ e' ∈ k.epochs, ∃ e ∈ s.kol.epochs, EpochReq.later e e' := by
    refine (Kolate.goesOn_map s.kol fun e => ?_).later
    split_ifs
    · exact ⟨rfl, rfl, rfl, fun p hp => ⟨p, hp, rfl, id⟩⟩
    · exact EpochReq.later_refl e
  have later {k' : Kolate} (h : ∀ e' ∈ k'.epochs, ∃ e ∈ k.epochs, EpochReq.later e e') :
      ∀ e' ∈ k'.epochs, ∃ e ∈ s.kol.epochs, EpochReq.later e e' := by
    intro e' he'
    obtain ⟨f, hf, hlater⟩ := h e' he'
    obtain ⟨e, he, hlater'⟩ := hk f hf
    exact ⟨e, he, EpochReq.later_trans hlater' hlater⟩
  have ht : t = match s.waitsFor mbox tag with
    | some r => (s.onKol fun _ => k).complete r 0 0 (word start) 0 0
    | none => s.onKol fun _ => k := rfl
  cases hw : s.waitsFor mbox tag with
  | none =>
    rw [hw] at ht
    rw [ht]
    exact ⟨rfl, nofun, hk⟩
  | some w =>
    rw [hw] at ht
    rw [ht]
    have hgo := (s.onKol fun _ => k).complete_kol w 0 0 (word start) 0 0
    refine ⟨hgo.stalled, fun w' hw' => ?_, later hgo.later⟩
    obtain rfl := Option.some.inj hw'
    exact hgo.waiting

/-! ## An epoch that stops where it starts (R122, R212) -/

theorem State.keeps_writeData (s : State) (m off : Nat) (ws : List Word) : s.keeps (s.writeData m off ws) [.mbx] :=
  State.keeps_ite (s.keeps_refl _) (s.keeps_onMbx _ _)

theorem State.keeps_endPart (s : State) (q : Nat) (r : Run) (aborted : Bool) (detail time : Nat) :
    s.keeps (s.endPart q r aborted detail time) [.kol, .mbx, .gln] :=
  ((s.keeps_onKol _).andThen (State.keeps_postEnds _)).mono (by decide)

/-- A stop marks its sequencer, writes the snapshot, and ends the part of the request. -/
theorem State.stopEpoch_spec (s : State) (q stop time : Nat) :
    let t := s.stopEpoch q stop time
    s.keeps t [.seqs, .kol, .mbx, .gln] ∧ Kolate.goesOn s.kol t.kol ∧ (∀ k, k ≠ q → t.seqAt k = s.seqAt k) ∧
      t.seqAt q = { s.seqAt q with stopped := (t.seqAt q).stopped } := by
  intro t
  cases hr : (s.seqAt q).run with
  | none =>
    have ht : t = s := by simp only [t, State.stopEpoch, hr]
    rw [ht]
    exact ⟨s.keeps_refl _, Kolate.goesOn_refl _, fun _ _ => rfl, rfl⟩
  | some r =>
    let u := s.writeData r.mbox (s.snapOffset q r stop) (s.prefixSnap q stop time)
    let v := u.onSeq q fun x => { x with stopped := true }
    have hu : s.keeps u [.mbx] := s.keeps_writeData _ _ _
    have ht : t = v.endPart q r false (if stop = 1 then 1 else 2) time := by simp only [t, State.stopEpoch, hr, u, v]
    have hv := v.keeps_endPart q r false (if stop = 1 then 1 else 2) time
    have hgo := v.endPart_kol q r false (if stop = 1 then 1 else 2) time
    rw [← ht] at hv hgo
    have hkol : v.kol = s.kol := hu.kol
    have hseq (k : Nat) : t.seqAt k = v.seqAt k := State.seqAt_of_seqs hv.seqs k
    have hsame (k : Nat) : u.seqAt k = s.seqAt k := State.seqAt_of_seqs hu.seqs k
    refine ⟨((hu.andThen (u.keeps_onSeq q _)).andThen hv).mono (by decide), hkol ▸ hgo,
      fun k hk => (hseq k).trans ((u.onSeq_seqAt_other _ hk).trans (hsame k)), ?_⟩
    rw [hseq q, ← hsame q, u.onSeq_seqAt q q]
    split_ifs <;> rfl

theorem State.checkStop_spec (s : State) (q : Nat) :
    let t := s.checkStop q
    s.keeps t [.seqs, .kol, .mbx, .gln] ∧ Kolate.goesOn s.kol t.kol ∧ (∀ k, k ≠ q → t.seqAt k = s.seqAt k) ∧
      t.seqAt q = { s.seqAt q with stopped := (t.seqAt q).stopped } := by
  have hsame : s.keeps s [.seqs, .kol, .mbx, .gln] ∧ Kolate.goesOn s.kol s.kol ∧ (∀ k, k ≠ q → s.seqAt k = s.seqAt k) ∧
      s.seqAt q = { s.seqAt q with stopped := (s.seqAt q).stopped } := ⟨s.keeps_refl _, Kolate.goesOn_refl _, fun _ _ => rfl, rfl⟩
  unfold State.checkStop
  split
  · dsimp only
    split_ifs
    all_goals first | exact s.stopEpoch_spec q _ _ | exact hsame
  · exact hsame

/-! ## The release (R136, R182, R387) -/

/-- A sequencer without its RELEASE entry. -/
def Sequencer.unqueued (x : Sequencer) : Sequencer := { x with runq := x.runq.filter fun y => !y.isRelease }

theorem Sequencer.unqueued_isRelease (x : Sequencer) : x.unqueued.runq.any RunEntry.isRelease = false := by
  simp [Sequencer.unqueued]

/-- The state in which an epoch's RELEASE entry has been taken and its request answered. -/
def State.releaseTaken (s : State) (q start mbox : Nat) (tag : BitVec 16) : State :=
  (s.onSeq q Sequencer.unqueued).answerRelease start mbox tag

/-- The state in which the domain's epoch has started, and the ledger and the pens are ready for it. -/
def State.releaseReady (s : State) (q start : Nat) (epoch : BitVec 8) (mbox : Nat) (tag : BitVec 16) : State :=
  let u := (s.releaseTaken q start mbox tag).onDom q fun c => c.release epoch
  let v := if (s.domAt q).pendingJob.isSome then u.refreshFps else u
  (v.zeroTallies (v.activeProgram q)).clearSheaves q

/-- The run of an epoch that is released in a state that is ready for it. -/
def State.newRun (s : State) (q start : Nat) (epoch : BitVec 8) (stopAt : Option Nat) (snap mbox : Nat) (tag : BitVec 16) (brk : Option Break) : Run :=
  let r : Run := { Run.initial with start := start, epoch := epoch, mbox := mbox, tag := tag, stopAt := stopAt, snap := snap, brk := brk
                                    tally0 := (s.runEntries q).map fun e => (e, (s.entry e).tally), words := s.wordsOf q }
  { r with timing := Timing.start (s.runEnv q r) }

theorem State.releaseEpoch_eq (s : State) (q start : Nat) (epoch : BitVec 8) (stopAt : Option Nat) (snap mbox : Nat) (tag : BitVec 16) :
    s.releaseEpoch q start epoch stopAt snap mbox tag =
      ((s.releaseReady q start epoch mbox tag).onSeq q fun x =>
        x.release ((s.releaseReady q start epoch mbox tag).newRun q start epoch stopAt snap mbox tag (s.seqAt q).brk)).checkStop q := rfl

theorem State.keeps_zeroTallies (s : State) (cs : List Cmd) : s.keeps (s.zeroTallies cs) [.ledger] :=
  State.keeps_foldl _ (fun s e => s.keeps_setEntry e _) _ _

theorem State.keeps_releaseTaken (s : State) (q start mbox : Nat) (tag : BitVec 16) : s.keeps (s.releaseTaken q start mbox tag) [.seqs, .kol, .mbx] :=
  (s.keeps_onSeq q _).andThen (State.keeps_answerRelease _ _ _ _)

/-- What happens between the taking of the entry and the sequencer's start. -/
theorem State.releaseTaken_keeps_ready (s : State) (q start : Nat) (epoch : BitVec 8) (mbox : Nat) (tag : BitVec 16) :
    (s.releaseTaken q start mbox tag).keeps (s.releaseReady q start epoch mbox tag) [.coll, .ledger, .cores] := by
  unfold State.releaseReady
  extract_lets u v
  have hv : u.keeps v [.coll] := State.keeps_ite u.refreshFps_spec.2 (u.keeps_refl _)
  exact (((State.keeps_onDom _ q _).andThen hv).andThen ((v.keeps_zeroTallies _).andThen (State.keeps_onCores _ _))).mono (by decide)

theorem State.releaseReady_domAt {q start mbox : Nat} {epoch : BitVec 8} {tag : BitVec 16} (hq : q < s.coll.doms.length) :
    let c := (s.releaseReady q start epoch mbox tag).domAt q
    c = { (s.domAt q).release epoch with fingerprint := c.fingerprint } := by
  intro c
  let b := s.releaseTaken q start mbox tag
  let u := b.onDom q fun c => c.release epoch
  let v := if (s.domAt q).pendingJob.isSome then u.refreshFps else u
  have hb : b.coll = s.coll := (s.keeps_releaseTaken q start mbox tag).coll
  have hu : u.domAt q = (s.domAt q).release epoch := by
    rw [State.onDom_domAt, if_pos ⟨rfl, by rw [hb]; exact hq⟩, State.domAt_of_doms (congrArg Coll.doms hb)]
  have hv : u.onlyFps v := by
    simp only [v]
    split_ifs
    · exact u.refreshFps_spec.1
    · exact State.onlyFps_of_coll rfl
  have hc : c = v.domAt q :=
    State.domAt_of_doms (congrArg Coll.doms ((v.keeps_zeroTallies (v.activeProgram q)).andThen (State.keeps_onCores _ _)).coll) q
  rw [hc, hv q, hu]

theorem State.wordsOf_of_parts {t : State} (h : t.parts = s.parts) (d : Nat) : t.wordsOf d = s.wordsOf d := by
  unfold State.wordsOf State.partAt
  rw [h]

/-- The sheaves of the domain's pens are zero. -/
theorem State.releaseReady_sheaves (s : State) (q start : Nat) (epoch : BitVec 8) (mbox : Nat) (tag : BitVec 16) (b : Nat) :
    let lo := 65536 * (partFirstPen (s.wordsOf q) % max s.cfg.nPen 1 * 16)
    lo ≤ b → b < lo + 65536 * 16 * partPens (s.wordsOf q) → (s.releaseReady q start epoch mbox tag).cores.sheaves.read b = 0 := by
  intro lo hlo hhi
  let u := (s.releaseTaken q start mbox tag).onDom q fun c => c.release epoch
  let v := if (s.domAt q).pendingJob.isSome then u.refreshFps else u
  let w := v.zeroTallies (v.activeProgram q)
  have hw : s.keeps w [.seqs, .kol, .mbx, .coll, .ledger] :=
    ((((s.keeps_releaseTaken q start mbox tag).andThen (State.keeps_onDom _ q _)).andThen
      (State.keeps_ite u.refreshFps_spec.2 (u.keeps_refl _))).andThen (v.keeps_zeroTallies _)).mono (by decide)
  have hwords : w.wordsOf q = s.wordsOf q := State.wordsOf_of_parts hw.parts q
  show (w.clearSheaves q).cores.sheaves.read b = 0
  simp only [State.clearSheaves, hwords, hw.cfg]
  exact (Mem.read_clear ..).trans (if_pos ⟨hlo, hhi⟩)

theorem State.until_rackTime (hq : s.quiet = true) (hd : s.clk.dividers = true) (t : Nat) :
    (s.until t).clk.rackTime = max s.clk.rackTime t := by
  rw [State.until, State.pass_quiet _ _ hd hq, State.clock_clk]
  show s.clk.rackTime + (t - s.clk.rackTime) = _
  omega

theorem exec_epochRelease {q start snap mbox : Nat} {epoch : BitVec 8} {stopAt : Option Nat} {tag : BitVec 16}
    (he : (s.seqAt q).runq.find? RunEntry.isRelease = some (.release start epoch stopAt snap mbox tag)) (hrun : (s.seqAt q).run = none)
    (hpower : s.aon.power.serves = true) (hhalt : s.aon.boundaryHalt = 0) (hidle : (s.domAt q).state = .idle) :
    exec (.epochRelease q) s = .next ((s.until start).releaseEpoch q start epoch stopAt snap mbox tag) := by
  show execEpochRelease q s = _
  unfold execEpochRelease
  rw [he]
  exact whenTrue_of (by simp [hrun, hpower, hhalt, hidle]) _ _

/-- Settles O41: the state that is ready for the epoch, the sequencer's start in it, and a stop in the same cycle, which leaves what is asked. -/
theorem epochReleaseStartsAnEpoch : Obligations.EpochReleaseStartsAnEpoch := by
  unfold Obligations.EpochReleaseStartsAnEpoch
  intro q start epoch stopAt snap mbox tag s hshape hq he hrun hpower hhalt hidle u
  have hu : u.shaped = true := (State.shaped_iff _).2 (by rw [State.shape_until]; exact (State.shaped_iff _).1 hshape)
  have hcfg : u.cfg = s.cfg := congrArg Shape.cfg (State.shape_until (s := s) start)
  have hseqs : q < u.seqs.length := by rw [State.shaped_seqs hu, hcfg]; exact hq
  have hdoms : q < u.coll.doms.length := by
    rw [show u.coll.doms.length = u.cfg.nSeq from congrArg Shape.doms ((State.shaped_iff u).1 hu), hcfg]
    exact hq
  let a := u.releaseTaken q start mbox tag
  let e := u.releaseReady q start epoch mbox tag
  let r := e.newRun q start epoch stopAt snap mbox tag (u.seqAt q).brk
  let f := e.onSeq q fun x => x.release r
  refine ⟨f.checkStop q, (exec_epochRelease he hrun hpower hhalt hidle).trans (congrArg _ (u.releaseEpoch_eq ..)), ?_⟩
  have hua : u.keeps a [.seqs, .kol, .mbx] := u.keeps_releaseTaken q start mbox tag
  have hae : a.keeps e [.coll, .ledger, .cores] := u.releaseTaken_keeps_ready q start epoch mbox tag
  obtain ⟨hstop, hgo, hothers, hself⟩ := f.checkStop_spec q
  obtain ⟨hstall, hwaits, -⟩ := (u.onSeq q Sequencer.unqueued).answerRelease_kol start mbox tag
  have hseq (k : Nat) : e.seqAt k = (u.onSeq q Sequencer.unqueued).seqAt k :=
    State.seqAt_of_seqs (hae.seqs.trans (State.keeps_answerRelease _ start mbox tag).seqs) k
  have hesq : q < e.seqs.length := by
    rw [hae.seqs, show a.seqs = (u.onSeq q Sequencer.unqueued).seqs from (State.keeps_answerRelease _ start mbox tag).seqs]
    exact lt_of_lt_of_eq hseqs (List.length_modify ..).symm
  have hf : f.seqAt q = (u.seqAt q).unqueued.release r := by
    rw [State.onSeq_seqAt_self _ hesq, hseq q, State.onSeq_seqAt_self _ hseqs]
  rw [hf] at hself
  have hkol : f.kol = a.kol := hae.kol
  have hdom : (f.checkStop q).domAt q = e.domAt q := State.domAt_of_doms (congrArg Coll.doms hstop.coll) q
  have hstart := State.releaseReady_domAt (s := u) (start := start) (epoch := epoch) (mbox := mbox) (tag := tag) hdoms
  have hwords : r.words = u.wordsOf q :=
    State.wordsOf_of_parts (hua.andThen hae).parts q
  intro x c
  have hx : x = _ := hself
  have hc : c = _ := hdom.trans hstart
  have hall := ((hua.andThen hae).andThen (e.keeps_onSeq q _)).andThen hstop
  have hsheaves : (f.checkStop q).cores = e.cores := hstop.cores
  rw [hx, hc]
  refine ⟨rfl, rfl, rfl, rfl, rfl, rfl, rfl, ?_, rfl, ⟨r, rfl, rfl, rfl, rfl, rfl, rfl, rfl, hwords⟩, rfl, rfl, rfl, rfl, rfl, rfl, fun k hk => ?_,
    ?_, fun w hw => ?_, fun hquiet hdiv => ?_, fun b hlo hhi => ?_, hall.mono (by decide)⟩
  · exact (u.seqAt q).unqueued_isRelease
  · exact (hothers k hk).trans ((e.onSeq_seqAt_other _ hk).trans ((hseq k).trans (u.onSeq_seqAt_other _ hk)))
  · rw [hgo.stalled, hkol]
    exact hstall
  · rw [hgo.waiting, hkol]
    exact hwaits w hw
  · rw [hall.clk]
    exact State.until_rackTime hquiet hdiv start
  · rw [hsheaves]
    exact u.releaseReady_sheaves q start epoch mbox tag b hlo hhi

end Sys2Proof.Machine
end

section
/-! PROOFS. EPOCH_ABORT: what a sequencer's ABORT leaves of it, of the others, and of the records of requests (04 R119; 07 R187; 16 R406). -/

namespace Sys2Proof.Machine

variable {s : State} {m : Nat}

/-! ## A queued release that is discarded (R187) -/

/-- A discarded release ends the named parts of its request, which waits no longer once no sequencer holds an entry of it. -/
theorem State.discardRelease_kol (s : State) (start mbox : Nat) (tag : BitVec 16) (which : Nat → Bool) (reason : Nat) :
    let t := s.discardRelease start mbox tag which reason
    (∀ e' ∈ t.kol.epochs, ∃ e ∈ s.kol.epochs, EpochReq.later e e') ∧
      (∀ e ∈ t.kol.epochs, e.mbox = mbox → e.tag = tag → e.start = start → ∀ p ∈ e.parts, which p.seq = true → p.done = true) ∧
      (s.releaseQueued start mbox tag = false → ∀ w, s.waitsFor mbox tag = some w → t.kol.waiting = s.kol.waiting.erase w) := by
  intro t
  let detail := reason + s.coll.logicalId.toNat * 65536
  let upd (x : EpochReq) : EpochReq := if x.mbox = mbox ∧ x.tag = tag ∧ x.start = start then x.discard which detail s.clk.rackTime else x
  let u := s.onKol fun k => { k with stalled := false, epochs := k.epochs.map upd }
  let v := if u.releaseQueued start mbox tag then u else u.answerRelease start mbox tag
  have ht : t = v.postEnds := rfl
  have hupd (e : EpochReq) : EpochReq.later e (upd e) := by
    simp only [upd]
    split_ifs
    · refine EpochReq.later_map_parts e _ fun p => ?_
      split_ifs
      · exact ⟨rfl, fun _ => rfl⟩
      · exact ⟨rfl, id⟩
    · exact EpochReq.later_refl e
  obtain ⟨-, hanswer, hrecords⟩ := u.answerRelease_kol start mbox tag
  have hv : ∀ e' ∈ v.kol.epochs, ∃ e ∈ u.kol.epochs, EpochReq.later e e' := by
    simp only [v]
    split_ifs
    · exact (Kolate.goesOn_refl _).later
    · exact hrecords
  have huv : ∀ e' ∈ t.kol.epochs, ∃ e ∈ s.kol.epochs, EpochReq.later (upd e) e' := by
    intro e' he'
    rw [ht] at he'
    obtain ⟨f, hf, hf'⟩ := v.postEnds_kol.later e' he'
    obtain ⟨g, hg, hg'⟩ := hv f hf
    obtain ⟨e, he, rfl⟩ := List.mem_map.1 hg
    exact ⟨e, he, EpochReq.later_trans hg' hf'⟩
  refine ⟨fun e' he' => ?_, fun e' he' hm htag hstart p hp hwhich => ?_, fun hnone w hw => ?_⟩
  · obtain ⟨e, he, hlater⟩ := huv e' he'
    exact ⟨e, he, EpochReq.later_trans (hupd e) hlater⟩
  · obtain ⟨e, -, hlater⟩ := huv e' he'
    obtain ⟨hmbox, htag', hstart', -⟩ := EpochReq.later_trans (hupd e) hlater
    obtain ⟨-, -, -, hparts⟩ := hlater
    obtain ⟨p', hp', hseq, hdone⟩ := hparts p hp
    have hmatch : e.mbox = mbox ∧ e.tag = tag ∧ e.start = start := ⟨hmbox.symm.trans hm, htag'.symm.trans htag, hstart'.symm.trans hstart⟩
    have hdiscard : upd e = e.discard which detail s.clk.rackTime := if_pos hmatch
    rw [hdiscard] at hp'
    obtain ⟨z, -, rfl⟩ := List.mem_map.1 hp'
    have hz : which z.seq = true := by
      rw [← hwhich, hseq]
      split_ifs <;> rfl
    refine hdone ?_
    cases hd : z.done <;> simp [hz, hd]
  · have hv : v = u.answerRelease start mbox tag := if_neg (by rw [show u.releaseQueued start mbox tag = false from hnone]; exact Bool.false_ne_true)
    rw [ht, v.postEnds_kol.waiting, hv]
    exact hanswer w hw

/-! ## The abort of an epoch, and what it leaves of sequencers and domains (R406) -/

/-- Of the sequencers an abort changes the running epoch of its own alone. -/
theorem State.abortEpoch_seqs (s : State) (d reason : Nat) : (s.abortEpoch d reason none).seqs = s.seqs ∨
    (s.abortEpoch d reason none).seqs = (s.onSeq d fun q => { q with run := q.run.map (Run.cut s.clk.rackTime) }).seqs := by
  by_cases h : (s.domAt d).state.live = true
  · right
    rw [State.abortEpoch_live d reason none h]
    have hk := (((s.cutEpoch d).keeps_learnAbort d reason none).andThen ((State.keeps_sendAbort _ d reason (s.abortOrigin none)
      (s.abortStamp none)).andThen (State.keeps_sendCounters _ d))).andThen (State.keeps_abortCoupler _ d)
    exact hk.seqs
  · exact .inl (State.keeps_abortEpoch_of_not_live h reason none).seqs

theorem State.abortEpoch_runq (s : State) (d reason k : Nat) : ((s.abortEpoch d reason none).seqAt k).runq = (s.seqAt k).runq := by
  rcases s.abortEpoch_seqs d reason with h | h
  · rw [State.seqAt_of_seqs h]
  · rw [State.seqAt_of_seqs h, State.onSeq_seqAt]
    split_ifs <;> rfl

theorem State.abortEpoch_seqAt_other {d k : Nat} (hne : k ≠ d) (reason : Nat) : (s.abortEpoch d reason none).seqAt k = s.seqAt k := by
  rcases s.abortEpoch_seqs d reason with h | h
  · rw [State.seqAt_of_seqs h]
  · rw [State.seqAt_of_seqs h, State.onSeq_seqAt_other _ hne]

/-- An abort comes in its own cycle. -/
theorem State.abortEpoch_abortTime {d : Nat} (h : s.liveAt d) (reason : Nat) : ((s.abortEpoch d reason none).domAt d).abortTime = s.clk.rackTime := by
  rw [State.abortEpoch_live d reason none h.live]
  let u := (s.cutEpoch d).learnAbort d reason none
  have hdoms : ((((u.sendAbort d reason (s.abortOrigin none) (s.abortStamp none)).sendCounters d).abortCoupler d).domAt d) = u.domAt d := by
    refine State.domAt_of_doms ?_ d
    rw [State.abortCoupler_doms, State.sendCounters_doms, State.sendAbort_doms]
  obtain ⟨-, htime⟩ := State.cutEpoch_domAt d h
  obtain ⟨-, hlearn, -⟩ := State.learnAbort_domAt (s := s.cutEpoch d) d reason none (lt_of_lt_of_eq h.dom (List.length_modify ..).symm)
  rw [hdoms, hlearn, htime]

/-! ## The ABORT of one sequencer -/

theorem RunEntry.find_isRelease_eq_none {l : List RunEntry} (h : l.any RunEntry.isRelease = false) : l.find? RunEntry.isRelease = none := by
  rw [List.find?_eq_none]
  exact fun e he hr => absurd (List.any_eq_true.2 ⟨e, he, hr⟩) (by rw [h]; exact Bool.false_ne_true)

/-- The RELEASE entry of a run queue that holds one. -/
theorem RunEntry.find_isRelease_eq_some {l : List RunEntry} (h : l.any RunEntry.isRelease = true) :
    ∃ start ep st sn mb tg, l.find? RunEntry.isRelease = some (.release start ep st sn mb tg) := by
  obtain ⟨e, he⟩ := Option.isSome_iff_exists.1 (List.find?_isSome.2 (List.any_eq_true.1 h))
  have hr : e.isRelease = true := List.find?_some he
  cases e with
  | release start ep st sn mb tg => exact ⟨_, _, _, _, _, _, he⟩
  | _ => cases hr

theorem State.takeAbort_queued {q start sn mb : Nat} {ep : BitVec 8} {st : Option Nat} {tg : BitVec 16}
    (h : (s.seqAt q).runq.find? RunEntry.isRelease = some (.release start ep st sn mb tg)) :
    s.takeAbort q = (s.onSeq q Sequencer.unqueued).discardRelease start mb tg (· == q) 0x21 := by
  unfold State.takeAbort
  dsimp only
  rewrite [h]
  rfl

theorem State.takeAbort_unqueued {q : Nat} (h : (s.seqAt q).runq.any RunEntry.isRelease = false) :
    s.takeAbort q = if (s.seqAt q).run.isSome then s.abortEpoch q 0x21 none else s := by
  unfold State.takeAbort
  dsimp only
  rewrite [RunEntry.find_isRelease_eq_none h]
  rfl

/-- What an ABORT leaves of its own sequencer, of the others, and of the records of requests. -/
structure State.abortTaken (s t : State) (q : Nat) : Prop where
  keeps : s.keeps t ([.mbx, .kol] ++ abortFields)
  shape : t.shape = s.shape
  seqAt : ∀ k, k ≠ q → t.seqAt k = s.seqAt k
  domAt : ∀ k, k ≠ q → t.domAt k = s.domAt k
  agenda : ∀ x ∈ t.agenda, x ∈ s.agenda
  runq : q < s.seqs.length → (t.seqAt q).runq.any RunEntry.isRelease = false
  later : ∀ e' ∈ t.kol.epochs, ∃ e ∈ s.kol.epochs, EpochReq.later e e'

theorem State.takeAbort_spec (s : State) (q : Nat) : s.abortTaken (s.takeAbort q) q := by
  cases hany : (s.seqAt q).runq.any RunEntry.isRelease with
  | true =>
    obtain ⟨start, ep, st, sn, mb, tg, hfind⟩ := RunEntry.find_isRelease_eq_some hany
    let u := s.onSeq q Sequencer.unqueued
    have ht : s.takeAbort q = u.discardRelease start mb tg (· == q) 0x21 := State.takeAbort_queued hfind
    have hk := u.keeps_discardRelease start mb tg (· == q) 0x21
    obtain ⟨hlater, -⟩ := u.discardRelease_kol start mb tg (· == q) 0x21
    rw [← ht] at hk hlater
    have hseq (k : Nat) : (s.takeAbort q).seqAt k = u.seqAt k := State.seqAt_of_seqs hk.seqs k
    exact
      { keeps := ((s.keeps_onSeq q _).andThen hk).mono (by decide)
        shape := State.shape_takeAbort _ q
        seqAt := fun k hne => (hseq k).trans (s.onSeq_seqAt_other _ hne)
        domAt := fun k _ => State.domAt_of_doms (congrArg Coll.doms hk.coll) k
        agenda := fun x hx => by rw [hk.agenda] at hx; exact hx
        runq := fun hq => by rw [hseq, s.onSeq_seqAt_self _ hq]; exact (s.seqAt q).unqueued_isRelease
        later := hlater }
  | false =>
    rw [State.takeAbort_unqueued hany]
    split_ifs
    · have hk := s.keeps_abortEpoch q 0x21 none
      obtain ⟨-, -, hagenda⟩ := State.abortEpoch_other (s := s) (Nat.ne_of_lt q.lt_succ_self) 0x21
      exact
        { keeps := hk.mono (by decide)
          shape := s.shape_abortEpoch q 0x21 none
          seqAt := fun k hne => State.abortEpoch_seqAt_other hne 0x21
          domAt := fun k hne => (State.abortEpoch_other (s := s) (Ne.symm hne) 0x21).1
          agenda := hagenda
          runq := fun _ => by rw [s.abortEpoch_runq q 0x21 q]; exact hany
          later := fun e he => ⟨e, by rw [hk.kol] at he; exact he, EpochReq.later_refl e⟩ }
    · exact ⟨s.keeps_refl _, rfl, fun _ _ => rfl, fun _ _ => rfl, fun _ hx => hx, fun _ => hany, fun e he => ⟨e, he, EpochReq.later_refl e⟩⟩

/-! ## The ABORTs of a request -/

theorem State.keeps_takeAborts (s : State) (qs : List Nat) : s.keeps (qs.foldl State.takeAbort s) ([.mbx, .kol] ++ abortFields) :=
  State.keeps_foldl _ (fun s q => (s.takeAbort_spec q).keeps) _ _

/-- ABORTs of other sequencers leave a sequencer, its domain, and what its epoch's abort has left. -/
theorem State.takeAborts_other {q : Nat} : ∀ (qs : List Nat) (s : State), q ∉ qs →
    let t := qs.foldl State.takeAbort s
    t.shape = s.shape ∧ t.seqAt q = s.seqAt q ∧ t.domAt q = s.domAt q ∧ (∀ x ∈ t.agenda, x ∈ s.agenda) ∧
      ∀ e' ∈ t.kol.epochs, ∃ e ∈ s.kol.epochs, EpochReq.later e e'
  | [], _, _ => ⟨rfl, rfl, rfl, fun _ hx => hx, fun e he => ⟨e, he, EpochReq.later_refl e⟩⟩
  | k :: qs, s, hq => by
    rw [List.mem_cons, not_or] at hq
    obtain ⟨hk, hqs⟩ := hq
    have h := s.takeAbort_spec k
    obtain ⟨hshape, hseq, hdom, hagenda, hlater⟩ := State.takeAborts_other qs (s.takeAbort k) hqs
    refine ⟨hshape.trans h.shape, hseq.trans (h.seqAt q hk), hdom.trans (h.domAt q hk), fun x hx => h.agenda x (hagenda x hx), fun e he => ?_⟩
    obtain ⟨f, hf, hf'⟩ := hlater e he
    obtain ⟨g, hg, hg'⟩ := h.later f hf
    exact ⟨g, hg, EpochReq.later_trans hg' hf'⟩

/-- Among the ABORTs of a request that of a named sequencer comes once, on the sequencer and domain as they were. -/
theorem State.takeAborts_at {q : Nat} {qs : List Nat} (s : State) (hnd : qs.Nodup) (hq : q ∈ qs) :
    ∃ (u : State) (rest : List Nat), q ∉ rest ∧ qs.foldl State.takeAbort s = rest.foldl State.takeAbort (u.takeAbort q) ∧
      u.shape = s.shape ∧ u.clk = s.clk ∧ u.seqAt q = s.seqAt q ∧ u.domAt q = s.domAt q := by
  obtain ⟨front, rest, rfl⟩ := List.append_of_mem hq
  obtain ⟨-, hcons, hdisjoint⟩ := List.nodup_append.1 hnd
  have hfront : q ∉ front := fun h => hdisjoint q h q List.mem_cons_self rfl
  obtain ⟨hshape, hseq, hdom, -, -⟩ := State.takeAborts_other front s hfront
  exact ⟨front.foldl State.takeAbort s, rest, (List.nodup_cons.1 hcons).1, by rw [List.foldl_append, List.foldl_cons], hshape,
    (s.keeps_takeAborts front).clk, hseq, hdom⟩

/-- A sequencer with neither a running nor a queued epoch stays as it is. -/
theorem State.takeAborts_idle : ∀ (qs : List Nat) (s : State),
    (∀ q ∈ qs, (s.seqAt q).run = none ∧ (s.seqAt q).runq.any RunEntry.isRelease = false) → qs.foldl State.takeAbort s = s
  | [], _, _ => rfl
  | q :: qs, s, h => by
    obtain ⟨hrun, hqueue⟩ := h q List.mem_cons_self
    have hstep : s.takeAbort q = s := by
      rw [State.takeAbort_unqueued hqueue, hrun]
      exact if_neg Bool.false_ne_true
    rw [List.foldl_cons, hstep]
    exact State.takeAborts_idle qs s fun k hk => h k (List.mem_cons_of_mem _ hk)

theorem seqsOf_two_pow {q n : Nat} (hq : 2 ^ q < 2 ^ n) (hn : n ≤ 8) : seqsOf (2 ^ q) = [q] := by
  refine List.perm_singleton.1 ((List.perm_ext_iff_of_nodup (seqsOf_nodup _) (List.nodup_singleton q)).2 fun k => ?_)
  rw [mem_seqsOf hq hn, Nat.testBit_two_pow, decide_eq_true_eq, List.mem_singleton, eq_comm]

/-- No sequencer holds an entry of a release where all run queues are empty. -/
theorem State.releaseQueued_empty (h : ∀ k, (s.seqAt k).runq = []) (start mbox : Nat) (tag : BitVec 16) : s.releaseQueued start mbox tag = false := by
  rw [State.releaseQueued, List.any_eq_false]
  intro x hx
  obtain ⟨k, hk, rfl⟩ := List.mem_iff_getElem.1 hx
  have hempty := h k
  rw [State.seqAt, List.getD_eq_getElem _ _ hk] at hempty
  simp [hempty]

/-- The one queued release of a request is discarded: the request waits no longer. -/
theorem State.takeAbort_waiting {q start sn : Nat} {ep : BitVec 8} {st : Option Nat} {w : Req} (hq : q < s.seqs.length)
    (hrunq : (s.seqAt q).runq = [.release start ep st sn w.mbox w.tag]) (hrest : ∀ k, k ≠ q → (s.seqAt k).runq = []) (hwait : s.kol.waiting = [w]) :
    (s.takeAbort q).kol.waiting = [] := by
  let u := s.onSeq q Sequencer.unqueued
  have hfind : (s.seqAt q).runq.find? RunEntry.isRelease = some (.release start ep st sn w.mbox w.tag) := by rw [hrunq]; rfl
  have hempty (k : Nat) : (u.seqAt k).runq = [] := by
    by_cases hk : k = q
    · rw [hk, s.onSeq_seqAt_self _ hq, Sequencer.unqueued, hrunq]
      rfl
    · rw [s.onSeq_seqAt_other _ hk, hrest k hk]
  have hwaits : u.waitsFor w.mbox w.tag = some w := by
    show s.kol.waiting.find? _ = _
    rw [hwait]
    simp
  obtain ⟨-, -, hanswer⟩ := u.discardRelease_kol start w.mbox w.tag (· == q) 0x21
  rw [State.takeAbort_queued hfind, hanswer (State.releaseQueued_empty hempty ..) w hwaits]
  show s.kol.waiting.erase w = []
  rw [hwait, List.erase_cons_head]

theorem runEpochAbort_named {r : Req} {mask : Nat} (s : State) (hm : field (r.arg 1) 0 8 = mask) (hcheck : s.maskCheck r mask = 0) :
    runEpochAbort r s = ((seqsOf mask).foldl State.takeAbort s).answer r rOk := by
  subst hm
  simp only [runEpochAbort, hcheck, ne_eq, not_true, if_false]

/-- Settles O31: each named sequencer takes its ABORT once, on its state before the request; those of the others and the answer leave what it left. -/
theorem epochAbortStopsNamedEpochs : Obligations.EpochAbortStopsNamedEpochs := by
  unfold Obligations.EpochAbortStopsNamedEpochs
  intro m s h mask queued hmask hmay hlocked
  let v := s.take (s.reqAt m)
  let u := (seqsOf mask).foldl State.takeAbort v
  let t := u.answer (s.reqAt m) rOk
  obtain ⟨-, hshape, -⟩ := (s.serves_iff m _).1 h
  have hmem (q : Nat) := mem_seqsOf (q := q) hmask (nSeq_le s.cfg)
  have hlt {q : Nat} (hbit : mask.testBit q = true) : q < v.seqs.length := lt_of_lt_of_eq (lt_of_testBit hmask hbit) (State.shaped_seqs hshape).symm
  have hdoms : v.coll.doms.length = v.seqs.length := by
    have hfits := (State.shaped_iff s).1 hshape
    exact (congrArg Shape.doms hfits).trans (congrArg Shape.seqs hfits).symm
  have hut : u.keeps t [.mbx, .kol] := u.keeps_complete _ _ _ _ _ _
  have hkol : Kolate.goesOn (u.kol.letGo (s.reqAt m)) t.kol := u.complete_kol _ _ _ _ _ _
  have hseq (q : Nat) : t.seqAt q = u.seqAt q := State.seqAt_of_seqs hut.seqs q
  have hdom (q : Nat) : t.domAt q = u.domAt q := State.domAt_of_doms (congrArg Coll.doms hut.coll) q
  refine ⟨t, ?exec, fun hidle => ?idle, fun q hbit => ?runq, fun q start ep st sn mb tg hbit hfind => ?parts,
    fun q start ep st sn w hone hrunq hrest hwait => ?waiting, fun q hbit hrun hqueue hlive => ?aborted, fun q hbit => ?other, ?keeps⟩
  case exec =>
    refine (ronno_served runEpochAbort h (pickOp_reqAt h)).trans ?_
    rw [runEpochAbort_named (mask := mask) _ rfl (State.maskCheck_named hmask hmay hlocked)]
  case idle =>
    have hu : u = v := State.takeAborts_idle _ _ fun q hq => hidle q ((hmem q).1 hq)
    simp only [t, hu]
    exact State.served_answered h (by decide) rOk
  case runq =>
    obtain ⟨a, rest, hrest, hu, hashape, -, -, -⟩ := v.takeAborts_at (seqsOf_nodup mask) ((hmem q).2 hbit)
    obtain ⟨-, hsame, -⟩ := State.takeAborts_other rest (a.takeAbort q) hrest
    rw [hseq, show u = _ from hu, hsame]
    exact (a.takeAbort_spec q).runq (lt_of_lt_of_eq (hlt hbit) (congrArg Shape.seqs hashape).symm)
  case parts =>
    intro e he hm htag hstart p hp hpq
    obtain ⟨a, rest, hrest, hu, -, -, haseq, -⟩ := v.takeAborts_at (seqsOf_nodup mask) ((hmem q).2 hbit)
    obtain ⟨-, -, -, -, hlater⟩ := State.takeAborts_other rest (a.takeAbort q) hrest
    have hafind : (a.seqAt q).runq.find? RunEntry.isRelease = some (.release start ep st sn mb tg) := by rw [haseq]; exact hfind
    obtain ⟨-, hdone, -⟩ := (a.onSeq q Sequencer.unqueued).discardRelease_kol start mb tg (· == q) 0x21
    rw [← State.takeAbort_queued hafind] at hdone
    obtain ⟨f, hf, hfe⟩ := hkol.later e he
    obtain ⟨g, hg, hgf⟩ := hlater f (by rw [← hu]; exact hf)
    obtain ⟨hgm, hgtag, hgstart, hparts⟩ := EpochReq.later_trans hgf hfe
    obtain ⟨p', hp', hpseq, hpdone⟩ := hparts p hp
    exact hpdone (hdone g hg (hgm.symm.trans hm) (hgtag.symm.trans htag) (hgstart.symm.trans hstart) p' hp' (beq_iff_eq.2 (hpseq.symm.trans hpq)))
  case waiting =>
    have hq : mask.testBit q = true := by rw [hone]; exact Nat.testBit_two_pow_self
    have hu : u = v.takeAbort q := by simp only [u, hone, seqsOf_two_pow (hone ▸ hmask) (nSeq_le s.cfg), List.foldl_cons, List.foldl_nil]
    rw [hkol.waiting, Kolate.letGo, hu, State.takeAbort_waiting (hlt hq) hrunq hrest hwait]
    rfl
  case aborted =>
    obtain ⟨a, rest, hrest, hu, hashape, haclk, haseq, hadom⟩ := v.takeAborts_at (seqsOf_nodup mask) ((hmem q).2 hbit)
    have hl : a.liveAt q := ⟨by rw [hadom]; exact hlive, lt_of_lt_of_eq (hlt hbit) (congrArg Shape.seqs hashape).symm,
      lt_of_lt_of_eq (lt_of_lt_of_eq (hlt hbit) hdoms.symm) (congrArg Shape.doms hashape).symm⟩
    have hstep : a.takeAbort q = a.abortEpoch q 0x21 none := by
      rw [State.takeAbort_unqueued (by rw [haseq]; exact hqueue), if_pos (by rw [haseq]; exact hrun)]
    obtain ⟨-, hsame, hsamedom, hagenda, -⟩ := State.takeAborts_other rest (a.takeAbort q) hrest
    rw [← hu] at hsame hsamedom hagenda
    have hda : t.domAt q = (a.abortEpoch q 0x21 none).domAt q := by rw [hdom, ← hstep]; exact hsamedom
    refine ⟨(State.aborts_abortEpoch q 0x21 none hl).of_less hda ?_ fun x hx => ?_, ?_⟩
    · rw [hseq, show u.seqAt q = _ from hsame, hstep]
    · rw [hut.agenda] at hx
      rw [← hstep]
      exact hagenda x hx
    · rw [hda, State.abortEpoch_abortTime hl, haclk]
      rfl
  case other =>
    obtain ⟨-, hsame, hsamedom, -, -⟩ := State.takeAborts_other (q := q) (seqsOf mask) v (by rw [hmem q, hbit]; exact Bool.false_ne_true)
    exact ⟨(hseq q).trans hsame, (hdom q).trans hsamedom⟩
  case keeps =>
    exact (((s.keeps_take _).andThen (v.keeps_takeAborts _)).andThen hut).mono (by decide)

end Sys2Proof.Machine
end

section
/-! PROOFS. JOB_LOAD: blocks that are staged, and the INSTALL of a staged job (04 R119; 16 R384-R387). -/

namespace Sys2Proof.Machine

variable {s : State} {m : Nat}

/-! ## A request that changes one domain -/

theorem State.shaped_doms (h : s.shaped = true) : s.coll.doms.length = s.cfg.nSeq := congrArg Shape.doms ((State.shaped_iff s).1 h)

theorem State.onDom_domAt_self {d : Nat} (f : DomColl → DomColl) (h : d < s.coll.doms.length) : (s.onDom d f).domAt d = f (s.domAt d) :=
  (s.onDom_domAt d d f).trans (if_pos ⟨rfl, h⟩)

theorem State.onDom_domAt_other {d e : Nat} (f : DomColl → DomColl) (h : e ≠ d) : (s.onDom d f).domAt e = s.domAt e :=
  (s.onDom_domAt d e f).trans (if_neg fun hc => h hc.1.symm)

/-- The domains after an answer. -/
theorem State.complete_domAt (s : State) (r : Req) (code detail : Nat) (r1 r2 r3 : Word) (e : Nat) :
    (s.complete r code detail r1 r2 r3).domAt e = s.domAt e :=
  State.domAt_of_doms (congrArg Coll.doms (s.keeps_complete r code detail r1 r2 r3).coll) e

/-- A request that changes one domain and is answered. -/
theorem State.served_onDom {op d : Nat} (h : s.serves m op = true) (hop : op ≠ 0x13 ∧ op ≠ 0x14) (hd : d < s.cfg.nSeq)
    (f : DomColl → DomColl) (code detail : Nat) :
    let t := ((s.take (s.reqAt m)).onDom d f).complete (s.reqAt m) code detail 0 0 0
    s.completed t m code detail 0 0 0 ∧ s.onlyAnswered t m [.coll] ∧ t.domAt d = f (s.domAt d) ∧ ∀ e, e ≠ d → t.domAt e = s.domAt e := by
  intro t
  obtain ⟨-, hshape, -⟩ := (s.serves_iff m op).1 h
  obtain ⟨hc, ha⟩ := State.served_completed h hop (State.keeps_onDom _ d f) (by decide) (by decide) code detail 0 0 0
  exact ⟨hc, ha, (State.complete_domAt _ _ _ _ _ _ _ d).trans (State.onDom_domAt_self f (lt_of_lt_of_eq hd (State.shaped_doms hshape).symm)),
    fun e he => (State.complete_domAt _ _ _ _ _ _ _ e).trans (State.onDom_domAt_other f he)⟩

theorem State.onDom_onDom (s : State) (d : Nat) (f g : DomColl → DomColl) : (s.onDom d f).onDom d g = s.onDom d fun c => g (f c) := by
  have h := List.modify_modify_eq f g d s.coll.doms
  exact congrArg (fun ds => ({ s with coll := { s.coll with doms := ds } } : State)) h

/-! ## Blocks (R383, R385) -/

theorem State.take_block (s : State) (r r' : Req) : (s.take r).block r' = s.block r' := by
  simp only [State.block, State.take_dataBytes]

/-- A block that passes the checks before the staging. -/
structure State.admits (s : State) (r : Req) (b : Block) : Prop where
  block : s.block r = b
  part : b.part < 4
  fits : field (r.arg 2) 0 12 + field (r.arg 2) 16 13 ≤ 0x1000
  long : 16 ≤ field (r.arg 2) 16 13
  whole : (field (r.arg 2) 16 13 - 16) % recordBytes b.part = 0
  good : b.bad = false
  dom : b.dom < s.cfg.nSeq
  issuer : (s.issuer r).any (fun d => d != b.dom || b.part == 0) = false
  locked : s.unlocked 10 = false
  wiring : b.part = 0 → s.unlocked 9 = false

theorem runJobLoad_admitted {r : Req} {b : Block} (h : s.admits r b) : runJobLoad r s =
    if b.install ∧ (!b.last ∨ b.part = 0) then s.answer r rBadArg
    else if (s.domAt b.dom).outOfOrder b then (s.onDom b.dom DomColl.discard).answer r rBadArg
    else if b.part = 0 ∧ b.last ∧ s.anyEpoch then s.answer r rBusy
    else if b.part = 0 ∧ b.last then
      if (s.onDom b.dom fun c => c.stage b).wiringBad ((s.onDom b.dom fun c => c.stage b).domAt b.dom).wiring.words then
        ((s.onDom b.dom fun c => c.stage b).onDom b.dom fun c => { c with wiring := Staged.none }).answer r rBadArg
      else (s.onDom b.dom fun c => c.stage b).lastWiring r
    else if b.install then (s.onDom b.dom fun c => c.stage b).installJob r b.dom
    else (s.onDom b.dom fun c => c.stage b).answer r rOk := by
  have hlen : ¬ (field (r.arg 2) 16 13 < 16 ∨ (field (r.arg 2) 16 13 - 16) % recordBytes b.part ≠ 0 ∨ b.bad ∨ s.cfg.nSeq ≤ b.dom) := by
    rintro (hc | hc | hc | hc)
    · exact absurd h.long (Nat.not_le.2 hc)
    · exact hc h.whole
    · exact Bool.false_ne_true (h.good.symm.trans hc)
    · exact absurd h.dom (Nat.not_lt.2 hc)
  have hheld : ¬ (s.unlocked 10 ∨ (b.part = 0 ∧ s.unlocked 9)) := by
    rintro (hc | ⟨h0, hc⟩)
    · exact Bool.false_ne_true (h.locked.symm.trans hc)
    · exact Bool.false_ne_true ((h.wiring h0).symm.trans hc)
  unfold runJobLoad
  dsimp only
  rw [h.block, if_neg (Nat.not_le.2 h.part), if_neg (Nat.not_lt.2 h.fits), if_neg hlen, h.issuer, if_neg Bool.false_ne_true, if_neg hheld]

/-- A block that installs nothing and does not close WIRING is staged, or discards the staging. -/
theorem runJobLoad_staged {r : Req} {b : Block} (h : s.admits r b) (hinstall : b.install = false) (hwiring : ¬ (b.part = 0 ∧ b.last = true)) :
    runJobLoad r s = if (s.domAt b.dom).outOfOrder b then (s.onDom b.dom DomColl.discard).answer r rBadArg
      else (s.onDom b.dom fun c => c.stage b).answer r rOk := by
  rw [runJobLoad_admitted h, if_neg (by rw [hinstall]; exact fun hc => Bool.false_ne_true hc.1)]
  congr 1
  rw [if_neg fun hc => hwiring ⟨hc.1, hc.2.1⟩, if_neg hwiring, if_neg (by rw [hinstall]; exact Bool.false_ne_true)]

/-- A block in order that installs. -/
theorem runJobLoad_installs {r : Req} {b : Block} (h : s.admits r b) (hpart : b.part ≠ 0) (hinstall : b.install = true) (hlast : b.last = true)
    (horder : (s.domAt b.dom).outOfOrder b = false) : runJobLoad r s = (s.onDom b.dom fun c => c.stage b).installJob r b.dom := by
  rw [runJobLoad_admitted h, if_neg (by simp [hlast, hpart]), horder, if_neg Bool.false_ne_true, if_neg fun hc => hpart hc.1,
    if_neg fun hc => hpart hc.1, if_pos hinstall]

/-- The row of a block goes by its part, and by whether it installs. -/
theorem pickJob_reqAt {b : Block} {part : Nat → Bool} {install : Bool} (h : s.serves m 0x1A = true) (hb : s.block (s.reqAt m) = b)
    (hp : part b.part = true) (hi : b.install = install) : pickJob part install s (s.reqAt m) = true := by
  subst hi
  obtain ⟨-, -, -, -, hop, -⟩ := (s.serves_iff m _).1 h
  simp only [pickJob, hop, hb, hp, beq_self_eq_true, Bool.and_self, Bool.or_true]

/-! ## INSTALL (R384, R386, R387) -/

/-- A job that is installed: it is pending, the domain's armed bank is unarmed, and its seeds are in the ledger. -/
def State.withJob (s : State) (d : Nat) (j : Job) : State :=
  (((s.onDom d fun c => { c.discard with pendingJob := some j }).onSeq d Sequencer.unarm).writeSeeds j).refreshFps

theorem State.installJob_eq {r : Req} {d : Nat} {c : DomColl} {j : Job} {code detail : Nat} (hc : s.domAt d = c) (hj : c.staged = j)
    (hcheck : s.jobCheck d j = (code, detail)) : s.installJob r d =
      if ¬ (c.routes.last = true ∧ c.circuits.last = true) then (s.onDom d DomColl.discard).complete r rBadArg 0 0 0 0
      else if code ≠ 0 then (s.onDom d DomColl.discard).complete r code detail 0 0 0
      else (s.withJob d j).answer r rOk := by
  subst hc hj
  unfold State.installJob
  dsimp only
  by_cases hw : (s.domAt d).routes.last = true ∧ (s.domAt d).circuits.last = true
  · have hor : (!(s.domAt d).routes.last || !(s.domAt d).circuits.last) = false := by simp [hw]
    rewrite [if_neg (not_not.2 hw), hor, if_neg Bool.false_ne_true, hcheck, State.onDom_onDom]
    rfl
  · have hor : (!(s.domAt d).routes.last || !(s.domAt d).circuits.last) = true := by
      rcases not_and_or.1 hw with h | h <;> simp [h]
    rewrite [if_pos hw, if_pos hor]
    rfl

/-- The words of the seeds that a job writes. -/
def State.seedEntries (s : State) (j : Job) : List (Nat × Entry) := j.seeds.map fun w =>
  (field w 0 17, { s.entry (field w 0 17) with w3 := bitsOf (s.entry (field w 0 17)).w3 63 32 * 2 ^ 32 + field w 32 32 })

theorem State.writeSeeds_eq (s : State) (j : Job) : s.writeSeeds j = s.writeEntries (s.seedEntries j) := rfl

theorem State.keeps_writeEntries (s : State) (ws : List (Nat × Entry)) : s.keeps (s.writeEntries ws) [.ledger, .ckpt, .seqs] := by
  rw [State.writeEntries_eq]
  exact (State.keeps_writeAll ws s).andThen (State.keeps_unarmIf _ _)

theorem State.writeEntries_ledger (s : State) (ws : List (Nat × Entry)) : (s.writeEntries ws).ledger = entriesToMem s.ledger ws := by
  rw [State.writeEntries_eq, (State.keeps_unarmIf _ _).ledger, State.writeAll_ledger]

/-- Entries that a set does not name stay. -/
theorem entriesToMem_other {e : Nat} : ∀ (ws : List (Nat × Entry)) {m : Mem}, m.wf = true → (∀ x ∈ ws, x.1 ≠ e) →
    Entry.ofMem (entriesToMem m ws) e = Entry.ofMem m e
  | [], _, _, _ => rfl
  | x :: ws, m, hm, h => by
    rw [entriesToMem_cons, entriesToMem_other (m := x.2.toMem m x.1) ws (Mem.wf_writeBytes _ hm _) fun y hy => h y (List.mem_cons_of_mem _ hy)]
    exact Entry.ofMem_toMem_other hm x.2 (h x List.mem_cons_self)

/-- No write of entries arms a bank. -/
theorem Sequencer.unarm_load (x : Sequencer) : x.unarm.load ≠ .armed := by
  unfold Sequencer.unarm
  split
  · exact nofun
  · assumption

theorem State.writeEntries_load {d : Nat} (ws : List (Nat × Entry)) (h : (s.seqAt d).load ≠ .armed) : ((s.writeEntries ws).seqAt d).load ≠ .armed := by
  have hall : (s.writeAll ws).seqAt d = s.seqAt d := State.seqAt_of_seqs (State.keeps_writeAll ws s).seqs d
  rw [State.writeEntries_eq, (s.writeAll ws).unarmed_unarmIf _ d, hall]
  split_ifs
  · exact Sequencer.unarm_load _
  · exact h

theorem State.withJob_spec {d : Nat} {j : Job} (hmem : s.ledger.wf = true) (hseq : d < s.seqs.length) (hdom : d < s.coll.doms.length) :
    let t := s.withJob d j
    s.keeps t [.coll, .seqs, .ledger, .ckpt] ∧
      t.domAt d = { (s.domAt d).discard with pendingJob := some j, fingerprint := (t.domAt d).fingerprint } ∧
      (∀ e, e ≠ d → t.domAt e = { s.domAt e with fingerprint := (t.domAt e).fingerprint }) ∧ (t.seqAt d).load ≠ .armed ∧
      ∀ e, (∀ w ∈ j.seeds, field w 0 17 ≠ e) → t.entry e = s.entry e := by
  intro t
  let u := s.onDom d fun c => { c.discard with pendingJob := some j }
  let v := u.onSeq d Sequencer.unarm
  let w := v.writeSeeds j
  have hvw : v.keeps w [.ledger, .ckpt, .seqs] := by
    rw [show w = _ from v.writeSeeds_eq j]
    exact v.keeps_writeEntries _
  obtain ⟨hfps, hwt⟩ := w.refreshFps_spec
  have hw (e : Nat) : w.domAt e = u.domAt e := State.domAt_of_doms (congrArg Coll.doms hvw.coll) e
  refine ⟨((((s.keeps_onDom d _).andThen (u.keeps_onSeq d _)).andThen hvw).andThen hwt).mono (by decide), ?_, fun e he => ?_, ?_, fun e he => ?_⟩
  · refine (hfps d).trans ?_
    rw [hw, State.onDom_domAt_self _ hdom]
    rfl
  · refine (hfps e).trans ?_
    rw [hw, State.onDom_domAt_other _ he]
    rfl
  · have hload : (v.seqAt d).load ≠ .armed := by
      rw [State.onSeq_seqAt_self _ (by exact hseq)]
      exact Sequencer.unarm_load _
    rw [show t.seqAt d = w.seqAt d from State.seqAt_of_seqs hwt.seqs d]
    exact State.writeEntries_load _ hload
  · have hledger : t.ledger = entriesToMem s.ledger (v.seedEntries j) :=
      hwt.ledger.trans ((congrArg State.ledger (v.writeSeeds_eq j)).trans (v.writeEntries_ledger _))
    rw [State.entry, hledger]
    refine entriesToMem_other _ hmem fun x hx => ?_
    obtain ⟨k, hk, rfl⟩ := List.mem_map.1 hx
    exact he k hk

/-- The staging of a block changes nothing that the checks of a job read. -/
theorem State.jobCheck_staged (s : State) (r : Req) (d : Nat) (f : DomColl → DomColl) (j : Job) :
    ((s.take r).onDom d f).jobCheck d j = s.jobCheck d j := rfl

theorem DomColl.eq_with_fingerprint {c c' : DomColl} (h : c = c') : c = { c' with fingerprint := c.fingerprint } := by
  subst h
  rfl

/-- The answer to a request that installs a job that passes. -/
theorem State.served_withJob {d : Nat} {f : DomColl → DomColl} {j : Job} (h : s.serves m 0x1A = true) (hd : d < s.cfg.nSeq) :
    let t := (((s.take (s.reqAt m)).onDom d f).withJob d j).answer (s.reqAt m) rOk
    (∀ e, e ≠ d → t.domAt e = { s.domAt e with fingerprint := (t.domAt e).fingerprint }) ∧ s.completed t m 0 0 0 0 0 ∧
      s.onlyAnswered t m [.coll, .seqs, .ledger, .ckpt] ∧
      t.domAt d = { (f (s.domAt d)).discard with pendingJob := some j, fingerprint := (t.domAt d).fingerprint } ∧ (t.seqAt d).load ≠ .armed ∧
      ∀ e, (∀ w ∈ j.seeds, field w 0 17 ≠ e) → t.entry e = s.entry e := by
  intro t
  let v := s.take (s.reqAt m)
  let w := v.onDom d f
  obtain ⟨hwf, hshape, -⟩ := (s.serves_iff m _).1 h
  have hdom : d < v.coll.doms.length := lt_of_lt_of_eq hd (State.shaped_doms hshape).symm
  obtain ⟨hk, hself, hothers, hload, hentry⟩ := w.withJob_spec (d := d) (j := j) (State.memWf_ledger (s := s) hwf)
    (lt_of_lt_of_eq hd (State.shaped_seqs hshape).symm) (lt_of_lt_of_eq hdom (List.length_modify ..).symm)
  obtain ⟨hc, ha⟩ := State.served_completed h (by decide) ((v.keeps_onDom d f).andThen hk) (by decide) (by decide) 0 0 0 0 0
  have htu (e : Nat) : t.domAt e = (w.withJob d j).domAt e := State.complete_domAt _ _ _ _ _ _ _ e
  refine ⟨fun e he => ?_, hc, ha.mono (by decide), ?_, ?_, fun e he => ?_⟩
  · rw [htu, hothers e he, State.onDom_domAt_other f he]
    rfl
  · rw [htu, hself, State.onDom_domAt_self f hdom]
    rfl
  · rw [show t.seqAt d = (w.withJob d j).seqAt d from State.complete_seqAt _ _ _ _ _ _ _ d]
    exact hload
  · rw [State.entry, show t.ledger = (w.withJob d j).ledger from (State.keeps_complete _ _ _ _ _ _ _).ledger]
    exact hentry e he

/-- Settles O33: a block in order is staged, one out of order discards the staging, and the last block of an INSTALL brings the job to its
checks, which read nothing that the staging has changed. -/
theorem jobsAreStagedAndInstalled : Obligations.JobsAreStagedAndInstalled := by
  unfold Obligations.JobsAreStagedAndInstalled
  intro m s h b off len d good others staged hgood
  obtain ⟨hfit, hlong, hwhole, hbad, hd, hmay, hlocked, hwiring⟩ := hgood
  have admits (hp : b.part < 4) : (s.take (s.reqAt m)).admits (s.reqAt m) b :=
    { block := s.take_block _ _, part := hp, fits := hfit, long := hlong, whole := hwhole, good := hbad, dom := hd, locked := hlocked
      wiring := hwiring
      issuer := by
        rw [s.take_issuer]
        have hany := issuer_permitted hmay
        cases hi : s.issuer (s.reqAt m) with
        | none => rfl
        | some e =>
          rw [hi] at hany
          simpa [bne, Bool.not_and] using hany }
  have stages {part : Nat → Bool} {i : Instr} (hexec : exec i s = ronno m (pickJob part false) runJobLoad s) (hp : b.part < 4)
      (hrow : part b.part = true) (hinstall : b.install = false) (hclose : ¬ (b.part = 0 ∧ b.last = true)) : staged i := by
    have hpick : pickJob part false s (s.reqAt m) = true := pickJob_reqAt h rfl hrow hinstall
    refine ⟨_, hexec.trans (ronno_served runJobLoad h hpick), ?_⟩
    rw [runJobLoad_staged (admits hp) hinstall hclose]
    refine ⟨fun hout => ?_, fun hin => ?_⟩
    · rw [if_pos (by exact hout)]
      exact State.served_onDom h (by decide) hd DomColl.discard 2 0
    · rw [if_neg (by rw [show ((s.take (s.reqAt m)).domAt b.dom).outOfOrder b = false from hin]; exact Bool.false_ne_true)]
      exact State.served_onDom h (by decide) hd (fun c => c.stage b) 0 0
  refine ⟨fun hp hinstall hlast => ?_, fun hp hinstall => ?_, fun hp hinstall => ?_, fun hp hinstall => ?_, fun hlo hhi hinstall hlast horder => ?_⟩
  · exact stages (part := fun k => k == 0 || decide (4 ≤ k)) rfl (by omega) (by simp [hp]) hinstall (by simp [hlast])
  · exact stages (part := (· == 1)) rfl (by omega) (by simp [hp]) hinstall (by omega)
  · exact stages (part := (· == 2)) rfl (by omega) (by simp [hp]) hinstall (by omega)
  · exact stages (part := (· == 3)) rfl (by omega) (by simp [hp]) hinstall (by omega)
  · intro c whole j
    have hpick : pickJob (fun k => decide (1 ≤ k ∧ k ≤ 3)) true s (s.reqAt m) = true :=
      pickJob_reqAt h rfl (decide_eq_true ⟨hlo, hhi⟩) hinstall
    have hdom : d < (s.take (s.reqAt m)).coll.doms.length := by
      obtain ⟨-, hshape, -⟩ := (s.serves_iff m _).1 h
      exact lt_of_lt_of_eq hd (State.shaped_doms hshape).symm
    have hc : ((s.take (s.reqAt m)).onDom d fun c => c.stage b).domAt d = c := State.onDom_domAt_self _ hdom
    have refused (code detail : Nat) := State.served_onDom h (by decide) hd (fun c => (c.stage b).discard) code detail
    refine ⟨_, ronno_served runJobLoad h hpick, ?_⟩
    rw [runJobLoad_installs (admits (by omega)) (by omega) hinstall hlast horder,
      State.installJob_eq hc (j := j) rfl (show _ = ((s.jobCheck d j).1, (s.jobCheck d j).2) from s.jobCheck_staged _ d _ j), State.onDom_onDom]
    by_cases hw : whole
    · by_cases hok : (s.jobCheck d j).1 = 0
      · rw [if_neg (not_not.2 hw), if_neg (not_not.2 hok)]
        obtain ⟨hothers, hdone⟩ := State.served_withJob (f := fun c => c.stage b) (j := j) h hd
        obtain ⟨hc, ha, hself, hload, hentry⟩ := hdone
        exact ⟨hothers, fun hn => absurd hw hn, fun _ hn => absurd hok hn, fun _ _ => ⟨hc, ha, hself, hload, fun e he _ => hentry e he⟩⟩
      · rw [if_neg (not_not.2 hw), if_pos hok]
        obtain ⟨hc, ha, hself, hothers⟩ := refused (s.jobCheck d j).1 (s.jobCheck d j).2
        exact ⟨fun e he => DomColl.eq_with_fingerprint (hothers e he), fun hn => absurd hw hn, fun _ _ => ⟨hc, ha, hself⟩, fun _ hn => absurd hn hok⟩
    · rw [if_pos hw]
      obtain ⟨hc, ha, hself, hothers⟩ := refused 2 0
      exact ⟨fun e he => DomColl.eq_with_fingerprint (hothers e he), fun _ => ⟨hc, ha, hself⟩, fun hn => absurd hn hw, fun hn => absurd hn hw⟩

end Sys2Proof.Machine
end

section
/-! PROOFS. What cleaning leaves of a domain that has lost resources: memories, mailboxes, sequencers, and the control core (05 R136, R137). -/

namespace Sys2Proof

/-- Memory that one of several clears covers is zero after all of them. -/
theorem Mem.read_clears {α : Type} (lo n : α → Nat) (b : Nat) : ∀ (l : List α) (m : Mem),
    (m.read b = 0 ∨ ∃ a ∈ l, lo a ≤ b ∧ b < lo a + n a) → (l.foldl (fun m a => m.clear (lo a) (n a)) m).read b = 0
  | [], _, h => h.resolve_right (by simp)
  | a :: l, m, h => by
    refine Mem.read_clears lo n b l _ ?_
    rw [Mem.read_clear]
    by_cases ha : lo a ≤ b ∧ b < lo a + n a
    · exact .inl (if_pos ha)
    · rw [if_neg ha]
      refine h.imp_right fun ⟨x, hx, hb⟩ => ⟨x, (List.mem_cons.1 hx).resolve_left fun he => ha (he ▸ hb), hb⟩

namespace Machine

variable {s : State}

/-! ## The stages of a cleaning (R137) -/

def State.cleanPens (s : State) (r : Removal) : State := (r.pens.flatMap s.penPositions).foldl State.cleanPos s

def State.cleanLedger (s : State) (gs : List (Nat × Nat)) : State := gs.foldl (fun (s : State) g =>
  { s with ledger := s.ledger.clear (32 * g.1) (32 * (g.2 - g.1)), ckpt := s.ckpt.filter fun x => !decide (g.1 ≤ x.1 ∧ x.1 < g.2) }) s

def State.cleanTables (s : State) (ts : List Nat) : State := ts.foldl State.cleanTable s

def State.cleanMbxs (s : State) (ms : List Nat) : State := ms.foldl State.cleanMbx s

def State.cleanBytes (s : State) (scrub : Bool) (gs : List (Nat × Nat)) : State :=
  if scrub then gs.foldl (fun (s : State) g => { s with sp := s.sp.clear g.1 (g.2 - g.1) }) s else s

/-- The sequencer and the collective state of the domain: empty slots without a pen, and nothing left of a domain that is deleted. -/
def State.cleanDomain (s : State) (d : Nat) (r : Removal) : State :=
  let s := if partPens r.new = 0 then s.onSeq d fun q => { q with slots := [none, none, none, none] } else s
  if (s.partAt d).live then s
  else
    let s := s.onSeq d fun q => { q with flags := 0, tallies := List.replicate 32 0, preds := 0, brk := none }
    s.onDom d fun c => { c with wiring := Staged.none, routes := Staged.none, circuits := Staged.none, seeds := Staged.none
                                pendingJob := none, activeJob := none, fingerprint := 0 }

theorem State.clean_eq (s : State) (d : Nat) (r : Removal) (scrub : Bool) : s.clean d r scrub =
    (((((s.cleanPens r).cleanLedger r.ledger).cleanTables r.tables).cleanMbxs r.mbxs).cleanBytes scrub r.bytes).cleanDomain d r := rfl

theorem State.keeps_cleanPens (s : State) (r : Removal) : s.keeps (s.cleanPens r) [.cores] :=
  State.keeps_foldl _ (fun s _ => s.keeps_onCores _) _ _

theorem State.keeps_cleanLedger (s : State) (gs : List (Nat × Nat)) : s.keeps (s.cleanLedger gs) [.ledger, .ckpt] :=
  State.keeps_foldl _ (fun _ _ f hf => by cases f <;> first | rfl | exact absurd (by decide) hf) _ _

theorem State.keeps_cleanTables (s : State) (ts : List Nat) : s.keeps (s.cleanTables ts) [.tables, .seqs] :=
  State.keeps_foldl _ (fun _ _ f hf => by cases f <;> first | rfl | exact absurd (by decide) hf) _ _

theorem State.keeps_cleanMbxs (s : State) (ms : List Nat) : s.keeps (s.cleanMbxs ms) [.mbx, .kol] :=
  State.keeps_foldl _ (fun s m => ((s.keeps_finishReset m).andThen (State.keeps_onMbx _ _ _)).mono (by decide)) _ _

theorem State.keeps_cleanBytes (s : State) (scrub : Bool) (gs : List (Nat × Nat)) : s.keeps (s.cleanBytes scrub gs) [.sp] :=
  State.keeps_ite (State.keeps_foldl _ (fun _ _ f hf => by cases f <;> first | rfl | exact absurd (by decide) hf) _ _) (s.keeps_refl _)

theorem State.keeps_cleanDomain (s : State) (d : Nat) (r : Removal) : s.keeps (s.cleanDomain d r) [.seqs, .coll] := by
  unfold State.cleanDomain
  extract_lets u v
  have hu : s.keeps u [.seqs] := State.keeps_ite (s.keeps_onSeq d _) (s.keeps_refl _)
  exact State.keeps_ite (hu.mono (by decide)) (((hu.andThen (u.keeps_onSeq d _)).andThen (v.keeps_onDom d _)).mono (by decide))

/-! ## What each stage leaves zero, and what it does not touch -/

theorem State.cleanLedger_zero {gs : List (Nat × Nat)} {g : Nat × Nat} (s : State) (hg : g ∈ gs) (b : Nat) (hlo : 32 * g.1 ≤ b) (hhi : b < 32 * g.2) :
    (s.cleanLedger gs).ledger.read b = 0 := by
  have h : (s.cleanLedger gs).ledger = gs.foldl (fun m g => m.clear (32 * g.1) (32 * (g.2 - g.1))) s.ledger := by
    symm
    exact List.foldl_hom State.ledger fun _ _ => rfl
  rw [h]
  exact Mem.read_clears _ _ b gs _ (.inr ⟨g, hg, hlo, by omega⟩)

theorem State.cleanTables_zero {ts : List Nat} {i : Nat} (s : State) (hi : i ∈ ts) (b : Nat) (hlo : 2560 * i ≤ b) (hhi : b < 2560 * i + 2560) :
    (s.cleanTables ts).tables.read b = 0 := by
  have h : (s.cleanTables ts).tables = ts.foldl (fun m i => m.clear (2560 * i) 2560) s.tables := by
    symm
    exact List.foldl_hom State.tables fun _ _ => rfl
  rw [h]
  exact Mem.read_clears (fun i => 2560 * i) (fun _ => 2560) b ts _ (.inr ⟨i, hi, hlo, hhi⟩)

theorem State.cleanBytes_zero {gs : List (Nat × Nat)} {g : Nat × Nat} (s : State) (hg : g ∈ gs) (b : Nat) (hlo : g.1 ≤ b) (hhi : b < g.2) :
    (s.cleanBytes true gs).sp.read b = 0 := by
  have h : (s.cleanBytes true gs).sp = gs.foldl (fun m g => m.clear g.1 (g.2 - g.1)) s.sp := by
    symm
    exact List.foldl_hom State.sp fun _ _ => rfl
  rw [h]
  exact Mem.read_clears _ _ b gs _ (.inr ⟨g, hg, hlo, by omega⟩)

/-- A list whose elements change, but not in one respect. -/
theorem getD_map_same {α β : Type} {f : α → α} {g : α → β} (hf : ∀ a, g (f a) = g a) (l : List α) (i : Nat) (d : α) :
    g ((l.map f).getD i d) = g (l.getD i d) := by
  rw [List.getD_eq_getElem?_getD, List.getD_eq_getElem?_getD, List.getElem?_map]
  cases l[i]? with
  | none => rfl
  | some a => exact hf a

theorem State.cleanTables_runq (k : Nat) : ∀ (ts : List Nat) (s : State), ((s.cleanTables ts).seqAt k).runq = (s.seqAt k).runq
  | [], _ => rfl
  | t :: ts, s => (State.cleanTables_runq k ts (s.cleanTable t)).trans
      (getD_map_same (f := fun q : Sequencer => { q with slots := q.slots.map fun x => if x = some t then none else x }) (fun _ => rfl) s.seqs k _)

/-- A change of a sequencer that leaves its run queue. -/
theorem State.onSeq_runq (s : State) (d k : Nat) (f : Sequencer → Sequencer) (hf : ∀ x, (f x).runq = x.runq) :
    ((s.onSeq d f).seqAt k).runq = (s.seqAt k).runq := by
  rw [State.onSeq_seqAt]
  split_ifs
  · exact hf _
  · rfl

theorem State.cleanDomain_runq (s : State) (d : Nat) (r : Removal) (k : Nat) : ((s.cleanDomain d r).seqAt k).runq = (s.seqAt k).runq := by
  unfold State.cleanDomain
  extract_lets u v
  have hu : (u.seqAt k).runq = (s.seqAt k).runq := by
    simp only [u]
    split_ifs
    · exact s.onSeq_runq d k _ fun _ => rfl
    · rfl
  have hv : (v.seqAt k).runq = (u.seqAt k).runq := u.onSeq_runq d k _ fun _ => rfl
  split_ifs
  · exact hu
  · exact hv.trans hu

/-- Mailboxes that leave are reset, zero, and have no owner. -/
theorem State.cleanMbx_mbxAt (s : State) (m k : Nat) : (s.cleanMbx m).mbxAt k = if m = k ∧ k < s.mbx.length then
    { s.mbxAt k with reqTail := 0, reqHead := 0, cplTail := 0, cplHead := 0, overrun := false, resetBusy := false, reserved := 0, mem := []
                     owner := 0xF }
    else s.mbxAt k := by
  have hreset (j : Nat) : (s.finishReset m).mbxAt j = if m = j ∧ j < s.mbx.length then
      { s.mbxAt j with reqTail := 0, reqHead := 0, cplTail := 0, cplHead := 0, overrun := false, resetBusy := false, reserved := 0 }
      else s.mbxAt j := s.onMbx_mbxAt m j _
  have hlen : (s.finishReset m).mbx.length = s.mbx.length := List.length_modify ..
  rw [State.cleanMbx, State.onMbx_mbxAt, hlen, hreset]
  split_ifs <;> rfl

theorem State.cleanMbxs_mbxAt {k : Nat} : ∀ (ms : List Nat) (s : State), k < s.mbx.length →
    (k ∈ ms ∨ ((s.mbxAt k).owner = 0xF ∧ (s.mbxAt k).mem = [])) → ((s.cleanMbxs ms).mbxAt k).owner = 0xF ∧ ((s.cleanMbxs ms).mbxAt k).mem = []
  | [], _, _, h => h.resolve_left List.not_mem_nil
  | m :: ms, s, hk, h => by
    have hlen : (s.cleanMbx m).mbx.length = s.mbx.length := (List.length_modify ..).trans (List.length_modify ..)
    refine State.cleanMbxs_mbxAt ms (s.cleanMbx m) (by rw [hlen]; exact hk) ?_
    rw [State.cleanMbx_mbxAt]
    by_cases hm : m = k
    · rw [if_pos ⟨hm, hk⟩]
      exact .inr ⟨rfl, rfl⟩
    · rw [if_neg fun hc => hm hc.1]
      exact h.imp_left fun hc => (List.mem_cons.1 hc).resolve_left (Ne.symm hm)

theorem State.cleanMbxs_kol : ∀ (ms : List Nat) (s : State), Kolate.goesOn s.kol (s.cleanMbxs ms).kol
  | [], _ => Kolate.goesOn_refl _
  | m :: ms, s => (s.finishReset_kol m).trans (State.cleanMbxs_kol ms (s.cleanMbx m))

/-! ## The whole cleaning -/

/-- What a cleaning of domain d changes; the partition records are not among it. -/
theorem State.keeps_clean (s : State) (d : Nat) (r : Removal) (scrub : Bool) :
    s.keeps (s.clean d r scrub) [.cores, .ledger, .ckpt, .tables, .mbx, .kol, .sp, .seqs, .coll] := by
  rw [State.clean_eq]
  exact ((((((s.keeps_cleanPens r).andThen (State.keeps_cleanLedger _ _)).andThen (State.keeps_cleanTables _ _)).andThen
    (State.keeps_cleanMbxs _ _)).andThen (State.keeps_cleanBytes _ _ _)).andThen (State.keeps_cleanDomain _ _ _)).mono (by decide)

theorem State.clean_kol (s : State) (d : Nat) (r : Removal) (scrub : Bool) : Kolate.goesOn s.kol (s.clean d r scrub).kol := by
  let u := ((s.cleanPens r).cleanLedger r.ledger).cleanTables r.tables
  let v := u.cleanMbxs r.mbxs
  have hu : u.kol = s.kol := (((s.keeps_cleanPens r).andThen (State.keeps_cleanLedger _ _)).andThen (State.keeps_cleanTables _ _)).kol
  have hv : (s.clean d r scrub).kol = v.kol := ((v.keeps_cleanBytes scrub r.bytes).andThen (State.keeps_cleanDomain _ d r)).kol
  rw [hv, ← hu]
  exact u.cleanMbxs_kol r.mbxs

theorem State.clean_runq (s : State) (d : Nat) (r : Removal) (scrub : Bool) (k : Nat) : ((s.clean d r scrub).seqAt k).runq = (s.seqAt k).runq := by
  let u := (s.cleanPens r).cleanLedger r.ledger
  let v := u.cleanTables r.tables
  let w := (v.cleanMbxs r.mbxs).cleanBytes scrub r.bytes
  have hu : u.seqAt k = s.seqAt k := State.seqAt_of_seqs ((s.keeps_cleanPens r).andThen (State.keeps_cleanLedger _ _)).seqs k
  have hw : w.seqAt k = v.seqAt k := State.seqAt_of_seqs ((v.keeps_cleanMbxs r.mbxs).andThen (State.keeps_cleanBytes _ _ _)).seqs k
  rw [State.clean_eq, State.cleanDomain_runq, hw, State.cleanTables_runq, hu]

/-- Without a leaving mailbox the mailboxes stay. -/
theorem State.clean_mbx {r : Removal} (s : State) (d : Nat) (scrub : Bool) (h : r.mbxs = []) : (s.clean d r scrub).mbx = s.mbx := by
  let u := ((s.cleanPens r).cleanLedger r.ledger).cleanTables r.tables
  have hu : u.mbx = s.mbx := (((s.keeps_cleanPens r).andThen (State.keeps_cleanLedger _ _)).andThen (State.keeps_cleanTables _ _)).mbx
  rw [State.clean_eq, h]
  exact (((u.keeps_cleanBytes scrub r.bytes).andThen (State.keeps_cleanDomain _ d r)).mbx).trans hu

/-- What has left the domain is zero, and its mailboxes have no owner. -/
theorem State.clean_zero (s : State) (d : Nat) (r : Removal) (scrub : Bool) :
    let t := s.clean d r scrub
    (∀ i ∈ r.tables, ∀ b, 2560 * i ≤ b → b < 2560 * i + 2560 → t.tables.read b = 0) ∧
      (∀ g ∈ r.ledger, ∀ b, 32 * g.1 ≤ b → b < 32 * g.2 → t.ledger.read b = 0) ∧
      (∀ k ∈ r.mbxs, k < s.mbx.length → (t.mbxAt k).owner = 0xF ∧ (t.mbxAt k).mem = []) ∧
      (scrub = false → t.sp = s.sp) ∧ (scrub = true → ∀ g ∈ r.bytes, ∀ b, g.1 ≤ b → b < g.2 → t.sp.read b = 0) := by
  intro t
  let p := s.cleanPens r
  let l := p.cleanLedger r.ledger
  let u := l.cleanTables r.tables
  let v := u.cleanMbxs r.mbxs
  let w := v.cleanBytes scrub r.bytes
  have hpl : s.keeps l [.cores, .ledger, .ckpt] := (s.keeps_cleanPens r).andThen (p.keeps_cleanLedger r.ledger)
  have hlu := l.keeps_cleanTables r.tables
  have huv := u.keeps_cleanMbxs r.mbxs
  have hvw := v.keeps_cleanBytes scrub r.bytes
  have hwt : w.keeps t [.seqs, .coll] := w.keeps_cleanDomain d r
  refine ⟨fun i hi b hlo hhi => ?_, fun g hg b hlo hhi => ?_, fun k hk hlt => ?_, fun hno => ?_, fun hyes g hg b hlo hhi => ?_⟩
  · rw [show t.tables = u.tables from ((huv.andThen hvw).andThen hwt).tables]
    exact l.cleanTables_zero hi b hlo hhi
  · rw [show t.ledger = l.ledger from (((hlu.andThen huv).andThen hvw).andThen hwt).ledger]
    exact p.cleanLedger_zero hg b hlo hhi
  · have hmbx : u.mbx = s.mbx := (hpl.andThen hlu).mbx
    rw [State.mbxAt_of_mbx (hvw.andThen hwt).mbx k]
    exact State.cleanMbxs_mbxAt r.mbxs u (by rw [hmbx]; exact hlt) (.inl hk)
  · have hw : w = v := by
      simp only [w, hno]
      rfl
    rw [show t.sp = w.sp from hwt.sp, hw]
    exact ((hpl.andThen hlu).andThen huv).sp
  · subst hyes
    rw [show t.sp = w.sp from hwt.sp]
    exact v.cleanBytes_zero hg b hlo hhi

end Machine
end Sys2Proof
end

section
/-! PROOFS. PART_SET, PARTITION_ADOPT and PARTITION_CLEAN_DONE: the record, its adoption, and the end of the cleaning (04 R129; 05 R132, R133,
R136, R137). -/

namespace Sys2Proof.Machine

variable {s : State} {m : Nat}

/-! ## The end of a cleaning (R137) -/

/-- The state in which a cleaning has ended, before PART_SET is answered. -/
def State.cleaned (s : State) (c : Cleaning) : State := ((s.takeRecord c.dom).clean c.dom (s.removal c) c.scrubSp).refreshFps

theorem State.cleanEnd_eq (s : State) (c : Cleaning) : s.cleanEnd c = (s.cleaned c).answer c.req rOk := rfl

theorem State.clean_keeps_cleaned (s : State) (c : Cleaning) :
    ((s.takeRecord c.dom).clean c.dom (s.removal c) c.scrubSp).keeps (s.cleaned c) [.coll] := (State.refreshFps_spec _).2

/-- A domain that the state does not have has neither a record nor one that it acts under. -/
theorem State.takeRecord_partAt (s : State) (d e : Nat) : (s.takeRecord d).partAt e =
    if e = d then { s.partAt d with liveNow := (s.partAt d).live, wordsNow := (s.partAt d).words } else s.partAt e := by
  rw [State.takeRecord, State.onPart_partAt]
  by_cases h : e = d
  · subst h
    rw [if_pos rfl]
    by_cases hlen : e < s.parts.length
    · rw [if_pos ⟨rfl, hlen⟩]
    · have hnone : s.partAt e = Domain.initial := by
        rw [State.partAt, List.getD_eq_getElem?_getD, List.getElem?_eq_none (Nat.not_lt.1 hlen)]
        rfl
      rw [if_neg fun hc => hlen hc.2, hnone]
      rfl
  · rw [if_neg fun hc => h hc.1.symm, if_neg h]

theorem State.cleaned_partAt (s : State) (c : Cleaning) (e : Nat) : (s.cleaned c).partAt e = (s.takeRecord c.dom).partAt e := by
  have h := ((State.keeps_clean (s.takeRecord c.dom) c.dom (s.removal c) c.scrubSp).andThen (s.clean_keeps_cleaned c)).parts
  rw [State.partAt, h]
  rfl

theorem State.cleaned_kol (s : State) (c : Cleaning) : Kolate.goesOn s.kol (s.cleaned c).kol := by
  rw [(s.clean_keeps_cleaned c).kol]
  exact State.clean_kol (s.takeRecord c.dom) c.dom (s.removal c) c.scrubSp

theorem State.cleaned_runq (s : State) (c : Cleaning) (k : Nat) : ((s.cleaned c).seqAt k).runq = (s.seqAt k).runq := by
  rw [State.seqAt_of_seqs (s.clean_keeps_cleaned c).seqs k, State.clean_runq]
  rfl

/-- What the answer to a request leaves of the control core. -/
theorem Kolate.letGo_rest (k : Kolate) (r : Req) : (k.letGo r).stalled = k.stalled ∧ (k.held = none → (k.letGo r).held = none) ∧
    (k.cleaning.map Cleaning.req = some r → (k.letGo r).cleaning = none) ∧
    ∀ e, (k.letGo r).cleaning = some e → k.cleaning = some e := by
  refine ⟨rfl, fun h => ?_, fun h => if_pos h, fun e he => ?_⟩
  · simp [Kolate.letGo, h]
  · simp only [Kolate.letGo] at he
    split_ifs at he
    exact he

/-- The control core, the records and the run queues after the end of a cleaning. -/
theorem State.cleanEnd_spec (s : State) (c : Cleaning) :
    let t := s.cleanEnd c
    t.kol.stalled = s.kol.stalled ∧ (s.kol.held = none → t.kol.held = none) ∧ (s.kol.cleaning = some c → t.kol.cleaning = none) ∧
      (∀ e, t.kol.cleaning = some e → s.kol.cleaning = some e) ∧ (∀ e, t.partAt e = (s.takeRecord c.dom).partAt e) ∧
      ∀ k, (t.seqAt k).runq = (s.seqAt k).runq := by
  intro t
  let w := s.cleaned c
  have hwt : w.keeps t [.mbx, .kol] := by
    rw [show t = _ from s.cleanEnd_eq c]
    exact w.keeps_complete c.req rOk 0 0 0 0
  have hk : t.kol = { w.kol.letGo c.req with epochs := t.kol.epochs } := (w.complete_kol c.req rOk 0 0 0 0).rest
  have hw : w.kol = { s.kol with epochs := w.kol.epochs } := (s.cleaned_kol c).rest
  obtain ⟨hstall, hheld, hnone, hstay⟩ := w.kol.letGo_rest c.req
  have hcleaning : w.kol.cleaning = s.kol.cleaning := by rw [hw]
  rw [hcleaning] at hnone hstay
  refine ⟨?_, fun h => ?_, fun h => ?_, fun e he => hstay e ?_, fun e => ?_, fun k => ?_⟩
  · rw [hk]
    exact hstall.trans (by rw [hw])
  · rw [hk]
    exact hheld (by rw [hw]; exact h)
  · rw [hk]
    exact hnone (by rw [h]; rfl)
  · rw [hk] at he
    exact he
  · rw [State.partAt, hwt.parts]
    exact s.cleaned_partAt c e
  · rw [State.seqAt_of_seqs hwt.seqs k]
    exact s.cleaned_runq c k

/-- A completion leaves the mailboxes of other requests. -/
theorem State.complete_mbxAt_other (s : State) (r : Req) (code detail : Nat) (r1 r2 r3 : Word) {k : Nat} (hk : k ≠ r.mbox) :
    (s.complete r code detail r1 r2 r3).mbxAt k = s.mbxAt k := by
  have other (u : State) (f : Mailbox → Mailbox) : (u.onMbx r.mbox f).mbxAt k = u.mbxAt k :=
    (u.onMbx_mbxAt r.mbox k f).trans (if_neg fun hc => hk hc.1.symm)
  unfold State.complete
  extract_lets twice u v w
  have hu : u.mbxAt k = s.mbxAt k := by
    simp only [u]
    split_ifs
    · exact other s _
    · rfl
  have hv : v.mbxAt k = u.mbxAt k := by
    simp only [v, State.post]
    split_ifs
    · rfl
    · exact other u _
  have hw : w.mbxAt k = s.mbxAt k := hv.trans hu
  split_ifs
  · exact (other w _).trans hw
  · exact hw

theorem exec_partitionCleanDone {c : Cleaning} (hc : s.kol.cleaning = some c) (ha : c.adopted = true)
    (hrun : c.awaitEpoch = true → (s.seqAt c.dom).run = none) : exec .partitionCleanDone s = .next (s.cleanEnd c) := by
  show execPartitionCleanDone s = _
  unfold execPartitionCleanDone
  rw [hc]
  refine whenTrue_of ?_ _ _
  cases hw : c.awaitEpoch with
  | true => simp [ha, hrun hw]
  | false => simp [ha]

/-! ## Adoption (R136) -/

/-- Mailboxes that join their domain change their owner alone. -/
theorem State.ownMbxs_mbxAt (o : BitVec 4) (k : Nat) : ∀ (ms : List Nat) (s : State),
    let t := ms.foldl (fun s m => s.onMbx m fun b => { b with owner := o }) s
    t.mbx.length = s.mbx.length ∧ t.mbxAt k = { s.mbxAt k with owner := (t.mbxAt k).owner } ∧
      (k < s.mbx.length → k ∈ ms ∨ (s.mbxAt k).owner = o → (t.mbxAt k).owner = o)
  | [], _ => ⟨rfl, rfl, fun _ h => h.resolve_left List.not_mem_nil⟩
  | m :: ms, s => by
    let u := s.onMbx m fun b => { b with owner := o }
    have hlen : u.mbx.length = s.mbx.length := List.length_modify ..
    have hu : u.mbxAt k = if m = k ∧ k < s.mbx.length then { s.mbxAt k with owner := o } else s.mbxAt k := s.onMbx_mbxAt m k _
    obtain ⟨hl, hsame, howner⟩ := State.ownMbxs_mbxAt o k ms u
    refine ⟨hl.trans hlen, ?_, fun hk h => howner (by rw [hlen]; exact hk) ?_⟩
    · refine hsame.trans ?_
      rw [hu]
      split_ifs <;> rfl
    · rw [hu]
      by_cases hm : m = k
      · rw [if_pos ⟨hm, hk⟩]
        exact .inr rfl
      · rw [if_neg fun hc => hm hc.1]
        exact h.imp_left fun hc => (List.mem_cons.1 hc).resolve_left (Ne.symm hm)

theorem State.joinMbxs_mbxAt (s : State) (d k : Nat) :
    (s.joinMbxs d).mbxAt k = { s.mbxAt k with owner := ((s.joinMbxs d).mbxAt k).owner } ∧
      (k < s.mbx.length → k < 16 → (partMbxs (s.partAt d).words).testBit k = true → ((s.joinMbxs d).mbxAt k).owner = BitVec.ofNat 4 d) := by
  obtain ⟨-, hsame, howner⟩ := State.ownMbxs_mbxAt (BitVec.ofNat 4 d) k
    ((List.range 16).filter fun m => (partMbxs (s.partAt d).words).testBit m) s
  exact ⟨hsame, fun hk h16 hbit => howner hk (.inl (List.mem_filter.2 ⟨List.mem_range.2 h16, hbit⟩))⟩

theorem State.keeps_joinMbxs (s : State) (d : Nat) : s.keeps (s.joinMbxs d) [.mbx] := State.keeps_foldl _ (fun s m => s.keeps_onMbx m _) _ _

theorem State.keeps_unarmHit (s : State) (d : Nat) (r : Removal) : s.keeps (s.unarmHit d r) [.seqs] :=
  State.keeps_ite (s.keeps_onSeq d _) (s.keeps_refl _)

theorem Sequencer.unarm_runq (x : Sequencer) : x.unarm.runq = x.runq := by
  unfold Sequencer.unarm
  split <;> rfl

theorem State.unarmHit_runq (s : State) (d : Nat) (r : Removal) (k : Nat) : ((s.unarmHit d r).seqAt k).runq = (s.seqAt k).runq := by
  unfold State.unarmHit
  split_ifs
  · exact s.onSeq_runq d k _ Sequencer.unarm_runq
  · rfl

/-- What an adoption leaves: the records, the run queues, the mailboxes and the control core. -/
theorem State.adopt_spec (s : State) (c : Cleaning) :
    let t := s.adopt c
    t.kol = { s.kol with cleaning := some { c with adopted := true } } ∧ (∀ e, e ≠ c.dom → t.partAt e = s.partAt e) ∧
      t.partAt c.dom = { (if c.awaitEpoch then s else s.takeRecord c.dom).partAt c.dom with pending := false } ∧
      (∀ k, (t.seqAt k).runq = (s.seqAt k).runq) ∧ (∀ k, t.mbxAt k = { s.mbxAt k with owner := (t.mbxAt k).owner }) ∧
      ∀ k, k < s.mbx.length → k < 16 → (partMbxs (s.partAt c.dom).words).testBit k = true → (t.mbxAt k).owner = BitVec.ofNat 4 c.dom := by
  intro t
  let u := s.unarmHit c.dom (s.removal c)
  let v := u.joinMbxs c.dom
  let w := if c.awaitEpoch then v else v.takeRecord c.dom
  have hsu : s.keeps u [.seqs] := s.keeps_unarmHit c.dom (s.removal c)
  have huv : u.keeps v [.mbx] := u.keeps_joinMbxs c.dom
  have hvw : v.keeps w [.parts] := State.keeps_ite (v.keeps_refl _) (v.keeps_onPart c.dom _)
  have hwt : w.keeps t [.parts, .kol] := (w.keeps_onPart c.dom _).andThen (State.keeps_onKol _ _)
  have hparts (e : Nat) : v.partAt e = s.partAt e := by rw [State.partAt, (hsu.andThen huv).parts]; rfl
  have hw (e : Nat) : w.partAt e = (if c.awaitEpoch then s else s.takeRecord c.dom).partAt e := by
    simp only [w]
    split_ifs
    · exact hparts e
    · rw [State.takeRecord_partAt, State.takeRecord_partAt, hparts, hparts]
  have ht (e : Nat) : t.partAt e = if c.dom = e ∧ e < w.parts.length then { w.partAt e with pending := false } else w.partAt e :=
    w.onPart_partAt c.dom e _
  have hmbx (k : Nat) : t.mbxAt k = v.mbxAt k := State.mbxAt_of_mbx (hvw.andThen hwt).mbx k
  have hsame (k : Nat) : u.mbxAt k = s.mbxAt k := State.mbxAt_of_mbx hsu.mbx k
  refine ⟨?_, fun e he => ?_, ?_, fun k => ?_, fun k => ?_, fun k hk h16 hbit => ?_⟩
  · show ({ w.kol with cleaning := some { c with adopted := true } } : Kolate) = _
    rw [((hsu.andThen huv).andThen hvw).kol]
  · rw [ht, if_neg fun hc => he hc.1.symm, hw]
    split_ifs
    · rfl
    · rw [State.takeRecord_partAt, if_neg he]
  · rw [ht, ← hw c.dom]
    by_cases hlen : c.dom < w.parts.length
    · rw [if_pos ⟨rfl, hlen⟩]
    · have hnone : w.partAt c.dom = Domain.initial := by
        rw [State.partAt, List.getD_eq_getElem?_getD, List.getElem?_eq_none (Nat.not_lt.1 hlen)]
        rfl
      rw [if_neg fun hc => hlen hc.2, hnone]
      rfl
  · rw [State.seqAt_of_seqs ((huv.andThen hvw).andThen hwt).seqs k]
    exact s.unarmHit_runq c.dom _ k
  · rw [hmbx]
    refine (u.joinMbxs_mbxAt c.dom k).1.trans ?_
    rw [hsame]
  · rw [hmbx]
    have hu : u.partAt c.dom = s.partAt c.dom := by rw [State.partAt, hsu.parts]; rfl
    exact (u.joinMbxs_mbxAt c.dom k).2 (by rw [hsu.mbx]; exact hk) h16 (by rw [hu]; exact hbit)

/-- After an adoption the request goes on with its cleaning, or has ended it. -/
theorem State.afterAdopt_adopt (s : State) (c : Cleaning) : (s.adopt c).afterAdopt =
    if !c.awaitEpoch ∧ !((s.adopt c).removal c).any then (s.adopt c).cleanEnd { c with adopted := true } else s.adopt c := by
  have hc : (s.adopt c).kol.cleaning = some { c with adopted := true } := rfl
  unfold State.afterAdopt
  rewrite [hc]
  simp only [true_and]
  rfl

theorem State.takeRecord_pending (s : State) (d e : Nat) : ((s.takeRecord d).partAt e).pending = (s.partAt e).pending := by
  rw [State.takeRecord_partAt]
  split_ifs with h
  · rw [h]
  · rfl

/-- The ADOPT entry is taken: whatever the boundary has brought, the record waits no longer and the stall ends. -/
theorem State.adoptTaken_spec (s : State) (c : Cleaning) (hstall : s.kol.stalled = false) (hqueue : .adopt ∉ (s.seqAt c.dom).runq) :
    let t := (s.adopt c).afterAdopt
    (t.partAt c.dom).pending = false ∧ .adopt ∉ (t.seqAt c.dom).runq ∧ t.kol.stalled = false ∧
      ∀ e, t.kol.cleaning = some e → e.adopted = true := by
  intro t
  obtain ⟨hkol, -, hpart, hrunq, -, -⟩ := s.adopt_spec c
  have hadopted : ((s.adopt c).partAt c.dom).pending = false ∧ .adopt ∉ ((s.adopt c).seqAt c.dom).runq ∧ (s.adopt c).kol.stalled = false ∧
      ∀ e, (s.adopt c).kol.cleaning = some e → e.adopted = true := by
    refine ⟨by rw [hpart], by rw [hrunq]; exact hqueue, by rw [hkol]; exact hstall, fun e he => ?_⟩
    rw [hkol] at he
    obtain rfl := Option.some.inj he
    rfl
  have ht : t = _ := s.afterAdopt_adopt c
  rw [ht]
  split_ifs
  · obtain ⟨hp, hq, hs, hc⟩ := hadopted
    obtain ⟨hstalled, -, -, hstay, hparts, hqueues⟩ := (s.adopt c).cleanEnd_spec { c with adopted := true }
    exact ⟨by rw [hparts, State.takeRecord_pending]; exact hp, by rw [hqueues]; exact hq, hstalled.trans hs, fun e he => hc e (hstay e he)⟩
  · exact hadopted

/-- The state in which the ADOPT entry has been taken, at the command boundary that the sequencer has come to. -/
def State.adoptTaken (s : State) (q since : Nat) : State :=
  ((s.toBoundary q since).onSeq q fun x => { x with runq := x.runq.filter (· != .adopt) }).onKol fun k => { k with stalled := false }

theorem State.adoptTaken_runq (s : State) (q since : Nat) : .adopt ∉ ((s.adoptTaken q since).seqAt q).runq := by
  have h : (s.adoptTaken q since).seqAt q = ((s.toBoundary q since).onSeq q fun x => { x with runq := x.runq.filter (· != .adopt) }).seqAt q := rfl
  rw [h, State.onSeq_seqAt]
  by_cases hq : q < (s.toBoundary q since).seqs.length
  · rw [if_pos ⟨rfl, hq⟩]
    simp
  · rw [if_neg fun hc => hq hc.2, State.seqAt, List.getD_eq_getElem?_getD, List.getElem?_eq_none (Nat.not_lt.1 hq)]
    exact List.not_mem_nil

theorem exec_partitionAdopt {q : Nat} {c : Cleaning} (hc : s.kol.cleaning = some c) (hq : c.dom = q) (ha : c.adopted = false) :
    let u := s.adoptTaken q c.since
    let hit := u.runningHit q (u.removal c)
    exec (.partitionAdopt q) s =
      .next ((if hit then u.abortEpoch q 0x20 none else u).adopt { c with awaitEpoch := hit }).afterAdopt := by
  show execPartitionAdopt q s = _
  unfold execPartitionAdopt
  rewrite [hc]
  dsimp only
  rewrite [if_pos ⟨hq, by rw [ha]; rfl⟩]
  rfl

/-! ## The record (R132, R136) -/

/-- A domain with a session key, or without one. -/
def State.keyed (s : State) (d : Nat) (b : Bool) (k : BitVec 256) : State := s.onPart d fun p => { p with hasKey := b, key := k }

theorem State.setKey_eq (s : State) (d : Nat) (old new : List Word) (live : Bool) : s.setKey d old new live =
    if installsKey old new live then
      ({ s.keyed d true ((s.unwrap new).getD 0) with keyHigh := s.keyHigh.set (partTenant new) (partKeyGen new) } : State).zeroCounters d
    else if partKeyGen old != 0 ∧ old.drop 8 ≠ new.drop 8 then (s.keyed d false 0).zeroCounters d
    else s := rfl

theorem State.keeps_withKeyHigh (s : State) (l : List Nat) : s.keeps { s with keyHigh := l } [.keyHigh] := by
  intro f hf
  cases f <;> first | rfl | exact absurd (by decide) hf

theorem State.keeps_zeroCounters (s : State) (d : Nat) : s.keeps (s.zeroCounters d) [.ports] := by
  intro f hf
  cases f <;> first | rfl | exact absurd (by decide) hf

/-- A key leaves the domain's record and the one that it acts under, and the other domains. -/
theorem State.keyed_parts {u : State} {d : Nat} {b : Bool} {k : BitVec 256} (hu : u.parts = (s.keyed d b k).parts) :
    u.parts.length = s.parts.length ∧ (∀ e, e ≠ d → u.partAt e = s.partAt e) ∧
      u.partAt d = { s.partAt d with hasKey := (u.partAt d).hasKey, key := (u.partAt d).key } := by
  have hat (e : Nat) : u.partAt e = if d = e ∧ e < s.parts.length then { s.partAt e with hasKey := b, key := k } else s.partAt e := by
    rw [State.partAt, hu]
    exact s.onPart_partAt d e _
  refine ⟨by rw [hu]; exact List.length_modify .., fun e he => (hat e).trans (if_neg fun hc => he hc.1.symm), ?_⟩
  rw [hat]
  split_ifs <;> rfl

theorem State.setKey_spec (s : State) (d : Nat) (old new : List Word) (live : Bool) :
    let t := s.setKey d old new live
    s.keeps t [.parts, .keyHigh, .ports] ∧ t.parts.length = s.parts.length ∧ (∀ e, e ≠ d → t.partAt e = s.partAt e) ∧
      t.partAt d = { s.partAt d with hasKey := (t.partAt d).hasKey, key := (t.partAt d).key } := by
  intro t
  simp only [t, State.setKey_eq]
  split_ifs
  · let u := s.keyed d true ((s.unwrap new).getD 0)
    have hk := ((s.keeps_onPart d _).andThen (u.keeps_withKeyHigh (s.keyHigh.set (partTenant new) (partKeyGen new)))).andThen
      (State.keeps_zeroCounters _ d)
    exact ⟨hk.mono (by decide), State.keyed_parts (b := true) (k := (s.unwrap new).getD 0) rfl⟩
  · let u := s.keyed d false 0
    exact ⟨((s.keeps_onPart d _).andThen (u.keeps_zeroCounters d)).mono (by decide), State.keyed_parts (b := false) (k := 0) rfl⟩
  · exact ⟨s.keeps_refl _, rfl, fun _ _ => rfl, rfl⟩

/-- The words that a domain holds: zero where it is not live. -/
def State.heldWords (s : State) (d : Nat) : List Word := if (s.partAt d).live then (s.partAt d).words else List.replicate 16 0

/-- The cleaning that a PART_SET of domain d begins. -/
def State.cleaningOf (s : State) (r : Req) (d : Nat) (scrub : Bool) : Cleaning :=
  { dom := d, since := s.clk.rackTime, req := r, oldWords := s.heldWords d, adopted := false, awaitEpoch := false, awaitDrain := false
    scrubSp := scrub }

/-- The state in which a change of domain d has been recorded, before its adoption. -/
def State.recorded (s : State) (r : Req) (d : Nat) (ws : List Word) (live scrub : Bool) : State :=
  ((s.setKey d (s.heldWords d) ws (s.partAt d).live).onPart d fun p => { p with live := live, words := ws, pending := true }).onKol fun k =>
    { k with held := none, cleaning := some (s.cleaningOf r d scrub) }

theorem State.recorded_spec {d : Nat} (s : State) (r : Req) (ws : List Word) (live scrub : Bool) (hd : d < s.parts.length) :
    let t := s.recorded r d ws live scrub
    s.keeps t [.parts, .keyHigh, .ports, .kol] ∧ t.kol = { s.kol with held := none, cleaning := some (s.cleaningOf r d scrub) } ∧
      (∀ e, e ≠ d → t.partAt e = s.partAt e) ∧ (t.partAt d).live = live ∧ (t.partAt d).words = ws ∧ (t.partAt d).pending = true ∧
      (t.partAt d).liveNow = (s.partAt d).liveNow ∧ (t.partAt d).wordsNow = (s.partAt d).wordsNow := by
  intro t
  let u := s.setKey d (s.heldWords d) ws (s.partAt d).live
  obtain ⟨hk, hlen, hothers, hself⟩ := s.setKey_spec d (s.heldWords d) ws (s.partAt d).live
  have ht (e : Nat) : t.partAt e = if d = e ∧ e < u.parts.length then { u.partAt e with live := live, words := ws, pending := true }
      else u.partAt e := u.onPart_partAt d e _
  have htd := (ht d).trans (if_pos ⟨rfl, by rw [hlen]; exact hd⟩)
  refine ⟨((hk.andThen (u.keeps_onPart d _)).andThen (State.keeps_onKol _ _)).mono (by decide), ?_,
    fun e he => ((ht e).trans (if_neg fun hc => he hc.1.symm)).trans (hothers e he), by rw [htd], by rw [htd], by rw [htd], ?_, ?_⟩
  · show ({ u.kol with held := none, cleaning := some (s.cleaningOf r d scrub) } : Kolate) = _
    rw [hk.kol]
  · rw [htd, hself]
  · rw [htd, hself]

/-- An idle sequencer adopts at once; a running one gets an ADOPT entry. -/
theorem State.recordPart_eq (s : State) (r : Req) (d : Nat) (ws : List Word) (live scrub : Bool) : s.recordPart r d ws live scrub =
    if ((s.recorded r d ws live scrub).seqAt d).run.isSome then
      (s.recorded r d ws live scrub).onSeq d fun q => { q with runq := q.runq ++ [.adopt] }
    else ((s.recorded r d ws live scrub).adopt (s.cleaningOf r d scrub)).afterAdopt := by
  have hclk : s.clk = (s.setKey d (s.heldWords d) ws (s.partAt d).live).clk := (s.setKey_spec d (s.heldWords d) ws (s.partAt d).live).1.clk.symm
  unfold State.recorded State.cleaningOf
  rewrite [hclk]
  rfl

/-- The record of a PART_SET that has passed its checks, with ACTIVE 1 or 0. -/
theorem State.addRecord_eq {r : Req} {d : Nat} {ws : List Word} {live scrub : Bool} (s : State) (hd : field (r.arg 1) 0 3 = d)
    (hlive : (r.arg 1).getLsbD 8 = live) (hscrub : (r.arg 1).getLsbD 9 = scrub)
    (hws : (if live then s.partRecord r else List.replicate 16 0) = ws) : s.addRecord r =
      if (s.seqAt d).run.isSome && decide (8 ≤ (s.seqAt d).runq.length) then s.stall else s.recordPart r d ws live scrub := by
  subst hd hlive hscrub hws
  unfold State.addRecord
  cases (r.arg 1).getLsbD 8 <;> rfl

/-- Domain d has a record and acts under it, and no other domain has changed; the control core holds no request. -/
structure State.adopts (s t : State) (d : Nat) (ws : List Word) (on : Bool) : Prop where
  live : (t.partAt d).live = on
  words : (t.partAt d).words = ws
  liveNow : (t.partAt d).liveNow = on
  wordsNow : (t.partAt d).wordsNow = ws
  pending : (t.partAt d).pending = false
  others : ∀ e, e ≠ d → t.partAt e = s.partAt e
  held : t.kol.held = none

/-- The record of domain d has been made and adopted, for a request that Kolate has taken. -/
def State.adopted (s : State) (r : Req) (d : Nat) (ws : List Word) (live scrub : Bool) : State :=
  (s.recorded r d ws live scrub).adopt (s.cleaningOf r d scrub)

theorem State.adopts_adopted {d : Nat} (s : State) (r : Req) (ws : List Word) (live scrub : Bool) (hd : d < s.parts.length) :
    s.adopts (s.adopted r d ws live scrub) d ws live := by
  let u := s.recorded r d ws live scrub
  obtain ⟨-, hkol, hothers, hlive, hwords, -, -, -⟩ := s.recorded_spec r ws live scrub hd
  obtain ⟨hakol, haothers, hpart, -, -, -⟩ := u.adopt_spec (s.cleaningOf r d scrub)
  have hat : (s.adopted r d ws live scrub).partAt d =
      { u.partAt d with liveNow := (u.partAt d).live, wordsNow := (u.partAt d).words, pending := false } :=
    hpart.trans (congrArg (fun p : Domain => { p with pending := false }) ((u.takeRecord_partAt d d).trans (if_pos rfl)))
  have hheld : (s.adopted r d ws live scrub).kol.held = u.kol.held := by
    rw [show (s.adopted r d ws live scrub).kol = _ from hakol]
  exact
    { live := by rw [hat]; exact hlive
      words := by rw [hat]; exact hwords
      liveNow := by rw [hat]; exact hlive
      wordsNow := by rw [hat]; exact hwords
      pending := by rw [hat]
      others := fun e he => (haothers e he).trans (hothers e he)
      held := hheld.trans (by rw [hkol]) }

/-- The end of the cleaning leaves the record. -/
theorem State.adopts.cleanEnd {t : State} {d : Nat} {ws : List Word} {live : Bool} (h : s.adopts t d ws live) {c : Cleaning} (hc : c.dom = d) :
    s.adopts (t.cleanEnd c) d ws live := by
  subst hc
  obtain ⟨-, hheld, -, -, hparts, -⟩ := t.cleanEnd_spec c
  have hat : (t.cleanEnd c).partAt c.dom = { t.partAt c.dom with liveNow := (t.partAt c.dom).live, wordsNow := (t.partAt c.dom).words } :=
    (hparts c.dom).trans ((t.takeRecord_partAt c.dom c.dom).trans (if_pos rfl))
  exact
    { live := by rw [hat]; exact h.live
      words := by rw [hat]; exact h.words
      liveNow := by rw [hat]; exact h.live
      wordsNow := by rw [hat]; exact h.words
      pending := by rw [hat]; exact h.pending
      others := fun e he => ((hparts e).trans ((t.takeRecord_partAt c.dom e).trans (if_neg he))).trans (h.others e he)
      held := hheld h.held }

/-- What leaves is known from the words before and after. -/
theorem State.adopted_removal {d : Nat} (s : State) (r : Req) (ws : List Word) (live scrub : Bool) (hd : d < s.parts.length) (b : Bool) :
    (s.adopted r d ws live scrub).removal { s.cleaningOf r d scrub with adopted := b } = ⟨s.heldWords d, ws⟩ :=
  congrArg (Removal.mk (s.heldWords d)) (s.adopts_adopted r ws live scrub hd).words

/-- The mailboxes of the adopted record's domain, and what the adoption leaves of every mailbox. -/
theorem State.adopted_mbxAt {d : Nat} (s : State) (r : Req) (ws : List Word) (live scrub : Bool) (hd : d < s.parts.length) (k : Nat) :
    let t := s.adopted r d ws live scrub
    t.mbx.length = s.mbx.length ∧ t.mbxAt k = { s.mbxAt k with owner := (t.mbxAt k).owner } ∧
      (k < s.mbx.length → k < 16 → (partMbxs ws).testBit k = true → (t.mbxAt k).owner = BitVec.ofNat 4 d) := by
  intro t
  let u := s.recorded r d ws live scrub
  obtain ⟨hk, -, -, -, hwords, -⟩ := s.recorded_spec r ws live scrub hd
  obtain ⟨-, -, -, -, hmbx, howner⟩ := u.adopt_spec (s.cleaningOf r d scrub)
  have hsame : u.mbxAt k = s.mbxAt k := State.mbxAt_of_mbx hk.mbx k
  have hlen : u.mbx.length = s.mbx.length := congrArg List.length hk.mbx
  have hlen' : t.mbx.length = u.mbx.length := congrArg Shape.mbx (State.shape_adopt _ _)
  refine ⟨hlen'.trans hlen, (hmbx k).trans (by rw [hsame]; rfl), fun hlt h16 hbit => howner k (by rw [hlen]; exact hlt) h16 ?_⟩
  rw [show (u.partAt (s.cleaningOf r d scrub).dom).words = ws from hwords]
  exact hbit

theorem Removal.mbxs_of_not_any {r : Removal} (h : r.any = false) : r.mbxs = [] := by
  simp only [Removal.any, Bool.or_eq_false_iff, Bool.not_eq_false'] at h
  obtain ⟨⟨⟨⟨-, hmbxs⟩, -⟩, -⟩, -⟩ := h
  exact List.isEmpty_iff.1 hmbxs

/-- The end of a cleaning that no mailbox leaves: the request is answered in its own, and owners stay. -/
theorem State.cleanEnd_mbxAt {c : Cleaning} (s : State) (hempty : (s.removal c).mbxs = []) (hone : c.req.twice = false) (hlt : c.req.mbox < s.mbx.length)
    (hworks : s.kol.works = true) (hover : (s.mbxAt c.req.mbox).overrun = false) (hreset : (s.mbxAt c.req.mbox).resetBusy = false) :
    let t := s.cleanEnd c
    (t.mbxAt c.req.mbox).cplTail = (s.mbxAt c.req.mbox).cplTail + 1 ∧ ∀ k, (t.mbxAt k).owner = (s.mbxAt k).owner := by
  intro t
  let r := c.req
  let w := s.cleaned c
  have hmbx : w.mbx = s.mbx := ((s.clean_keeps_cleaned c).mbx).trans ((s.takeRecord c.dom).clean_mbx c.dom c.scrubSp hempty)
  have hat (k : Nat) : w.mbxAt k = s.mbxAt k := State.mbxAt_of_mbx hmbx k
  have hkol : w.kol = { s.kol with epochs := w.kol.epochs } := (s.cleaned_kol c).rest
  have hnot : ¬ (r.opcode = 0x13 ∨ r.opcode = 0x14) := by simpa [Req.twice] using hone
  have hdone : t = (w.onMbx r.mbox fun b => b.store (cplEntry r.tag r.opcode.toNat rOk 0 0 0 0)).onKol fun k => k.letGo r :=
    State.complete_eq w r rOk 0 0 0 0 (fun h => absurd h hnot) (by rw [hkol]; exact hworks) (by rw [hat]; exact hover) (by rw [hat]; exact hreset)
  have ht (k : Nat) : t.mbxAt k = if r.mbox = k ∧ k < s.mbx.length then (s.mbxAt k).store (cplEntry r.tag r.opcode.toNat rOk 0 0 0 0)
      else s.mbxAt k := by
    rw [hdone, ← hat k, ← hmbx]
    exact w.onMbx_mbxAt r.mbox k _
  refine ⟨?_, fun k => ?_⟩
  · rw [ht, if_pos ⟨rfl, hlt⟩, Mailbox.store_eq]
  · rw [ht]
    split_ifs
    · rw [Mailbox.store_eq]
    · rfl

/-- A PART_SET on an idle sequencer: the record is adopted at once, and without anything leaving the request is answered. -/
theorem State.offers.recordPart_idle (h : s.offers m) (hone : (s.reqAt m).twice = false) {d : Nat} {ws : List Word} {live scrub : Bool}
    (hd : d < s.parts.length) (hrun : (s.seqAt d).run = none) :
    let t := (s.take (s.reqAt m)).recordPart (s.reqAt m) d ws live scrub
    s.adopts t d ws live ∧
      ((Removal.any ⟨s.heldWords d, ws⟩) = true → ∃ c, t.kol.cleaning = some c ∧ c.dom = d ∧ c.adopted = true ∧ c.req = s.reqAt m) ∧
      ((Removal.any ⟨s.heldWords d, ws⟩) = false → t.kol.cleaning = none ∧ (t.mbxAt m).cplTail = (s.mbxAt m).cplTail + 1) ∧
      ∀ k, k < s.mbx.length → k < 16 → (partMbxs ws).testBit k = true → (t.mbxAt k).owner = BitVec.ofNat 4 d := by
  intro t
  let r := s.reqAt m
  let v := s.take r
  let c : Cleaning := { v.cleaningOf r d scrub with adopted := true }
  let a := v.adopted r d ws live scrub
  have hlen : v.mbx.length = s.mbx.length := List.length_modify ..
  have hadopts : s.adopts a d ws live := by
    obtain ⟨h1, h2, h3, h4, h5, h6, h7⟩ := v.adopts_adopted r ws live scrub hd
    exact ⟨h1, h2, h3, h4, h5, h6, h7⟩
  obtain ⟨hrec, hrkol, -⟩ := v.recorded_spec r ws live scrub hd
  obtain ⟨hakol, -⟩ := (v.recorded r d ws live scrub).adopt_spec (v.cleaningOf r d scrub)
  have hcleaning : a.kol.cleaning = some c := by
    rw [show a.kol = _ from hakol]
  have hremoval (b : Bool) : a.removal { c with adopted := b } = ⟨s.heldWords d, ws⟩ := v.adopted_removal r ws live scrub hd b
  have howner (k : Nat) (hk : k < s.mbx.length) (h16 : k < 16) (hbit : (partMbxs ws).testBit k = true) :
      (a.mbxAt k).owner = BitVec.ofNat 4 d := by
    obtain ⟨-, -, hown⟩ := v.adopted_mbxAt r ws live scrub hd k
    exact hown (by rw [hlen]; exact hk) h16 hbit
  have ht : t = if !c.awaitEpoch ∧ !(Removal.any ⟨s.heldWords d, ws⟩) then a.cleanEnd c else a := by
    have hidle : ((v.recorded r d ws live scrub).seqAt d).run.isSome = false := by
      rw [State.seqAt_of_seqs hrec.seqs d, show (v.seqAt d).run = none from hrun]
      rfl
    rw [show t = _ from v.recordPart_eq r d ws live scrub, hidle, if_neg Bool.false_ne_true, State.afterAdopt_adopt, ← hremoval false]
    rfl
  cases hleaves : Removal.any ⟨s.heldWords d, ws⟩ with
  | true =>
    rw [hleaves, if_neg (by simp)] at ht
    rw [ht]
    exact ⟨hadopts, fun _ => ⟨c, hcleaning, rfl, rfl, rfl⟩, nofun, howner⟩
  | false =>
    rw [hleaves, if_pos ⟨rfl, rfl⟩] at ht
    obtain ⟨-, -, hnone, -, -, -⟩ := a.cleanEnd_spec c
    obtain ⟨halen, hambx, -⟩ := v.adopted_mbxAt r ws live scrub hd m
    have ham : a.mbxAt m = { s.mbxAt m with reqHead := (s.mbxAt m).reqHead + 1, owner := (a.mbxAt m).owner } := by
      rw [show a.mbxAt m = _ from hambx, State.take_mbxAt h.lt hone]
    have hworks : a.kol.works = true := by
      rw [show a.kol = _ from hakol, hrkol]
      exact h.works
    obtain ⟨htail, hsame⟩ := a.cleanEnd_mbxAt (c := c) (Removal.mbxs_of_not_any (by rw [show a.removal c = _ from hremoval true]; exact hleaves)) hone
      (by rw [show a.mbx.length = _ from halen, hlen]; exact h.lt) hworks (by rw [show (c.req).mbox = m from rfl, ham]; exact h.overrun)
      (by rw [show (c.req).mbox = m from rfl, ham]; exact h.resetBusy)
    rw [ht]
    refine ⟨hadopts.cleanEnd rfl, nofun, fun _ => ⟨hnone hcleaning, htail.trans ?_⟩, fun k hk h16 hbit => (hsame k).trans (howner k hk h16 hbit)⟩
    rw [show (c.req).mbox = m from rfl, ham]

/-! ## PART_SET (R133) -/

theorem State.take_partRecord (s : State) (m : Nat) : (s.take (s.reqAt m)).partRecord (s.reqAt m) =
    (List.range 16).map fun i => (s.mbxAt m).mem.read64 (0x1000 + field (s.argAt m 2) 0 12 + 8 * i) := by
  unfold State.partRecord
  rw [s.take_mem]
  rfl

/-- A PART_SET with ACTIVE 1 that passes its checks. -/
theorem runPartSet_active {r : Req} {d : Nat} {ws : List Word} (s : State) (hd : field (r.arg 1) 0 3 = d) (hlt : d < s.cfg.nSeq)
    (hactive : (r.arg 1).getLsbD 8 = true) (hws : s.partRecord r = ws) (h8 : field (r.arg 2) 0 12 % 8 = 0) (hoff : field (r.arg 2) 0 12 ≤ 0xF80)
    (harg : recBadArg ws = false) (hrange : s.recBadRange d ws = false) (hscrub : (r.arg 1).getLsbD 9 = true → s.anyEpoch = false)
    (hkey : (s.seqAt d).run.isSome = true → (s.partAt d).words.drop 8 = ws.drop 8) : runPartSet r s = s.addRecord r := by
  subst hd hws
  have hidle : ¬ (((r.arg 1).getLsbD 9 && s.anyEpoch) ||
      ((s.seqAt (field (r.arg 1) 0 3)).run.isSome && (s.partAt (field (r.arg 1) 0 3)).words.drop 8 != (s.partRecord r).drop 8)) = true := by
    simp only [Bool.or_eq_true, Bool.and_eq_true, bne_iff_ne]
    rintro (⟨h, hany⟩ | ⟨h, hne⟩)
    · exact Bool.false_ne_true ((hscrub h).symm.trans hany)
    · exact hne (hkey h)
  unfold runPartSet
  dsimp only
  rw [if_neg (Nat.not_le.2 hlt), if_pos hactive, if_neg (by omega), harg, if_neg Bool.false_ne_true, hrange, if_neg Bool.false_ne_true, if_neg hidle]

/-- A PART_SET with ACTIVE 0 of a domain that is not live has nothing to do. -/
theorem runPartSet_gone {r : Req} {d : Nat} (s : State) (hd : field (r.arg 1) 0 3 = d) (hlt : d < s.cfg.nSeq)
    (hactive : (r.arg 1).getLsbD 8 = false) (hlive : (s.partAt d).live = false) : runPartSet r s = s.answer r rOk := by
  subst hd
  unfold runPartSet
  dsimp only
  rw [if_neg (Nat.not_le.2 hlt), hactive, if_neg Bool.false_ne_true, hlive, if_pos (by rfl)]

/-- A PART_SET with ACTIVE 0 that passes its checks. -/
theorem runPartSet_delete {r : Req} {d : Nat} (s : State) (hd : field (r.arg 1) 0 3 = d) (hlt : d < s.cfg.nSeq)
    (hactive : (r.arg 1).getLsbD 8 = false) (hlive : (s.partAt d).live = true) (hscrub : (r.arg 1).getLsbD 9 = true → s.anyEpoch = false)
    (hkey : (s.seqAt d).run.isSome = true → partKeyGen (s.partAt d).words = 0) : runPartSet r s = s.addRecord r := by
  subst hd
  have hidle : ¬ (((r.arg 1).getLsbD 9 && s.anyEpoch) ||
      ((s.seqAt (field (r.arg 1) 0 3)).run.isSome && partKeyGen (s.partAt (field (r.arg 1) 0 3)).words != 0)) = true := by
    simp only [Bool.or_eq_true, Bool.and_eq_true, bne_iff_ne]
    rintro (⟨h, hany⟩ | ⟨h, hne⟩)
    · exact Bool.false_ne_true ((hscrub h).symm.trans hany)
    · exact hne (hkey h)
  unfold runPartSet
  dsimp only
  rw [if_neg (Nat.not_le.2 hlt), hactive, if_neg Bool.false_ne_true, hlive, if_neg (by simp), if_neg hidle]

theorem pickPartSet_reqAt {active : Bool} (h : s.serves m 0x20 = true) (ha : (s.argAt m 1).getLsbD 8 = active) :
    pickPartSet active s (s.reqAt m) = true := by
  obtain ⟨-, -, -, -, hop, -⟩ := (s.serves_iff m _).1 h
  have ha' : ((s.reqAt m).arg 1).getLsbD 8 = active := ha
  simp only [pickPartSet, hop, ha', beq_self_eq_true, Bool.and_self]

/-- A PART_SET on a running sequencer with room in its run queue: the record waits as an ADOPT entry. -/
theorem State.recordPart_running {r : Req} {d : Nat} {ws : List Word} {live scrub : Bool} (s : State) (hd : d < s.parts.length)
    (hq : d < s.seqs.length) (hrun : (s.seqAt d).run.isSome = true) :
    let t := s.recordPart r d ws live scrub
    ((t.partAt d).live = live ∧ (t.partAt d).words = ws ∧ (∀ e, e ≠ d → t.partAt e = s.partAt e) ∧ t.kol.held = none) ∧
      (t.partAt d).pending = true ∧ (t.partAt d).liveNow = (s.partAt d).liveNow ∧ (t.partAt d).wordsNow = (s.partAt d).wordsNow ∧
      t.seqAt d = { s.seqAt d with runq := (s.seqAt d).runq ++ [.adopt] } ∧
      ∃ c, t.kol.cleaning = some c ∧ c.dom = d ∧ c.adopted = false ∧ c.req = r := by
  intro t
  obtain ⟨hk, hkol, hothers, hlive, hwords, hpending, hliveNow, hwordsNow⟩ := s.recorded_spec r ws live scrub hd
  have hsame : (s.recorded r d ws live scrub).seqAt d = s.seqAt d := State.seqAt_of_seqs hk.seqs d
  have ht : t = (s.recorded r d ws live scrub).onSeq d fun q => { q with runq := q.runq ++ [.adopt] } := by
    refine (s.recordPart_eq r d ws live scrub).trans (if_pos ?_)
    rw [hsame]
    exact hrun
  have hseq : t.seqAt d = { s.seqAt d with runq := (s.seqAt d).runq ++ [.adopt] } := by
    rw [ht, State.onSeq_seqAt_self _ (by rw [hk.seqs]; exact hq), hsame]
  rw [ht] at hseq ⊢
  exact ⟨⟨hlive, hwords, hothers, congrArg Kolate.held hkol⟩, hpending, hliveNow, hwordsNow, hseq, _, congrArg Kolate.cleaning hkol, rfl, rfl, rfl⟩

/-- What the record of a PART_SET of domain d has done, by the state of the domain's sequencer. -/
structure State.recordedIn (s t : State) (m d : Nat) (live : Bool) (ws : List Word) : Prop where
  record : (s.seqAt d).run = none ∨ (s.seqAt d).runq.length < 8 →
    (t.partAt d).live = live ∧ (t.partAt d).words = ws ∧ (∀ e, e ≠ d → t.partAt e = s.partAt e) ∧ t.kol.held = none
  idle : (s.seqAt d).run = none → (t.partAt d).pending = false ∧ (t.partAt d).liveNow = live ∧ (t.partAt d).wordsNow = ws ∧
    ((Removal.any ⟨s.heldWords d, ws⟩) = true → ∃ c, t.kol.cleaning = some c ∧ c.dom = d ∧ c.adopted = true ∧ c.req = s.reqAt m) ∧
    ((Removal.any ⟨s.heldWords d, ws⟩) = false → t.kol.cleaning = none ∧ (t.mbxAt m).cplTail = (s.mbxAt m).cplTail + 1) ∧
    ∀ k, k < 16 → (partMbxs ws).testBit k = true → (t.mbxAt k).owner = BitVec.ofNat 4 d
  running : (s.seqAt d).run.isSome = true → (s.seqAt d).runq.length < 8 → (t.partAt d).pending = true ∧
    (t.partAt d).liveNow = (s.partAt d).liveNow ∧ (t.partAt d).wordsNow = (s.partAt d).wordsNow ∧
    t.seqAt d = { s.seqAt d with runq := (s.seqAt d).runq ++ [.adopt] } ∧
    ∃ c, t.kol.cleaning = some c ∧ c.dom = d ∧ c.adopted = false ∧ c.req = s.reqAt m
  full : (s.seqAt d).run.isSome = true → 8 ≤ (s.seqAt d).runq.length → t.kol.stalled = true ∧ t.kol.held = some (s.reqAt m) ∧ s.keeps t [.mbx, .kol]

theorem State.offers.recordedIn_idle (h : s.offers m) (hone : (s.reqAt m).twice = false) {d : Nat} {ws : List Word} {live scrub : Bool}
    (hd : d < s.parts.length) (hmbx : s.mbx.length = 16) (hrun : (s.seqAt d).run = none) :
    s.recordedIn ((s.take (s.reqAt m)).recordPart (s.reqAt m) d ws live scrub) m d live ws := by
  obtain ⟨hadopts, hleaves, hstays, howner⟩ := h.recordPart_idle hone (ws := ws) (live := live) (scrub := scrub) hd hrun
  have hnot : (s.seqAt d).run.isSome ≠ true := by simp [hrun]
  exact
    { record := fun _ => ⟨hadopts.live, hadopts.words, hadopts.others, hadopts.held⟩
      idle := fun _ => ⟨hadopts.pending, hadopts.liveNow, hadopts.wordsNow, hleaves, hstays,
        fun k hk => howner k (by rw [hmbx]; exact hk) hk⟩
      running := fun hr => absurd hr hnot
      full := fun hr => absurd hr hnot }

theorem State.recordedIn_running (s : State) (m : Nat) {d : Nat} {ws : List Word} {live scrub : Bool} (hd : d < s.parts.length)
    (hq : d < s.seqs.length) (hrun : (s.seqAt d).run.isSome = true) (hroom : (s.seqAt d).runq.length < 8) :
    s.recordedIn ((s.take (s.reqAt m)).recordPart (s.reqAt m) d ws live scrub) m d live ws := by
  obtain ⟨hrec, hwaits⟩ := (s.take (s.reqAt m)).recordPart_running (r := s.reqAt m) (ws := ws) (live := live) (scrub := scrub) hd hq hrun
  exact
    { record := fun _ => hrec
      idle := fun hn => absurd hrun (by simp [hn])
      running := fun _ _ => hwaits
      full := fun _ hfull => absurd hroom (Nat.not_lt.2 hfull) }

theorem State.recordedIn_full (s : State) (m : Nat) {d : Nat} {ws : List Word} {live : Bool} (hrun : (s.seqAt d).run.isSome = true)
    (hfull : 8 ≤ (s.seqAt d).runq.length) (hkeep : (s.take (s.reqAt m)).kol.held = some (s.reqAt m)) :
    s.recordedIn (s.take (s.reqAt m)).stall m d live ws := by
  have hsome : (s.seqAt d).run ≠ none := fun hn => by simp [hn] at hrun
  exact
    { record := fun hr => (hr.elim hsome (Nat.not_lt.2 hfull)).elim
      idle := fun hn => absurd hn hsome
      running := fun _ hroom => absurd hfull (Nat.not_le.2 hroom)
      full := fun _ _ => ⟨rfl, hkeep, (s.keeps_take _).trans ((State.keeps_onKol _ _).mono (by decide))⟩ }

/-- A PART_SET that has passed its checks, by the state of the domain's sequencer. -/
theorem State.addRecord_recordedIn {d : Nat} {ws : List Word} {live : Bool} (h : s.serves m 0x20 = true) (hd : field (s.argAt m 1) 0 3 = d)
    (hlt : d < s.cfg.nSeq) (hlive : (s.argAt m 1).getLsbD 8 = live)
    (hws : (if live then (s.take (s.reqAt m)).partRecord (s.reqAt m) else List.replicate 16 0) = ws) :
    s.recordedIn ((s.take (s.reqAt m)).addRecord (s.reqAt m)) m d live ws := by
  obtain ⟨-, hshape, -⟩ := (s.serves_iff m _).1 h
  have hparts : d < s.parts.length := lt_of_lt_of_eq hlt (congrArg Shape.parts ((State.shaped_iff s).1 hshape)).symm
  have hsame : (s.take (s.reqAt m)).seqAt d = s.seqAt d := rfl
  rw [State.addRecord_eq (d := d) (scrub := (s.argAt m 1).getLsbD 9) _ hd hlive rfl hws, hsame]
  cases hrun : (s.seqAt d).run with
  | none => exact (State.serves_offers h).recordedIn_idle (State.reqAt_twice h (by decide)) hparts (State.shaped_mbx hshape) hrun
  | some e =>
    have hsome : (s.seqAt d).run.isSome = true := by rw [hrun]; rfl
    split_ifs with hfull
    · exact s.recordedIn_full m hsome (by simpa using hfull) rfl
    · exact s.recordedIn_running m hparts (lt_of_lt_of_eq hlt (State.shaped_seqs hshape).symm) hsome (by simpa using hfull)

theorem exec_partSetActive {d : Nat} {ws : List Word} (h : s.serves m 0x20 = true) (hd : field (s.argAt m 1) 0 3 = d) (hlt : d < s.cfg.nSeq)
    (hactive : (s.argAt m 1).getLsbD 8 = true)
    (hws : ((List.range 16).map fun i => (s.mbxAt m).mem.read64 (0x1000 + field (s.argAt m 2) 0 12 + 8 * i)) = ws)
    (h8 : field (s.argAt m 2) 0 12 % 8 = 0) (hoff : field (s.argAt m 2) 0 12 ≤ 0xF80)
    (harg : recBadArg ws = false) (hrange : s.recBadRange d ws = false) (hscrub : (s.argAt m 1).getLsbD 9 = true → s.anyEpoch = false)
    (hkey : (s.seqAt d).run.isSome = true → (s.partAt d).words.drop 8 = ws.drop 8) :
    ∃ t, exec (.partSetActive m) s = .next t ∧ s.recordedIn t m d true ws := by
  have hrec : (s.take (s.reqAt m)).partRecord (s.reqAt m) = ws := (s.take_partRecord m).trans hws
  refine ⟨_, ronnoEntry_served runPartSet (fun r s => s.addRecord r) h (pickPartSet_reqAt h hactive), ?_⟩
  rw [runPartSet_active (d := d) (ws := ws) (s.take (s.reqAt m)) hd hlt hactive hrec h8 hoff harg hrange hscrub hkey]
  exact State.addRecord_recordedIn h hd hlt hactive hrec

theorem exec_partSetDelete_gone {d : Nat} (h : s.serves m 0x20 = true) (hd : field (s.argAt m 1) 0 3 = d) (hlt : d < s.cfg.nSeq)
    (hactive : (s.argAt m 1).getLsbD 8 = false) (hgone : (s.partAt d).live = false) :
    ∃ t, exec (.partSetDelete m) s = .next t ∧ s.completed t m 0 0 0 0 0 ∧ s.onlyAnswered t m [] := by
  refine ⟨_, ronnoEntry_served runPartSet (fun r s => s.addRecord r) h (pickPartSet_reqAt h hactive), ?_⟩
  rw [runPartSet_gone (d := d) (s.take (s.reqAt m)) hd hlt hactive hgone]
  exact State.served_answered h (by decide) _

theorem exec_partSetDelete {d : Nat} (h : s.serves m 0x20 = true) (hd : field (s.argAt m 1) 0 3 = d) (hlt : d < s.cfg.nSeq)
    (hactive : (s.argAt m 1).getLsbD 8 = false) (hlive : (s.partAt d).live = true) (hscrub : (s.argAt m 1).getLsbD 9 = true → s.anyEpoch = false)
    (hkey : (s.seqAt d).run.isSome = true → partKeyGen (s.partAt d).words = 0) :
    ∃ t, exec (.partSetDelete m) s = .next t ∧ s.recordedIn t m d false (List.replicate 16 0) := by
  refine ⟨_, ronnoEntry_served runPartSet (fun r s => s.addRecord r) h (pickPartSet_reqAt h hactive), ?_⟩
  rw [runPartSet_delete (d := d) (s.take (s.reqAt m)) hd hlt hactive hlive hscrub hkey]
  exact State.addRecord_recordedIn h hd hlt hactive rfl

/-! ## PARTITION_ADOPT and PARTITION_CLEAN_DONE (R136, R137) -/

/-- The ADOPT entry is taken whatever its boundary brings, an abort of the epoch included. -/
theorem exec_partitionAdopt_adopts {c : Cleaning} (hc : s.kol.cleaning = some c) (ha : c.adopted = false) :
    ∃ t, exec (.partitionAdopt c.dom) s = .next t ∧ (t.partAt c.dom).pending = false ∧ .adopt ∉ (t.seqAt c.dom).runq ∧ t.kol.stalled = false ∧
      ∀ e, t.kol.cleaning = some e → e.adopted = true := by
  refine ⟨_, exec_partitionAdopt hc rfl ha, State.adoptTaken_spec _ { c with awaitEpoch := _ } ?_ ?_⟩
  · split_ifs
    · rw [(State.keeps_abortEpoch _ c.dom 0x20 none).kol]
      rfl
    · rfl
  · split_ifs
    · rw [State.abortEpoch_runq]
      exact s.adoptTaken_runq c.dom c.since
    · exact s.adoptTaken_runq c.dom c.since

/-- The end of a cleaning: the record of its domain acts, and what left is zero. -/
theorem State.cleanEnd_cleans {c : Cleaning} (s : State) (hc : s.kol.cleaning = some c) (hshape : s.shaped = true) :
    let r := s.removal c
    let t := s.cleanEnd c
    t.kol.cleaning = none ∧ t.partAt c.dom = { s.partAt c.dom with liveNow := (s.partAt c.dom).live, wordsNow := (s.partAt c.dom).words } ∧
      (∀ e, e ≠ c.dom → t.partAt e = s.partAt e) ∧
      (∀ i ∈ r.tables, ∀ b, 2560 * i ≤ b → b < 2560 * i + 2560 → t.tables.read b = 0) ∧
      (∀ g ∈ r.ledger, ∀ b, 32 * g.1 ≤ b → b < 32 * g.2 → t.ledger.read b = 0) ∧
      (∀ k ∈ r.mbxs, k < 16 → k ≠ c.req.mbox → (t.mbxAt k).owner = 0xF ∧ (t.mbxAt k).mem = []) ∧
      (c.scrubSp = false → t.sp = s.sp) ∧ (c.scrubSp = true → ∀ g ∈ r.bytes, ∀ b, g.1 ≤ b → b < g.2 → t.sp.read b = 0) := by
  intro r t
  let u := (s.takeRecord c.dom).clean c.dom r c.scrubSp
  have hdone : u.keeps t [.coll, .mbx, .kol] := (s.clean_keeps_cleaned c).andThen (State.keeps_complete _ c.req rOk 0 0 0 0)
  obtain ⟨htables, hledger, hmbxs, hkeep, hbytes⟩ := (s.takeRecord c.dom).clean_zero c.dom r c.scrubSp
  obtain ⟨-, -, hnone, -, hparts, -⟩ := s.cleanEnd_spec c
  have hself := (hparts c.dom).trans ((s.takeRecord_partAt c.dom c.dom).trans (if_pos rfl))
  have hothers (e : Nat) (he : e ≠ c.dom) : t.partAt e = s.partAt e := (hparts e).trans ((s.takeRecord_partAt c.dom e).trans (if_neg he))
  refine ⟨hnone hc, hself, hothers, ?_, ?_, fun k hk h16 hne => ?_, fun hno => ?_, fun hyes => ?_⟩
  · rw [hdone.tables]
    exact htables
  · rw [hdone.ledger]
    exact hledger
  · have hat : t.mbxAt k = u.mbxAt k :=
      (State.complete_mbxAt_other _ c.req rOk 0 0 0 0 hne).trans (State.mbxAt_of_mbx (s.clean_keeps_cleaned c).mbx k)
    rw [hat]
    exact hmbxs k hk (lt_of_lt_of_eq h16 (State.shaped_mbx hshape).symm)
  · rw [hdone.sp]
    exact hkeep hno
  · rw [hdone.sp]
    exact hbytes hyes

/-- Settles O34: the record of a PART_SET by its sequencer's state, the ADOPT entry whatever its boundary brings, and the cleaning stage by stage.
-/
theorem partitionsAreRecordedAdoptedAndCleaned : Obligations.PartitionsAreRecordedAdoptedAndCleaned := by
  unfold Obligations.PartitionsAreRecordedAdoptedAndCleaned
  refine ⟨?record, ?adopt, ?clean⟩
  case record =>
    intro m s h d scrub off ws old records hd hscrub
    have explicit {t : State} {live : Bool} {new : List Word} (ht : s.recordedIn t m d live new) : records t live new :=
      ⟨ht.record, ht.idle, ht.running, ht.full⟩
    refine ⟨fun hactive h8 hoff harg hrange hkey => ?active, fun hactive hgone => ?gone, fun hactive hlive hkey => ?delete⟩
    case active =>
      obtain ⟨t, ht, hrec⟩ := exec_partSetActive h rfl hd hactive rfl h8 hoff harg hrange hscrub hkey
      exact ⟨t, ht, explicit hrec⟩
    case gone => exact exec_partSetDelete_gone h rfl hd hactive hgone
    case delete =>
      obtain ⟨t, ht, hrec⟩ := exec_partSetDelete h rfl hd hactive hlive hscrub hkey
      exact ⟨t, ht, explicit hrec⟩
  case adopt =>
    rintro q c s hc rfl ha
    exact exec_partitionAdopt_adopts hc ha
  case clean =>
    intro c s hc ha hshape hrun r
    exact ⟨_, exec_partitionCleanDone hc ha hrun, s.cleanEnd_cleans hc hshape⟩

end Sys2Proof.Machine
end
